-- ==== Sys2Proof/Word.lean ====
section
/-! DEFINITION. The words of the CDA-412 model: bytes, codes, frame numbers, and the fixed small collections
(four channels, three slots, three colour components) in which the manual counts its state. -/

namespace Sys2Proof

/-- A byte of a record, a message, a token or the flash. -/
abbrev Byte := BitVec 8

/-- A string of bytes, first byte first. -/
abbrev Bytes := List Byte

/-- A 16-bit frame number (00_scope, Frame numbers). -/
abbrev FrameNo := BitVec 16

/-- A 10-bit pixel code (00_scope, Pixel values). -/
abbrev Code := BitVec 10

/-- A channel, an input port, an output port or a link: 0..3. -/
abbrev Channel := Fin 4

/-- A slot of a channel's slot ring: 0..2 (R77). -/
abbrev SlotNo := Fin 3

/-- A blend set: 0..3 (R51). -/
abbrev SetNo := Fin 4

/-- A dome presence vector or a LOSSMAP mask (00_scope, Bit vectors). -/
abbrev Vec32 := BitVec 32

/-- A finite map held as a list of key and value pairs, keys strictly rising; a key not listed is absent. -/
abbrev Assoc (α : Type) := List (Nat × α)

/-- One value for each of the four channels. -/
structure Quad (α : Type) where
  c0 : α
  c1 : α
  c2 : α
  c3 : α
deriving DecidableEq, Repr

/-- The value of channel `k`. -/
def Quad.get {α : Type} (q : Quad α) (k : Channel) : α :=
  match k with
  | 0 => q.c0
  | 1 => q.c1
  | 2 => q.c2
  | 3 => q.c3

/-- The same values but for channel `k`, which takes `x`. -/
def Quad.set {α : Type} (q : Quad α) (k : Channel) (x : α) : Quad α :=
  match k with
  | 0 => { q with c0 := x }
  | 1 => { q with c1 := x }
  | 2 => { q with c2 := x }
  | 3 => { q with c3 := x }

/-- The value a rule gives each channel. -/
def Quad.of {α : Type} (f : Channel → α) : Quad α := ⟨f 0, f 1, f 2, f 3⟩

/-- The same value for every channel. -/
def Quad.all {α : Type} (x : α) : Quad α := ⟨x, x, x, x⟩

/-- The four channels in order. -/
def channels : List Channel := [0, 1, 2, 3]

/-- One value for each of the three slots of a channel. -/
structure Trio (α : Type) where
  s0 : α
  s1 : α
  s2 : α
deriving DecidableEq, Repr

/-- The value of slot `i`. -/
def Trio.get {α : Type} (t : Trio α) (i : SlotNo) : α :=
  match i with
  | 0 => t.s0
  | 1 => t.s1
  | 2 => t.s2

/-- The same values but for slot `i`, which takes `x`. -/
def Trio.set {α : Type} (t : Trio α) (i : SlotNo) (x : α) : Trio α :=
  match i with
  | 0 => { t with s0 := x }
  | 1 => { t with s1 := x }
  | 2 => { t with s2 := x }

/-- The value a rule gives each slot. -/
def Trio.of {α : Type} (f : SlotNo → α) : Trio α := ⟨f 0, f 1, f 2⟩

/-- The three slots in order. -/
def slotNos : List SlotNo := [0, 1, 2]

/-- One value for each colour component: red, green, blue. -/
structure Rgb (α : Type) where
  r : α
  g : α
  b : α
deriving DecidableEq, Repr

/-- The rule applied to each component. -/
def Rgb.map {α β : Type} (f : α → β) (p : Rgb α) : Rgb β := ⟨f p.r, f p.g, f p.b⟩

/-- A pixel of three codes. -/
abbrev Pixel := Rgb Code

/-- Code 0 on every component. -/
def Pixel.zero : Pixel := ⟨0, 0, 0⟩

/-- `x` brought into `lo..hi` (00_scope, Division and rounding: clamped). -/
def clampNat (lo hi x : Nat) : Nat := min (max lo x) hi

/-- `x` brought into `lo..hi`, signed. -/
def clampInt (lo hi x : Int) : Int := min (max lo x) hi

end Sys2Proof
end

