-- ==== Sys2Proof/Config.lean ====
section
/-! DEFINITION. What the straps and the silicon fix (arrangements, roles, size limits, capacities) and the one free
value of the model, an opaque constant that no proof can see into. -/

namespace Sys2Proof

/-- The three arrangements of the part (00_scope, Arrangements and straps). -/
inductive Arrangement where
  | a
  | b
  | c
deriving DecidableEq, Repr

/-- The part's role on the Sky Ring (R94). -/
inductive Role where
  | solo
  | master
  | follower
deriving DecidableEq, Repr

namespace Config

/-- The free value: whatever the silicon does where the manual states no choice. It has no body; the state's counter
`free` feeds it, so that each use is fresh (assumption log 3). -/
opaque freeChoice : Nat → Nat

/-- Cells the cell queue holds (R153). -/
def cellQueueDepth : Nat := 32
/-- Entries a reply queue holds, replies and completions together (R155). -/
def replyQueueDepth : Nat := 16
/-- Records the fault log holds (R188). -/
def faultLogDepth : Nat := 8
/-- Entries of a tile cache (R14). -/
def tileEntries : Nat := 64
/-- Records of the directory (R53). -/
def directoryRecords : Nat := 64
/-- Pages of the pool (R49). -/
def poolPages : Nat := 512
/-- Bytes of a page (R49). -/
def pageBytes : Nat := 4096
/-- Bytes of the flash: 16 MiB (R194). -/
def flashBytes : Nat := 16777216
/-- Bytes of a flash sector: 64 KiB (R194). -/
def sectorBytes : Nat := 65536
/-- Periods of REFCLK (10 ns) in a microsecond (R120). -/
def ticksPerUs : Nat := 100
/-- Periods of REFCLK in a millisecond. -/
def ticksPerMs : Nat := 100000
/-- A fill unanswered for 20 µs times out (R19). -/
def fillTimeoutTicks : Nat := 20 * ticksPerUs
/-- 8 ms without a status report count as presence lost (R128). -/
def reportTimeoutTicks : Nat := 8 * ticksPerMs
/-- The longest payload of a cell (R153). -/
def maxCellPayload : Nat := 1035
/-- The most entry data of a TABLE WRITE or TABLE READ (R59, R61). -/
def maxEntryData : Nat := 1024
/-- The most directory records of one TABLE LIST reply (R70). -/
def listRecords : Nat := 48

end Config

namespace Arrangement

/-- Whether the channel exists in the arrangement: in C, channels 1 and 3 are management links alone (00_scope). -/
def hasChannel (arr : Arrangement) (k : Channel) : Bool :=
  match arr with
  | .c => k == 0 || k == 2
  | _ => true

/-- Largest raster width (00_scope, R125). -/
def maxWidth : Arrangement → Nat
  | .a => 2560
  | .b => 1920
  | .c => 4096

/-- Largest raster height (00_scope, R125). -/
def maxHeight : Arrangement → Nat
  | .a => 1600
  | .b => 1200
  | .c => 2400

/-- Shortest frame period in microseconds (00_scope, R125). -/
def minPeriod : Arrangement → Nat
  | .b => 8334
  | _ => 16667

/-- Largest source width (00_scope, R78). -/
def maxSourceWidth : Arrangement → Nat
  | .c => 4608
  | _ => 3072

/-- Largest source height (00_scope, R78). -/
def maxSourceHeight : Arrangement → Nat
  | .c => 2880
  | _ => 2048

/-- Line-memory pages, which are also the number of the first table page (R49). -/
def linePages : Arrangement → Nat
  | .c => 128
  | _ => 64

/-- Table pages (R49). -/
def tablePages (arr : Arrangement) : Nat := Config.poolPages - arr.linePages

end Arrangement

end Sys2Proof
end

