-- ==== Sys2Proof/Syntax.lean ====
section
/-! DEFINITION. The commands of the block: one constructor for each row of spec/opcode_table.json. A command is
something that reaches the part or comes about in it: a record on a lane, a token, a pulse, a timer event, a fetch or
a flash operation ending, or the management engine serving the oldest cell of its queue. -/

namespace Sys2Proof

/-- A storage cell that has gone bad since the last command: from now on its parity check fails (R20, R21, R71). A
command whose step reads protected storage carries the list of those found bad during it. -/
inductive Upset where
  /-- Entry `entry` of the table instance in directory record `record` (R71). -/
  | pool (record entry : Nat)
  /-- The tag of an entry of a channel's tile cache (R21). -/
  | tileTag (channel : Channel) (entry : Fin 64)
  /-- The tile data of an entry of a channel's tile cache (R20). -/
  | tileData (channel : Channel) (entry : Fin 64)
deriving DecidableEq, Repr

/-- Where a completion that is due waits (R155): that of a default fill (R57), named by its place among those waiting,
the oldest 0, or that of the image loader's operation (R193). -/
inductive OpRecord where
  | fill (n : Nat)
  | image
deriving DecidableEq, Repr

/-- The commands. Ports, links, outputs and channels are numbered 0..3. Records and tokens come as their bytes. The
operand `done` counts the elementary flash operations (a sector erase, a byte programmed) that an interrupted STORE
phase had completed; it is not read where no STORE runs. -/
inductive Instr where
  -- start-up and straps
  | pinReset (arr role : BitVec 2) (pos : BitVec 3) (done : Nat)
  | startupHeaderReadDone
  | imageCheckReadDone
  | startupLoadDone
  -- input ports and forward records
  | inputCarrierDetected (port : Channel)
  | inputTrainingDone (port : Channel)
  | inputLinkLost (port : Channel)
  | frameOpen (port : Channel) (record : Bytes)
  | line (port : Channel) (record : Bytes)
  | frameClose (port : Channel) (record : Bytes)
  | recordUnknown (port : Channel) (record : Bytes)
  | cell (port : Channel) (record : Bytes)
  -- serving the oldest cell of the cell queue
  | identify
  | status
  | set
  | get
  | clear
  | faultRead
  | restartOutput
  | resetFull
  | resetFullEffect (done : Nat)
  | resetPipeline
  | badCommand
  | tableOpen
  | tableWrite
  | tableRead (upsets : List Upset)
  | tableSeal
  | tableDropStaged
  | tableDropLive
  | tableSwap
  | tableList
  | store
  | load
  -- operations that take time
  | defaultFillPageDone
  | completionEnqueue (op : OpRecord)
  | storePhaseDone (upsets : List Upset)
  | flashWriteFailed (done : Nat)
  | loadReadDone
  -- reverse lanes of the input ports
  | reverseLaneSend (port : Channel)
  | reverseSendEnd (port : Channel)
  -- the raster timer
  | frameStart (upsets : List Upset)
  | syncPulse (upsets : List Upset)
  | ownStart (upsets : List Upset)
  | lineDeadline
  -- the Sky Ring
  | musterHandle (token : Bytes)
  | musterReturn (token : Bytes)
  | showHandle (token : Bytes)
  | showReturn (token : Bytes)
  -- warp and light units
  | warpLineBegin (channel : Channel)
  | warpPixel (channel : Channel) (upsets : List Upset)
  | tileFillComplete (channel : Channel) (read : Nat) (upsets : List Upset)
  | tileFillTimeout (channel : Channel) (read : Nat) (upsets : List Upset)
  | lightPixelWrite (channel : Channel) (upsets : List Upset)
  -- output ports
  | statusReport (output : Channel) (locked : Bool)
  | reverseCarrierLost (output : Channel)
  | reportTimeout (output : Channel)
  | settleExpiry (output : Channel)
  | relockExpiry (output : Channel)
deriving DecidableEq, Repr

end Sys2Proof
end

