-- ==== Sys2Proof/Machine/Assoc.lean ====
section
/-! DEFINITION. Finite maps in one canonical form: a list of key and value pairs with the keys strictly rising. They
hold the flash, the lines of a slot, the entries of a table, the tile cache and the directory. -/

namespace Sys2Proof.Machine

namespace Assoc

variable {α : Type}

/-- The value at key `k`, if the map lists one. -/
def find : Assoc α → Nat → Option α
  | [], _ => none
  | (j, x) :: rest, k => if j = k then some x else find rest k

/-- The map with `x` at key `k`, in the place of any value listed there. -/
def insert : Assoc α → Nat → α → Assoc α
  | [], k, x => [(k, x)]
  | (j, y) :: rest, k, x =>
    if k < j then (k, x) :: (j, y) :: rest
    else if k = j then (k, x) :: rest
    else (j, y) :: insert rest k x

/-- The map without key `k`. -/
def erase (m : Assoc α) (k : Nat) : Assoc α := m.filter fun e => e.1 != k

/-- The map with the value at key `k`, if there is one, replaced by what `f` makes of it. -/
def modify (m : Assoc α) (k : Nat) (f : α → α) : Assoc α := m.map fun e => if e.1 = k then (e.1, f e.2) else e

/-- Every key is above `lo`, and the keys rise strictly. -/
def risingFrom : Nat → Assoc α → Bool
  | _, [] => true
  | lo, (k, _) :: rest => decide (lo ≤ k) && risingFrom (k + 1) rest

/-- The canonical form: keys strictly rising. -/
def wf (m : Assoc α) : Bool := risingFrom 0 m

/-- The lowest key below `bound` that the map does not list. -/
def lowestFree (m : Assoc α) (bound : Nat) : Option Nat := (List.range bound).find? fun k => (find m k).isNone

end Assoc

/-! ### The flash as a memory (R194): 16 MiB of bytes, an unlisted one reading as erased -/

namespace Memory

/-- What a flash byte reads as that nothing has programmed since its sector was erased: all ones (R197, R199). -/
def erased : Byte := 0xFF

/-- The byte at address `a`. -/
def read (m : Assoc Byte) (a : Nat) : Byte := (Assoc.find m a).getD erased

/-- The bytes at `a`, `a + 1`, … -/
def readBytes (m : Assoc Byte) (a n : Nat) : Bytes := (List.range n).map fun i => read m (a + i)

/-- The pairs of address and byte of a block at `a`, without the erased bytes and without those beyond the flash (R194:
the addresses end at FFFFFFh, and an image of at most 512 pages of tables does not reach them). -/
def cellsFrom : Nat → Bytes → Assoc Byte
  | _, [] => []
  | a, x :: rest =>
    if x = erased || decide (Config.flashBytes ≤ a) then cellsFrom (a + 1) rest else (a, x) :: cellsFrom (a + 1) rest

/-- The map with the block `bs` at `a` in the place of what stood there. -/
def writeBytes (m : Assoc Byte) (a : Nat) (bs : Bytes) : Assoc Byte :=
  (m.filter fun e => e.1 < a) ++ cellsFrom a bs ++ m.filter fun e => a + bs.length ≤ e.1

/-- The map with the `n` bytes at `a` erased. -/
def eraseRange (m : Assoc Byte) (a n : Nat) : Assoc Byte := m.filter fun e => e.1 < a || a + n ≤ e.1

/-- The canonical form: addresses strictly rising, within the flash, and no entry that reads as erased. -/
def wf (m : Assoc Byte) : Bool :=
  Assoc.wf m && m.all fun e => e.2 != erased && decide (e.1 < Config.flashBytes)

end Memory

end Sys2Proof.Machine
end

