-- ==== Sys2Proof/Machine/State.lean ====
section
/-! DEFINITION. The state of the CDA-412 as plain data: every register, buffer, queue, counter and mark that the
manual gives the part, unit by unit, and the value each takes at a pin reset. The comments cite the rule that names a
field; INVENTORY.md lists them all with width and reset value. -/

namespace Sys2Proof.Machine

/-- Why the machine stops with a fault. No row of the table stops the part, so no reason is listed: the part reports
trouble in conditions and in its fault log, which are state. -/
inductive Fault where
deriving DecidableEq, Repr

/-- Why a command has no meaning. -/
inductive Refusal where
  /-- Raised by an arm of `exec` whose command is not modelled yet (safe: nothing follows from it). No arm raises it. -/
  | notModelled (mnemonic : String)
deriving DecidableEq, Repr

/-! ### Straps (R192) -/

/-- The strap record: the values sampled and what is taken from them. -/
structure StrapRecord where
  arrSampled : BitVec 2
  roleSampled : BitVec 2
  posSampled : BitVec 3
  arrangement : Arrangement
  role : Role
  position : BitVec 3
  fault : Bool
deriving DecidableEq, Repr

/-! ### Input ports (R73, R76) -/

/-- Link state of an input port (R73). -/
inductive LinkState where
  | down
  | training
  | locked
deriving DecidableEq, Repr

/-- The frame-in-progress record of an input port (R76). -/
inductive FrameInProgress where
  | none
  | receiving (slot : SlotNo) (frame : FrameNo)
  | ignoring
deriving DecidableEq, Repr

structure InputPort where
  link : LinkState
  progress : FrameInProgress
deriving DecidableEq, Repr

/-! ### Slots (R77, R85, R86) -/

inductive SlotState where
  | empty
  | filling
  | ready
  | shown
deriving DecidableEq, Repr

/-- A slot record with its region of DRAM (R77). `lines` holds the pixels of the lines received: the line map marks
exactly the lines listed. -/
structure Slot where
  state : SlotState
  frame : FrameNo
  width : Nat
  height : Nat
  lines : Assoc (List Pixel)
  damaged : Nat
  reserved : Bool
deriving DecidableEq, Repr

/-- The last reject reason of a channel (R85). -/
inductive RejectReason where
  | none
  | size
  | truncated
  | damaged
  | linkLost
deriving DecidableEq, Repr

/-- The slot ring of a channel with its quiet count (R86) and last reject reason (R85). -/
structure SlotRing where
  slots : Trio Slot
  quiet : Nat
  reject : RejectReason
deriving DecidableEq, Repr

/-! ### The coherence unit (R96) -/

inductive CoherenceMode where
  | coherent
  | loose
deriving DecidableEq, Repr

/-- The outcome of a round (R103): SHOW F, REPEAT or LOOSE. -/
inductive RoundOutcome where
  | show (frame : FrameNo)
  | repeat
  | loose
deriving DecidableEq, Repr

/-- The round record: on a master the open round, on a follower the last MUSTER handled (R96). -/
structure Round where
  seq : BitVec 8
  proposal : Option FrameNo
deriving DecidableEq, Repr

/-- The pending outcome, with its presence vector where it came from a SHOW (R96). On a follower a pending outcome
without a vector is the local LOOSE of R109. -/
structure PendingOutcome where
  outcome : RoundOutcome
  vector : Option Vec32
deriving DecidableEq, Repr

/-- A SHOW that the master has sent (R105). -/
structure ShowRecord where
  seq : BitVec 8
  vector : Vec32
  returned : Bool
deriving DecidableEq, Repr

structure Coherence where
  mode : CoherenceMode
  shown : Option FrameNo
  channelShown : Quad (Option FrameNo)
  repeatCount : Nat
  seq : BitVec 8
  round : Option Round
  floor : Option FrameNo
  pending : Option PendingOutcome
  showSent : Option ShowRecord
  showApplied : Option ShowRecord
  musterMark : Bool
  missCount : Nat
  ringLost : Bool
  ownStarts : Nat
  syncLost : Bool
deriving DecidableEq, Repr

/-! ### The raster timer (R120) -/

/-- The phase of the raster timer, with the next line whose deadline is to come. -/
inductive RasterPhase where
  | activeLines (next : Nat)
  | blanking
deriving DecidableEq, Repr

/-- The raster timer. `start` is the model's REFCLK count at the latest frame start (or at the release of a reset), so
that the frame time is `now - start`; `begun` says that a frame start has come since the reset (R123), `ownLast` that
the latest one was a follower's own start (R114). -/
structure RasterTimer where
  width : Nat
  height : Nat
  periodUs : Nat
  start : Nat
  phase : RasterPhase
  musterLine : Nat
  musterDone : Bool
  begun : Bool
  ownLast : Bool
deriving DecidableEq, Repr

/-! ### The warp unit (R13, R14) -/

/-- The tag of a tile: slot, tile column, tile row (R13). -/
structure Tag where
  slot : SlotNo
  col : Nat
  row : Nat
deriving DecidableEq, Repr

/-- An entry of the tile cache that is FILLING or VALID (R14); an entry not listed is INVALID. `order` is its place in
the order of allocation and names the DRAM read issued for it; `issued` is the REFCLK count of that read's issue. The
marks `tagBad` and `dataBad` say that the parity of the tag or of the tile data fails. -/
inductive TileEntry where
  | filling (tag : Tag) (order : Nat) (issued : Nat) (cancelled : Bool) (tagBad : Bool)
  | valid (tag : Tag) (order : Nat) (data : List (List Pixel)) (tagBad : Bool) (dataBad : Bool)
deriving DecidableEq, Repr

/-- A pixel that waits for tiles: its source position after the clamp (R9, R13), and the tags whose lookups are still to
be made, the first of which waits for an entry (R16). -/
structure WaitingPixel where
  x : Nat
  y : Nat
  todo : List Tag
deriving DecidableEq, Repr

/-- The walk of a frame (R5, R6): the line the unit is on, the next column to compute, whether the line's deadline has
ended it, and the pixel that waits. -/
structure Walk where
  line : Nat
  col : Nat
  ended : Bool
  waiting : Option WaitingPixel
deriving DecidableEq, Repr

/-- A warp unit. `mesh` is the directory record of the MESH in use (R4); `nextOrder` the next place in the order of
allocation. -/
structure WarpUnit where
  cache : Assoc TileEntry
  nextOrder : Nat
  failed : List Tag
  edgeMark : Bool
  mesh : Option Nat
  walk : Option Walk
deriving DecidableEq, Repr

/-! ### The light unit (R33, R34, R35) -/

/-- Output modes (R136). -/
inductive OutputMode where
  | video
  | black
  | flat
  | flatBlended
deriving DecidableEq, Repr

/-- The nine coefficients of the colour matrix, by output component and then input component (R27). -/
abbrev Matrix := Rgb (Rgb Int)

/-- The frame parameters (R33). `tone` and `blend` are directory records of the instances in use; the flat sample is
taken in FLAT_BLENDED mode alone. -/
structure FrameParameters where
  mode : OutputMode
  tone : Option Nat
  blend : Option Nat
  matrix : Matrix
  dither : Bool
  flatCodes : Pixel
  flatSample : Option (Rgb Nat)
deriving DecidableEq, Repr

/-- The form of a frame (R34). `noLines`: no line is handed. `zeroed`: a walked frame that a PIPELINE reset has
stopped, whose lines are handed with code 0 (R26, R48). -/
inductive FrameForm where
  | noLines
  | dark
  | flat
  | walked
  | zeroed
deriving DecidableEq, Repr

/-- How a pixel is handed to the light unit (R35). -/
inductive Handed where
  | sample (light : Rgb Nat)
  | black
deriving DecidableEq, Repr

/-- A pixel the light unit holds (R35). -/
structure HeldPixel where
  u : Nat
  v : Nat
  as : Handed
deriving DecidableEq, Repr

/-- A line of the line buffer: the codes written so far, the latest first, each with its column (R5, R35). -/
structure LineBuffer where
  line : Nat
  written : List (Nat × Pixel)
deriving DecidableEq, Repr

/-- A line as it was handed to the output port (R23). -/
structure HandedLine where
  line : Nat
  codes : List Pixel
deriving DecidableEq, Repr

structure LightUnit where
  params : Option FrameParameters
  form : FrameForm
  held : List HeldPixel
  buffers : List LineBuffer
  handed : Option HandedLine
deriving DecidableEq, Repr

/-! ### Output ports (R127, R128, R129) -/

inductive PortState where
  | absent
  | settling
  | active
  | retrain
  | failed
deriving DecidableEq, Repr

inductive LockRecord where
  | none
  | locked
  | notLocked
deriving DecidableEq, Repr

/-- What the forward lane of an output has carried (R127). -/
inductive LaneItem where
  | frameStart
  | line (number : Nat) (codes : List Pixel)
deriving DecidableEq, Repr

/-- An output port. `expires` is the REFCLK count at which the countdown running expires; `lastReport` that of the
latest status report; `lane` what the forward lane has carried, the latest last. -/
structure OutputPort where
  state : PortState
  lock : LockRecord
  expires : Option Nat
  lastReport : Option Nat
  lane : List LaneItem
deriving DecidableEq, Repr

/-! ### The loss selector (R139) -/

structure LossSelector where
  confirmed : Quad Bool
  count : Quad Nat
  applied : Vec32
  chosen : Quad SetNo
  selected : Quad SetNo
  setMissing : Quad Bool
deriving DecidableEq, Repr

/-! ### The table store (R51 to R54, R57, R65) -/

/-- The key of a table (R51). -/
inductive Key where
  | mesh (channel : Channel)
  | blend (channel : Channel) (set : SetNo)
  | tone (channel : Channel)
  | lossmap
deriving DecidableEq, Repr

/-- The dimensions of a MESH or a BLEND (R1, R30). -/
structure Dims where
  spacing : Nat
  cols : Nat
  rows : Nat
deriving DecidableEq, Repr

/-- An entry of a table: a MESH point (R2), a BLEND node (R31), a TONE entry (R28) or a LOSSMAP rule (R52). -/
inductive Entry where
  | point (x y : Int) (valid : Bool)
  | node (weight lift : Nat)
  | value (v : Int)
  | rule (mask : Vec32) (sets : Quad SetNo)
deriving DecidableEq, Repr

/-- The state of a table instance, which also gives its bank: LIVE, or one of the three staged states (R53). -/
inductive TableState where
  | filling
  | open
  | sealed
  | live
deriving DecidableEq, Repr

/-- The two banks. -/
inductive Bank where
  | live
  | staged
deriving DecidableEq, Repr

/-- A directory record with the entries its pages hold (R53). `contents` lists the entries that differ from the
kind's default; `bad` the entries whose parity fails (R71). -/
structure TableRecord where
  key : Key
  state : TableState
  firstPage : Nat
  pageCount : Nat
  dims : Option Dims
  locked : Bool
  dropMark : Bool
  contents : Assoc Entry
  bad : List Nat
deriving DecidableEq, Repr

/-- The pending swap record (R65). -/
structure PendingSwap where
  keys : List Key
  target : Option FrameNo
  deferred : Bool
deriving DecidableEq, Repr

/-- Status of a completion (R155). -/
inductive CompletionStatus where
  | ok
  | failed
deriving DecidableEq, Repr

/-- A completion that is due and waits for room in a reply queue (R155). -/
structure Completion where
  link : Channel
  tag : Byte
  status : CompletionStatus
deriving DecidableEq, Repr

/-- The fill running (R57): the directory record being filled, the next page to write, the OPEN cell's tag and link. -/
structure FillOp where
  record : Nat
  nextPage : Nat
  tag : Byte
  link : Channel
deriving DecidableEq, Repr

/-- The table store. The fill operation record is `fill` while a fill runs; `fillDue` holds the completions of fills that
have ended and wait for room, the oldest first (R57, R155; assumption log 12). -/
structure TableStore where
  directory : Assoc TableRecord
  swap : Option PendingSwap
  fill : Option FillOp
  fillDue : List Completion
  unfit : Quad Bool
deriving DecidableEq, Repr

/-! ### The management engine (R153 to R160, R180 to R188) -/

/-- An entry of the cell queue (R153). -/
structure Cell where
  link : Channel
  tag : Byte
  command : Byte
  payload : Bytes
  discard : Bool
deriving DecidableEq, Repr

/-- Reply statuses, in the order of their codes (R155, R168). -/
inductive Status where
  | ok
  | clamped
  | accepted
  | badCommand
  | badArgument
  | noTable
  | noSpace
  | state
  | locked
  | busy
  | pending
  | unavailable
deriving DecidableEq, Repr

/-- An entry of a reply queue (R155): a reply or a completion. `resets` marks the OK reply of a RESET FULL, whose
sending the engine waits for (R164). -/
inductive QueueEntry where
  | reply (tag : Byte) (status : Status) (payload : Bytes) (resets : Bool)
  | completion (tag : Byte) (status : CompletionStatus)
deriving DecidableEq, Repr

/-- A reverse message being sent: its bytes, and whether it is the reply of a RESET FULL. -/
structure Sending where
  message : Bytes
  resets : Bool
deriving DecidableEq, Repr

/-- The reverse lane of an input port with its reply queue (R155, R156); `sent` lists the messages whose sending has
ended, the latest last. -/
structure ReverseLane where
  replies : List QueueEntry
  sending : Option Sending
  sent : List Bytes
deriving DecidableEq, Repr

/-- The wait of a RESET FULL (R164): the link of its cell, and whether its reply has been sent or discarded. -/
structure ResetWait where
  link : Channel
  answered : Bool
deriving DecidableEq, Repr

/-- Inactive policies (R91). -/
inductive InactivePolicy where
  | hold
  | black
deriving DecidableEq, Repr

/-- The settings (R160). -/
structure Settings where
  channelEnable : BitVec 4
  rasterWidth : Nat
  rasterHeight : Nat
  framePeriodUs : Nat
  musterOffset : Nat
  ringLength : Nat
  coherenceLimit : Nat
  ringLossLimit : Nat
  inputTimeout : Nat
  damageLimit : Nat
  settleMs : Nat
  relockMs : Nat
  lossConfirm : Nat
  returnConfirm : Nat
  inactivePolicy : Quad InactivePolicy
  dither : Quad Bool
  outputMode : Quad OutputMode
  flatLevel : Quad Pixel
  noticeLink : Channel
  noticeEnable : BitVec 45
deriving DecidableEq, Repr

/-- A condition by its number (R180). -/
abbrev Cond := Fin 45

/-- A notice with what was fixed when it was queued (R184). -/
structure Notice where
  cond : Cond
  channel : Option Channel
  frame : Option FrameNo
deriving DecidableEq, Repr

/-- Classes of fault, in the order of their codes (R177, R188). -/
inductive FaultClass where
  | tagParity
  | dataParity
  | poolParity
  | fillTimeout
  | ringFormat
  | imageCheck
  | flashWrite
deriving DecidableEq, Repr

/-- Where a fault was found (R188). -/
inductive FaultLocation where
  | absent
  | tile (col row : Nat)
  | page (number : Nat)
  | seq (number : BitVec 8)
deriving DecidableEq, Repr

/-- A record of the fault log (R188). -/
structure FaultRecord where
  cls : FaultClass
  channel : Option Channel
  frame : Option FrameNo
  location : FaultLocation
deriving DecidableEq, Repr

/-! ### The image loader (R193) -/

/-- The phases of the start-up load (R195): reading the header, the checking read, the second read. -/
inductive StartupPhase where
  | header
  | check
  | apply
deriving DecidableEq, Repr

/-- The phases of a STORE (R197). -/
inductive StorePhase where
  | p1
  | p2
  | p3
  | p4
deriving DecidableEq, Repr

/-- The operation running (R193). A STORE holds the settings copied and the records of the tables taken, in image
order (R197); a LOAD the records it created, each with the offset of its table data in the body (R200). -/
inductive ImageOp where
  | startup (phase : StartupPhase)
  | store (link : Channel) (tag : Byte) (phase : StorePhase) (copy : Settings) (tables : List Nat)
  | load (link : Channel) (tag : Byte) (tables : List (Nat × Nat))
deriving DecidableEq, Repr

/-- What the loader last found in the flash (R193). -/
inductive ImageState where
  | none
  | bad
  | good
deriving DecidableEq, Repr

/-- The image loader. Its operation record is `op` while an operation runs and `due` while its completion waits. -/
structure ImageLoader where
  op : Option ImageOp
  due : Option Completion
  image : ImageState
deriving DecidableEq, Repr

/-! ### The part -/

/-- The state of the part. `pending` is the queue of commands that wait, `now` the model's count of REFCLK periods and
`free` the counter of the free value; `ringOut` and `syncPulses` are what RING_OUT and SYNC_IO have carried. -/
structure State where
  pending : List Instr
  now : Nat
  free : Nat
  straps : StrapRecord
  inputs : Quad InputPort
  rings : Quad SlotRing
  coh : Coherence
  timer : RasterTimer
  warps : Quad WarpUnit
  lights : Quad LightUnit
  outputs : Quad OutputPort
  modes : Quad OutputMode
  loss : LossSelector
  tables : TableStore
  cells : List Cell
  resetWait : Option ResetWait
  lanes : Quad ReverseLane
  settings : Settings
  latches : BitVec 45
  notices : List Notice
  faults : List FaultRecord
  overflow : Bool
  loader : ImageLoader
  flash : Assoc Byte
  ringOut : List Bytes
  syncPulses : Nat
deriving DecidableEq, Repr

/-! ### Reset values -/

/-- The strap record of straps all tied to ground (DESIGN CHOICE, assumption log 1): arrangement A, solo, position 0. -/
def StrapRecord.grounded : StrapRecord := ⟨0, 0, 0, .a, .solo, 0, false⟩

/-- An EMPTY slot (R77). Its frame number and size, meaningless while EMPTY, are 0 at reset (DESIGN CHOICE, log 2). -/
def Slot.reset : Slot := ⟨.empty, 0, 0, 0, [], 0, false⟩

def SlotRing.reset : SlotRing := ⟨⟨.reset, .reset, .reset⟩, 255, .none⟩

/-- The coherence unit after any reset (R96). -/
def Coherence.reset : Coherence :=
  { mode := .coherent, shown := none, channelShown := Quad.all none, repeatCount := 0, seq := 0, round := none,
    floor := none, pending := none, showSent := none, showApplied := none, musterMark := false, missCount := 0,
    ringLost := false, ownStarts := 0, syncLost := false }

/-- The raster timer after a pin or FULL reset (R120); the muster line and muster done are placed at the first frame
start (DESIGN CHOICE, log 2). -/
def RasterTimer.reset (now : Nat) : RasterTimer :=
  { width := 1920, height := 1200, periodUs := 16667, start := now, phase := .blanking, musterLine := 0,
    musterDone := false, begun := false, ownLast := false }

/-- A warp unit after a pin or FULL reset (R14, R19, R9); reads issued before it keep their numbers to themselves. -/
def WarpUnit.reset (nextOrder : Nat) : WarpUnit :=
  { cache := [], nextOrder := nextOrder, failed := [], edgeMark := false, mesh := none, walk := none }

def LightUnit.reset : LightUnit := ⟨none, .noLines, [], [], none⟩

/-- An output port after a pin or FULL reset (R135). -/
def OutputPort.reset (lane : List LaneItem) : OutputPort := ⟨.absent, .none, none, none, lane⟩

def LossSelector.reset : LossSelector :=
  { confirmed := Quad.all true, count := Quad.all 0, applied := BitVec.allOnes 32, chosen := Quad.all 0,
    selected := Quad.all 0, setMissing := Quad.all false }

def TableStore.reset : TableStore := ⟨[], none, none, [], Quad.all false⟩

def ReverseLane.reset (sent : List Bytes) : ReverseLane := ⟨[], none, sent⟩

/-- The reset values of the settings (R160). -/
def Settings.reset : Settings :=
  { channelEnable := 15, rasterWidth := 1920, rasterHeight := 1200, framePeriodUs := 16667, musterOffset := 64,
    ringLength := 2, coherenceLimit := 6, ringLossLimit := 3, inputTimeout := 10, damageLimit := 4, settleMs := 200,
    relockMs := 500, lossConfirm := 12, returnConfirm := 60, inactivePolicy := Quad.all .hold,
    dither := Quad.all true, outputMode := Quad.all .video, flatLevel := Quad.all ⟨512, 512, 512⟩, noticeLink := 0,
    noticeEnable := 0 }

/-- The part at the release of RESET_N with its straps grounded: every block at its pin-reset value and the start-up
load begun, before the first frame start that R123 makes at the release (assumption log 1). -/
def State.reset : State :=
  { pending := [], now := 0, free := 0, straps := .grounded,
    inputs := Quad.all ⟨.down, .none⟩, rings := Quad.all .reset, coh := .reset, timer := .reset 0,
    warps := Quad.all (.reset 0), lights := Quad.all .reset, outputs := Quad.all (.reset []),
    modes := Quad.all .video, loss := .reset, tables := .reset, cells := [], resetWait := none,
    lanes := Quad.all (.reset []), settings := .reset, latches := 0, notices := [], faults := [], overflow := false,
    loader := ⟨some (.startup .header), none, .none⟩, flash := [], ringOut := [], syncPulses := 0 }

end Sys2Proof.Machine
end

