-- ==== Sys2Proof/Machine/Ops.lean ====
section
/-! DEFINITION. The named updates of the state that the meanings share: one unit of one channel replaced, the clock
brought forward, storage cells going bad. -/

namespace Sys2Proof.Machine

/-! ### One unit of one channel -/

def State.setInput (s : State) (k : Channel) (x : InputPort) : State := { s with inputs := s.inputs.set k x }
def State.setRing (s : State) (k : Channel) (x : SlotRing) : State := { s with rings := s.rings.set k x }
def State.setWarp (s : State) (k : Channel) (x : WarpUnit) : State := { s with warps := s.warps.set k x }
def State.setLight (s : State) (k : Channel) (x : LightUnit) : State := { s with lights := s.lights.set k x }
def State.setOutput (s : State) (k : Channel) (x : OutputPort) : State := { s with outputs := s.outputs.set k x }
def State.setLane (s : State) (k : Channel) (x : ReverseLane) : State := { s with lanes := s.lanes.set k x }

/-! ### Units as a whole -/

def State.setTables (s : State) (x : TableStore) : State := { s with tables := x }
def State.setDirectory (s : State) (x : Assoc TableRecord) : State := { s with tables := { s.tables with directory := x } }
def State.setCoh (s : State) (x : Coherence) : State := { s with coh := x }
def State.setLoader (s : State) (x : ImageLoader) : State := { s with loader := x }

/-- Whether a channel exists in the arrangement taken (R49, R192). -/
def State.hasChannel (s : State) (k : Channel) : Bool := s.straps.arrangement.hasChannel k

/-! ### Time

REFCLK drives every link and the raster timer. The model counts its periods in `now`: one for each step on an empty
queue, and a timer event brings the count up to the moment the event falls at (assumption log 4). -/

/-- The clock brought up to `t`. -/
def State.advanceTo (s : State) (t : Nat) : State := { s with now := max s.now t }

/-- One period of REFCLK. -/
def State.tick (s : State) : State := { s with now := s.now + 1 }

/-- The frame time (R120): periods of REFCLK since the latest frame start. -/
def State.frameTime (s : State) : Nat := s.now - s.timer.start

/-! ### The free value -/

/-- A fresh free value (assumption log 3). -/
def State.freeValue (s : State) : Nat := Config.freeChoice s.free

/-- The counter moved past the `n` free values used. -/
def State.useFree (s : State) (n : Nat) : State := { s with free := s.free + n }

/-- A member of the list, whichever the free value names; none where the list is empty. -/
def freePick {α : Type} (n : Nat) : List α → Option α
  | [] => none
  | [x] => some x
  | xs => xs[n % xs.length]?

/-! ### Storage cells that go bad (R20, R21, R71) -/

/-- The table instance with one more entry whose parity fails. -/
def TableRecord.spoil (r : TableRecord) (i : Nat) : TableRecord := if i ∈ r.bad then r else { r with bad := i :: r.bad }

/-- The tile entry with the parity of its tag failing. -/
def TileEntry.spoilTag : TileEntry → TileEntry
  | .filling t o n c _ => .filling t o n c true
  | .valid t o d _ db => .valid t o d true db

/-- The tile entry with the parity of its data failing; only a VALID entry holds data. -/
def TileEntry.spoilData : TileEntry → TileEntry
  | .valid t o d tb _ => .valid t o d tb true
  | e => e

/-- One storage cell gone bad. -/
def State.upset (s : State) : Upset → State
  | .pool r i => s.setDirectory (Assoc.modify s.tables.directory r fun t => t.spoil i)
  | .tileTag k e =>
    let w := s.warps.get k
    s.setWarp k { w with cache := Assoc.modify w.cache e TileEntry.spoilTag }
  | .tileData k e =>
    let w := s.warps.get k
    s.setWarp k { w with cache := Assoc.modify w.cache e TileEntry.spoilData }

/-- The storage cells found bad during a command. -/
def State.upsets (s : State) (us : List Upset) : State := us.foldl State.upset s

end Sys2Proof.Machine
end

