-- ==== Sys2Proof/Machine/Flags.lean ====
section
/-! DEFINITION. The conditions (R180 to R182), the notices they queue (R183 to R185) and the fault log (R188). -/

namespace Sys2Proof.Machine

/-! ### The 45 conditions (R180) -/

namespace Cond

def faultLogged : Cond := 0
def cellDrop : Cond := 1
def ringLost : Cond := 2
def syncLost : Cond := 3
def coherenceLoose : Cond := 4
def presenceChanged : Cond := 5
def swapDone : Cond := 6
def swapLate : Cond := 7
def strapFault : Cond := 8

/-- Condition `i` of channel `k`: number 9 + 9·k + i (R180). -/
def ofChannel (k : Channel) (i : Fin 9) : Cond := ⟨9 + 9 * k + i, by omega⟩

def outputChange (k : Channel) : Cond := ofChannel k 0
def inputDown (k : Channel) : Cond := ofChannel k 1
def frameReject (k : Channel) : Cond := ofChannel k 2
def frameDrop (k : Channel) : Cond := ofChannel k 3
def frameHeld (k : Channel) : Cond := ofChannel k 4
def sourceEdge (k : Channel) : Cond := ofChannel k 5
def sourceLate (k : Channel) : Cond := ofChannel k 6
def tablesUnfit (k : Channel) : Cond := ofChannel k 7
def setMissing (k : Channel) : Cond := ofChannel k 8

/-- The channel of a condition; none for a global one (R180). -/
def channel (c : Cond) : Option Channel := if c.val < 9 then none else some ⟨(c.val - 9) / 9, by omega⟩

/-- The index of a channel's condition in the second table of R180. -/
def index (c : Cond) : Nat := (c.val - 9) % 9

/-- Whether the condition is a level condition; every other is an event condition (R180). -/
def isLevel (c : Cond) : Bool :=
  match channel c with
  | none => c == ringLost || c == syncLost || c == coherenceLoose || c == strapFault
  | some _ => index c == 1 || index c == 7 || index c == 8

/-- The conditions in order. -/
def all : List Cond := List.finRange 45

/-- The level conditions in order. -/
def levels : List Cond := all.filter isLevel

end Cond

/-- A level condition as its owner's state makes it (R182); false for an event condition. -/
def State.level (s : State) (c : Cond) : Bool :=
  match Cond.channel c with
  | none =>
    if c = Cond.ringLost then s.coh.ringLost
    else if c = Cond.syncLost then s.coh.syncLost
    else if c = Cond.coherenceLoose then s.coh.mode == .loose
    else if c = Cond.strapFault then s.straps.fault
    else false
  | some k =>
    if Cond.index c = 1 then (s.inputs.get k).link != .locked
    else if Cond.index c = 7 then s.tables.unfit.get k
    else if Cond.index c = 8 then s.loss.setMissing.get k
    else false

/-- Whether the condition is pending: a latch that is set, or a level that is true (R182). -/
def State.isPending (s : State) (c : Cond) : Bool := if Cond.isLevel c then s.level c else s.latches.getLsbD c

/-- The set of conditions for which `p` holds, condition c in bit c. -/
def condSet (p : Cond → Bool) : BitVec 45 :=
  Cond.all.foldl (fun b c => if p c then b ||| BitVec.twoPow 45 c else b) 0

/-- The pending set of R186. -/
def State.pendingSet (s : State) : BitVec 45 := condSet s.isPending

/-- Whether the condition is enabled (R160, notice_enable). -/
def State.enabled (s : State) (c : Cond) : Bool := s.settings.noticeEnable.getLsbD c

/-- The summary bit of a channel (R187). -/
def State.summary (s : State) (k : Channel) : Bool :=
  Cond.all.any fun c => Cond.channel c == some k && s.enabled c && s.isPending c

/-! ### The notice queue (R183, R184) -/

/-- The notice of a condition, fixed at the moment of queuing (R184). -/
def State.noticeOf (s : State) (c : Cond) : Notice :=
  { cond := c, channel := Cond.channel c,
    frame := match Cond.channel c with
      | none => s.coh.shown
      | some k => s.coh.channelShown.get k }

/-- The queue with a notice in its place by condition number: the lane takes the lowest first (R185). -/
def insertNotice (n : Notice) : List Notice → List Notice
  | [] => [n]
  | m :: rest => if n.cond < m.cond then n :: m :: rest else m :: insertNotice n rest

/-- The condition's notice queued, unless one of it waits already (R183). -/
def State.queueNotice (s : State) (c : Cond) : State :=
  if s.notices.any fun n => n.cond == c then s else { s with notices := insertNotice (s.noticeOf c) s.notices }

/-- An event condition raised: its latch becomes set, and where it was clear and the condition is enabled a notice is
queued (R181, R183). -/
def State.raise (s : State) (c : Cond) : State :=
  if s.latches.getLsbD c then s
  else
    let s := { s with latches := s.latches ||| BitVec.twoPow 45 c }
    if s.enabled c then s.queueNotice c else s

/-- The event conditions of a list raised in turn. -/
def State.raiseAll (s : State) (cs : List Cond) : State := cs.foldl State.raise s

/-- The notices of the enabled level conditions that a step has taken from false, in `before`, to true (R183). -/
def State.levelNotices (s before : State) : State :=
  Cond.levels.foldl (fun s c => if s.enabled c && !before.level c && s.level c then s.queueNotice c else s) s

/-- The enables replaced: a grant queues the notice of a pending condition, a removal withdraws the notice that waits
(R183). -/
def State.setEnables (s : State) (new : BitVec 45) : State :=
  let old := s.settings.noticeEnable
  let s := { s with settings := { s.settings with noticeEnable := new },
                    notices := s.notices.filter fun n => new.getLsbD n.cond || !old.getLsbD n.cond }
  Cond.all.foldl (fun s (c : Cond) => if new.getLsbD c && !old.getLsbD c && s.isPending c then s.queueNotice c else s) s

/-- The event conditions named by CLEAR cleared and their notices withdrawn; a level condition is left (R186). -/
def State.clearConditions (s : State) (named : BitVec 45) : State :=
  let events := named &&& condSet fun c => !Cond.isLevel c
  { s with latches := s.latches &&& ~~~events, notices := s.notices.filter fun n => !events.getLsbD n.cond }

/-! ### The fault log (R188) -/

/-- A fault found: it joins the log and raises FAULT_LOGGED, or, where the log holds 8 records, is lost and sets the
overflow flag (R188). -/
def State.recordFault (s : State) (f : FaultRecord) : State :=
  if s.faults.length < Config.faultLogDepth then { s with faults := s.faults ++ [f] }.raise Cond.faultLogged
  else { s with overflow := true }

/-- The faults of a list recorded in turn. -/
def State.recordFaults (s : State) (fs : List FaultRecord) : State := fs.foldl State.recordFault s

end Sys2Proof.Machine
end

