-- ==== Sys2Proof/Machine/Bytes.lean ====
section
/-! DEFINITION. Byte order and checks: fields are carried least significant byte first (R166), messages carry a 16-bit
check (R75), the calibration image a CRC-32 (R193). -/

namespace Sys2Proof.Machine

/-- The number that bytes carry, least significant byte first (R166). -/
def leNat : Bytes → Nat
  | [] => 0
  | b :: rest => b.toNat + 256 * leNat rest

/-- The number `v` carried in `n` bytes, least significant byte first (R166). -/
def toLe : Nat → Nat → Bytes
  | 0, _ => []
  | n + 1, v => BitVec.ofNat 8 v :: toLe n (v / 256)

/-- The `n` bytes from offset `off`. -/
def slice (bs : Bytes) (off n : Nat) : Bytes := (bs.drop off).take n

/-- The number in the `n` bytes from offset `off`. -/
def field (bs : Bytes) (off n : Nat) : Nat := leNat (slice bs off n)

/-- The byte at offset `off`, as a number. -/
def byteAt (bs : Bytes) (off : Nat) : Nat := field bs off 1

/-- The frame number in the two bytes from offset `off`. -/
def frameAt (bs : Bytes) (off : Nat) : FrameNo := BitVec.ofNat 16 (field bs off 2)

/-- A number of `bits` bits read as signed. -/
def signed (bits v : Nat) : Int := if v < 2 ^ (bits - 1) then (v : Int) else (v : Int) - 2 ^ bits

/-- A signed number in the form that `n` bytes carry. -/
def unsigned (bits : Nat) (v : Int) : Nat := (v % 2 ^ bits).toNat

/-- One shift of the line check's register (R75). -/
def crc16Shift (r : BitVec 16) : BitVec 16 := if r.msb then (r <<< 1) ^^^ 0x1021#16 else r <<< 1

/-- `f` applied `n` times. -/
def repeatFn {α : Type} (f : α → α) : Nat → α → α
  | 0, x => x
  | n + 1, x => repeatFn f n (f x)

/-- The register after one more byte (R75). -/
def crc16Byte (r : BitVec 16) (b : Byte) : BitVec 16 := repeatFn crc16Shift 8 (r ^^^ (b.zeroExtend 16 <<< 8))

/-- The 16-bit check of R75: polynomial 1021h, most significant bit first, from FFFFh, no final value. -/
def crc16 (bs : Bytes) : BitVec 16 := bs.foldl crc16Byte 0xFFFF#16

/-- The check as the two bytes that carry it. -/
def checkBytes (bs : Bytes) : Bytes := toLe 2 (crc16 bs).toNat

/-- Whether the two bytes at offset `off` carry the check of the bytes `covered`. -/
def checkGood (covered bs : Bytes) (off : Nat) : Bool := field bs off 2 == (crc16 covered).toNat

/-- A message or token: its kind byte, its body and the check over the body (R166). -/
def withCheck (kind : Byte) (body : Bytes) : Bytes := kind :: body ++ checkBytes body

/-- One shift of the CRC-32 register (R193). -/
def crc32Shift (r : BitVec 32) : BitVec 32 := if r.getLsbD 0 then (r >>> 1) ^^^ 0xEDB88320#32 else r >>> 1

/-- The register after one more byte (R193). -/
def crc32Byte (r : BitVec 32) (b : Byte) : BitVec 32 := repeatFn crc32Shift 8 (r ^^^ b.zeroExtend 32)

/-- The CRC-32 of the calibration image's body (R193). -/
def crc32 (bs : Bytes) : BitVec 32 := bs.foldl crc32Byte 0xFFFFFFFF#32 ^^^ 0xFFFFFFFF#32

end Sys2Proof.Machine
end

