-- ==== Sys2Proof/Machine/Operands.lean ====
section
/-! DEFINITION. How the operands of the commands are read: forward records (R167), Sky Ring tokens (R169), cells and
their payload fields (R172, R173), settings (R160, R174) and table entries (R170), each with its byte form. -/

namespace Sys2Proof.Machine

/-! ### Forward records (R166, R167) -/

/-- A FRAME-OPEN record: its frame number and the size of the frame. -/
structure FrameOpenRecord where
  frame : FrameNo
  width : Nat
  height : Nat
deriving DecidableEq, Repr

/-- A complete FRAME-OPEN record, or none where the kind or the length is not that of one (R166). -/
def parseFrameOpen (b : Bytes) : Option FrameOpenRecord :=
  if b.length = 7 && byteAt b 0 = 0x11 then some ⟨frameAt b 1, field b 3 2, field b 5 2⟩ else none

/-- The bytes of a FRAME-OPEN record (R167). -/
def frameOpenBytes (r : FrameOpenRecord) : Bytes := 0x11 :: (toLe 2 r.frame.toNat ++ toLe 2 r.width ++ toLe 2 r.height)

/-- A LINE record: line index, payload and the check it carries. -/
structure LineRecord where
  index : Nat
  payload : Bytes
  check : Nat
deriving DecidableEq, Repr

/-- A complete LINE record, or none (R166). -/
def parseLine (b : Bytes) : Option LineRecord :=
  if byteAt b 0 = 0x12 && 7 ≤ b.length && b.length = 7 + field b 3 2 then
    some ⟨field b 1 2, slice b 5 (field b 3 2), field b (5 + field b 3 2) 2⟩
  else none

/-- The bytes of a LINE record (R167). -/
def lineBytes (r : LineRecord) : Bytes :=
  0x12 :: (toLe 2 r.index ++ toLe 2 r.payload.length ++ r.payload ++ toLe 2 r.check)

/-- A pixel of a LINE payload: bits 0–9 red, 10–19 green, 20–29 blue, bits 30 and 31 ignored (R167). -/
def pixelOfWord (w : Nat) : Pixel := ⟨BitVec.ofNat 10 w, BitVec.ofNat 10 (w / 1024), BitVec.ofNat 10 (w / 1048576)⟩

/-- The first `n` pixels of a payload, 4 bytes each, column 0 first (R167). -/
def pixelsOf : Nat → Bytes → List Pixel
  | 0, _ => []
  | n + 1, b => pixelOfWord (field b 0 4) :: pixelsOf n (b.drop 4)

/-- A complete FRAME-CLOSE record's frame number, or none (R166). -/
def parseFrameClose (b : Bytes) : Option FrameNo := if b.length = 3 && byteAt b 0 = 0x13 then some (frameAt b 1) else none

/-- The bytes of a FRAME-CLOSE record (R167). -/
def frameCloseBytes (f : FrameNo) : Bytes := 0x13 :: toLe 2 f.toNat

/-- Whether a record is of kind CELL: it is then judged by R153, whatever its length. -/
def isCellRecord (b : Bytes) : Bool := b.head? == some 0x14

/-- What a good CELL record carries. -/
structure CellRecord where
  tag : Byte
  command : Byte
  payload : Bytes
deriving DecidableEq, Repr

/-- A CELL record of the form of R167 with a payload of at most 1035 bytes and a good cell check, the check covering
the tag to the end of the payload (R153); none otherwise. -/
def parseCell (b : Bytes) : Option CellRecord :=
  let n := field b 3 2
  if isCellRecord b && 7 ≤ b.length && b.length = 7 + n && n ≤ Config.maxCellPayload && checkGood (slice b 1 (4 + n)) b (5 + n) then
    some ⟨BitVec.ofNat 8 (byteAt b 1), BitVec.ofNat 8 (byteAt b 2), slice b 5 n⟩
  else none

/-- The bytes of a CELL record with a good check (R167). -/
def cellBytes (r : CellRecord) : Bytes := withCheck 0x14 ([r.tag, r.command] ++ toLe 2 r.payload.length ++ r.payload)

/-- Whether a record is one of the four kinds and complete, or of kind CELL; any other is discarded as a record of
unknown kind (R74, R166). -/
def knownRecord (b : Bytes) : Bool :=
  (parseFrameOpen b).isSome || (parseLine b).isSome || (parseFrameClose b).isSome || isCellRecord b

/-! ### Sky Ring tokens (R169) -/

/-- The fields of a MUSTER as carried (R97, R169): bit 0 of the flags says that the proposal is present, bit 1 the
floor, bit 2 is all_ready. -/
structure MusterToken where
  seq : BitVec 8
  flags : Byte
  proposalWord : FrameNo
  floorWord : FrameNo
  hop : BitVec 8
  vector : Vec32
deriving DecidableEq, Repr

/-- The proposal, or NONE. -/
def MusterToken.proposal (t : MusterToken) : Option FrameNo := if t.flags.getLsbD 0 then some t.proposalWord else none

/-- The floor, or NONE. -/
def MusterToken.floor (t : MusterToken) : Option FrameNo := if t.flags.getLsbD 1 then some t.floorWord else none

/-- Whether every part that has handled the token was ready. -/
def MusterToken.allReady (t : MusterToken) : Bool := t.flags.getLsbD 2

/-- The MUSTER that the bytes carry, or none where the kind, the length or the check is not good (R95, R166). -/
def parseMuster (b : Bytes) : Option MusterToken :=
  if b.length = 14 && byteAt b 0 = 0x21 && checkGood (slice b 1 11) b 12 then
    some { seq := BitVec.ofNat 8 (byteAt b 1), flags := BitVec.ofNat 8 (byteAt b 2), proposalWord := frameAt b 3,
           floorWord := frameAt b 5, hop := BitVec.ofNat 8 (byteAt b 7), vector := BitVec.ofNat 32 (field b 8 4) }
  else none

/-- The bytes of a MUSTER (R169). -/
def musterBytes (t : MusterToken) : Bytes :=
  withCheck 0x21 ([t.seq, t.flags] ++ toLe 2 t.proposalWord.toNat ++ toLe 2 t.floorWord.toNat ++ [t.hop] ++ toLe 4 t.vector.toNat)

/-- The fields of a SHOW as carried (R98, R169): outcome 0 SHOW, 1 REPEAT, 2 LOOSE; bit 0 of the flags says that the
proposal echo is present. -/
structure ShowToken where
  seq : BitVec 8
  outcomeCode : Byte
  flags : Byte
  frameWord : FrameNo
  echoWord : FrameNo
  vector : Vec32
deriving DecidableEq, Repr

/-- The proposal echo, or NONE. -/
def ShowToken.echo (t : ShowToken) : Option FrameNo := if t.flags.getLsbD 0 then some t.echoWord else none

/-- The outcome carried, or none where the code is not one of the three (R166). -/
def ShowToken.outcome (t : ShowToken) : Option RoundOutcome :=
  if t.outcomeCode = 0 then some (.show t.frameWord) else if t.outcomeCode = 1 then some .repeat
  else if t.outcomeCode = 2 then some .loose else none

/-- The SHOW that the bytes carry, or none where the kind, the length, the check or the outcome is not good (R95, R166). -/
def parseShow (b : Bytes) : Option ShowToken :=
  if b.length = 14 && byteAt b 0 = 0x22 && checkGood (slice b 1 11) b 12 && byteAt b 2 ≤ 2 then
    some { seq := BitVec.ofNat 8 (byteAt b 1), outcomeCode := BitVec.ofNat 8 (byteAt b 2),
           flags := BitVec.ofNat 8 (byteAt b 3), frameWord := frameAt b 4, echoWord := frameAt b 6,
           vector := BitVec.ofNat 32 (field b 8 4) }
  else none

/-- The bytes of a SHOW (R169). -/
def showBytes (t : ShowToken) : Bytes :=
  withCheck 0x22 ([t.seq, t.outcomeCode, t.flags] ++ toLe 2 t.frameWord.toNat ++ toLe 2 t.echoWord.toNat ++ toLe 4 t.vector.toNat)

/-! ### Commands, keys and fields (R172, R173) -/

/-- The commands a cell may carry. -/
inductive CommandId where
  | identify
  | status
  | set
  | get
  | clear
  | faultRead
  | restartOutput
  | reset
  | tableOpen
  | tableWrite
  | tableRead
  | tableSeal
  | tableDrop
  | tableSwap
  | tableList
  | store
  | load
deriving DecidableEq, Repr

/-- The command of an identifier, or none where the table gives none (R172). -/
def commandOf (id : Byte) : Option CommandId :=
  match id.toNat with
  | 0x01 => some .identify
  | 0x02 => some .status
  | 0x03 => some .set
  | 0x04 => some .get
  | 0x05 => some .clear
  | 0x06 => some .faultRead
  | 0x07 => some .restartOutput
  | 0x08 => some .reset
  | 0x10 => some .tableOpen
  | 0x11 => some .tableWrite
  | 0x12 => some .tableRead
  | 0x13 => some .tableSeal
  | 0x14 => some .tableDrop
  | 0x15 => some .tableSwap
  | 0x16 => some .tableList
  | 0x20 => some .store
  | 0x21 => some .load
  | _ => none

/-- A channel byte: 0..3 (R173). -/
def channelOf (n : Nat) : Option Channel := if h : n < 4 then some ⟨n, h⟩ else none

/-- A bank byte: LIVE 0, staged 1 (R173). -/
def bankOf (n : Nat) : Option Bank := if n = 0 then some .live else if n = 1 then some .staged else none

/-- A mode byte: FULL 0 (false), FIELD 1 (true) (R173). -/
def fieldModeOf (n : Nat) : Option Bool := if n = 0 then some false else if n = 1 then some true else none

/-- The channel of a key; none for the LOSSMAP (R51). -/
def Key.channel : Key → Option Channel
  | .mesh k => some k
  | .blend k _ => some k
  | .tone k => some k
  | .lossmap => none

/-- The key in the three bytes from offset `off` (R173), or none where its encoding is not legal. -/
def keyAt (b : Bytes) (off : Nat) : Option Key :=
  let ch := byteAt b (off + 1)
  let set := byteAt b (off + 2)
  match byteAt b off with
  | 0 => if set = 255 then (channelOf ch).map .mesh else none
  | 1 => match channelOf ch, channelOf set with
    | some k, some m => some (.blend k m)
    | _, _ => none
  | 2 => if set = 255 then (channelOf ch).map .tone else none
  | 3 => if ch = 255 && set = 255 then some .lossmap else none
  | _ => none

/-- The three bytes of a key (R173). -/
def Key.bytes : Key → Bytes
  | .mesh k => [0, BitVec.ofNat 8 k, 255]
  | .blend k m => [1, BitVec.ofNat 8 k, BitVec.ofNat 8 m]
  | .tone k => [2, BitVec.ofNat 8 k, 255]
  | .lossmap => [3, 255, 255]

/-- The kind code of a key (R173). -/
def Key.kindCode : Key → Byte
  | .mesh _ => 0
  | .blend _ _ => 1
  | .tone _ => 2
  | .lossmap => 3

/-- The fields that a FIELD-mode command may name (R51). -/
inductive FieldName where
  | srcX
  | srcY
  | valid
  | weight
  | lift
  | value
  | mask
  | sets
deriving DecidableEq, Repr

/-- The field of a field byte, for the kind of the key (R173). -/
def Key.fieldOf (key : Key) (n : Nat) : Option FieldName :=
  match key, n with
  | .mesh _, 0 => some .srcX
  | .mesh _, 1 => some .srcY
  | .mesh _, 2 => some .valid
  | .blend _ _, 0 => some .weight
  | .blend _ _, 1 => some .lift
  | .tone _, 0 => some .value
  | .lossmap, 0 => some .mask
  | .lossmap, 1 => some .sets
  | _, _ => none

/-- Bytes of a field (R51). -/
def FieldName.bytes : FieldName → Nat
  | .srcX => 4
  | .srcY => 4
  | .valid => 1
  | .weight => 2
  | .lift => 2
  | .value => 2
  | .mask => 4
  | .sets => 4

/-- Bytes of an entry in the pool and in a FULL-mode payload (R51). -/
def Key.entryBytes : Key → Nat
  | .mesh _ => 8
  | .blend _ _ => 4
  | .tone _ => 2
  | .lossmap => 8

/-- Whether the dimensions are legal for the kind (R1, R30); those of TONE and LOSSMAP are not read. -/
def Key.dimsLegal (key : Key) (d : Dims) : Bool :=
  match key with
  | .mesh _ => (d.spacing = 16 || d.spacing = 32 || d.spacing = 64) && 2 ≤ d.cols && d.cols ≤ 257 && 2 ≤ d.rows && d.rows ≤ 151
  | .blend _ _ => (d.spacing = 8 || d.spacing = 16) && 2 ≤ d.cols && d.cols ≤ 513 && 2 ≤ d.rows && d.rows ≤ 301
  | _ => true

/-- The dimensions an instance keeps: none for TONE and LOSSMAP (R53). -/
def Key.dimsKept (key : Key) (d : Dims) : Option Dims :=
  match key with
  | .mesh _ => some d
  | .blend _ _ => some d
  | _ => none

/-- The number of entries of a table (R51). -/
def Key.entryCount (key : Key) (d : Option Dims) : Nat :=
  match key with
  | .tone _ => 5129
  | .lossmap => 16
  | _ => match d with
    | some d => d.cols * d.rows
    | none => 0

/-- The page count of a table (R51). -/
def Key.pages (key : Key) (d : Option Dims) : Nat :=
  (key.entryBytes * key.entryCount d + Config.pageBytes - 1) / Config.pageBytes

/-! ### Table entries (R2, R28, R31, R52, R170) -/

/-- A MESH coordinate brought into its range (R2). -/
def clampCoord (v : Int) : Int := clampInt (-1048576) 1048575 v

/-- The default entry of a kind (R3, R29, R32, R52). -/
def Key.defaultEntry (key : Key) (d : Option Dims) (i : Nat) : Entry :=
  match key with
  | .mesh _ => match d with
    | some d => .point (min (64 * (i % d.cols) * d.spacing : Int) 1048575) (min (64 * (i / d.cols) * d.spacing : Int) 1048575) true
    | none => .point 0 0 true
  | .blend _ _ => .node 32768 0
  | .tone _ =>
    if i < 1024 then .value (64 * i + i / 16)
    else if i < 5120 then .value (min (16 * (i - 1024)) 65472 : Nat)
    else .value (if (i - 5120) / 3 = (i - 5120) % 3 then 8192 else 0)
  | .lossmap => .rule 0 (Quad.all 0)

/-- A set choice: above 3 it is stored as 3 (R52). -/
def setChoice (n : Nat) : SetNo := if h : n < 4 then ⟨n, h⟩ else 3

/-- The VALUE of TONE entry `i` in its stored form (R28). -/
def toneValue (i v : Nat) : Int :=
  if i < 1024 then v else if i < 5120 then (min v 65472 : Nat) else signed 16 v

/-- The entry that a FULL-mode payload entry stores at index `i` (R60, R170), and whether a value was clamped. -/
def Key.entryOfBytes (key : Key) (i : Nat) (b : Bytes) : Entry × Bool :=
  match key with
  | .mesh _ =>
    let x := signed 32 (field b 0 4)
    let y := signed 24 (field b 4 3)
    let v := byteAt b 7
    (.point (clampCoord x) (clampCoord y) (v != 0), clampCoord x != x || clampCoord y != y || decide (1 < v))
  | .blend _ _ =>
    let w := field b 0 2
    let l := field b 2 2
    (.node (min w 32768) (min l 16383), decide (32768 < w) || decide (16383 < l))
  | .tone _ =>
    let v := field b 0 2
    (.value (toneValue i v), decide (1024 ≤ i ∧ i < 5120 ∧ 65472 < v))
  | .lossmap =>
    let set (k : Channel) : Nat := byteAt b (4 + k)
    (.rule (BitVec.ofNat 32 (field b 0 4)) (Quad.of fun k => setChoice (set k)), channels.any fun k => decide (3 < set k))

/-- The FULL-mode payload entry of a stored entry (R170). -/
def Entry.bytes : Entry → Bytes
  | .point x y v => toLe 4 (unsigned 32 x) ++ toLe 3 (unsigned 24 y) ++ [if v then 1 else 0]
  | .node w l => toLe 2 w ++ toLe 2 l
  | .value v => toLe 2 (unsigned 16 v)
  | .rule m sets => toLe 4 m.toNat ++ channels.map fun k => BitVec.ofNat 8 (sets.get k)

/-- The entry that a FIELD-mode payload entry stores over `old` at index `i`: the named field from the payload, the
others kept (R60), and whether a value was clamped. -/
def Entry.withField (old : Entry) (f : FieldName) (i : Nat) (b : Bytes) : Entry × Bool :=
  match old, f with
  | .point _ y v, .srcX =>
    let x := signed 32 (field b 0 4)
    (.point (clampCoord x) y v, clampCoord x != x)
  | .point x _ v, .srcY =>
    let y := signed 32 (field b 0 4)
    (.point x (clampCoord y) v, clampCoord y != y)
  | .point x y _, .valid => (.point x y (byteAt b 0 != 0), decide (1 < byteAt b 0))
  | .node _ l, .weight => (.node (min (field b 0 2) 32768) l, decide (32768 < field b 0 2))
  | .node w _, .lift => (.node w (min (field b 0 2) 16383), decide (16383 < field b 0 2))
  | .value _, .value => (.value (toneValue i (field b 0 2)), decide (1024 ≤ i ∧ i < 5120 ∧ 65472 < field b 0 2))
  | .rule _ sets, .mask => (.rule (BitVec.ofNat 32 (field b 0 4)) sets, false)
  | .rule m _, .sets => (.rule m (Quad.of fun k => setChoice (byteAt b k)), channels.any fun k => decide (3 < byteAt b k))
  | e, _ => (e, false)

/-- The FIELD-mode payload entry of a stored entry (R170). -/
def Entry.fieldBytes (e : Entry) (f : FieldName) : Bytes :=
  match e, f with
  | .point x _ _, .srcX => toLe 4 (unsigned 32 x)
  | .point _ y _, .srcY => toLe 4 (unsigned 32 y)
  | .point _ _ v, .valid => [if v then 1 else 0]
  | .node w _, .weight => toLe 2 w
  | .node _ l, .lift => toLe 2 l
  | .value v, .value => toLe 2 (unsigned 16 v)
  | .rule m _, .mask => toLe 4 m.toNat
  | .rule _ sets, .sets => channels.map fun k => BitVec.ofNat 8 (sets.get k)
  | _, _ => []

/-! ### Settings (R160, R125, R174) -/

/-- The settings by name. -/
inductive SettingId where
  | channelEnable
  | rasterWidth
  | rasterHeight
  | framePeriodUs
  | musterOffset
  | ringLength
  | coherenceLimit
  | ringLossLimit
  | inputTimeout
  | damageLimit
  | settleMs
  | relockMs
  | lossConfirm
  | returnConfirm
  | inactivePolicy
  | dither
  | outputMode
  | flatLevel
  | noticeLink
  | noticeEnable
deriving DecidableEq, Repr

/-- The settings in the order of their identifiers (R174). -/
def settingIds : List SettingId :=
  [.channelEnable, .rasterWidth, .rasterHeight, .framePeriodUs, .musterOffset, .ringLength, .coherenceLimit,
   .ringLossLimit, .inputTimeout, .damageLimit, .settleMs, .relockMs, .lossConfirm, .returnConfirm, .inactivePolicy,
   .dither, .outputMode, .flatLevel, .noticeLink, .noticeEnable]

/-- The setting of an identifier, or none where R174 gives none. -/
def settingOf (n : Nat) : Option SettingId := settingIds[n]?

/-- The identifier of a setting (R174). -/
def SettingId.code (id : SettingId) : Nat := settingIds.idxOf id

/-- Whether the setting has a value for each channel (R160). -/
def SettingId.perChannel : SettingId → Bool
  | .inactivePolicy => true
  | .dither => true
  | .outputMode => true
  | .flatLevel => true
  | _ => false

/-- A flat level code: above 1023 it is stored as 1023 (R160). -/
def flatCode (n : Nat) : Nat := min n 1023

/-- The value stored for the value `v` sent: `v` where it is legal, and the legal value of R160 and R125 where not. -/
def SettingId.legal (arr : Arrangement) (st : Settings) (id : SettingId) (v : Nat) : Nat :=
  match id with
  | .channelEnable => v % 16
  | .rasterWidth => clampNat 640 arr.maxWidth v / 16 * 16
  | .rasterHeight => clampNat 480 arr.maxHeight v / 8 * 8
  | .framePeriodUs => clampNat arr.minPeriod 100000 v
  | .musterOffset => clampNat 16 (st.rasterHeight / 2) v
  | .ringLength => clampNat 2 8 v
  | .coherenceLimit => clampNat 1 255 v
  | .ringLossLimit => clampNat 1 255 v
  | .inputTimeout => clampNat 1 255 v
  | .damageLimit => clampNat 0 255 v
  | .settleMs => clampNat 0 10000 v
  | .relockMs => clampNat 0 10000 v
  | .lossConfirm => clampNat 1 120 v
  | .returnConfirm => clampNat 1 600 v
  | .inactivePolicy => min v 1
  | .dither => min v 1
  | .outputMode => min v 3
  | .flatLevel =>
    flatCode (v % 65536) + 65536 * flatCode (v / 65536 % 65536) + 4294967296 * flatCode (v / 4294967296 % 65536)
  | .noticeLink => min v 3
  | .noticeEnable => v % 2 ^ 45

/-- Codes of the inactive policies (R174). -/
def InactivePolicy.code : InactivePolicy → Nat
  | .hold => 0
  | .black => 1

/-- Codes of the output modes (R174). -/
def OutputMode.code : OutputMode → Nat
  | .video => 0
  | .black => 1
  | .flat => 2
  | .flatBlended => 3

/-- The output mode of a code; codes above 3 stand for FLAT_BLENDED (R160). -/
def outputModeOf : Nat → OutputMode
  | 0 => .video
  | 1 => .black
  | 2 => .flat
  | _ => .flatBlended

/-- The stored value of a setting as its unsigned value of 8 bytes (R160, R174). -/
def Settings.value (st : Settings) (id : SettingId) (k : Channel) : Nat :=
  match id with
  | .channelEnable => st.channelEnable.toNat
  | .rasterWidth => st.rasterWidth
  | .rasterHeight => st.rasterHeight
  | .framePeriodUs => st.framePeriodUs
  | .musterOffset => st.musterOffset
  | .ringLength => st.ringLength
  | .coherenceLimit => st.coherenceLimit
  | .ringLossLimit => st.ringLossLimit
  | .inputTimeout => st.inputTimeout
  | .damageLimit => st.damageLimit
  | .settleMs => st.settleMs
  | .relockMs => st.relockMs
  | .lossConfirm => st.lossConfirm
  | .returnConfirm => st.returnConfirm
  | .inactivePolicy => (st.inactivePolicy.get k).code
  | .dither => if st.dither.get k then 1 else 0
  | .outputMode => (st.outputMode.get k).code
  | .flatLevel =>
    let p := st.flatLevel.get k
    p.r.toNat + 65536 * p.g.toNat + 4294967296 * p.b.toNat
  | .noticeLink => st.noticeLink
  | .noticeEnable => st.noticeEnable.toNat

/-- The settings with the legal value `v` stored for `id` and, where the setting has one value per channel, for channel
`k` (R161). -/
def Settings.store (st : Settings) (id : SettingId) (k : Channel) (v : Nat) : Settings :=
  match id with
  | .channelEnable => { st with channelEnable := BitVec.ofNat 4 v }
  | .rasterWidth => { st with rasterWidth := v }
  | .rasterHeight => { st with rasterHeight := v }
  | .framePeriodUs => { st with framePeriodUs := v }
  | .musterOffset => { st with musterOffset := v }
  | .ringLength => { st with ringLength := v }
  | .coherenceLimit => { st with coherenceLimit := v }
  | .ringLossLimit => { st with ringLossLimit := v }
  | .inputTimeout => { st with inputTimeout := v }
  | .damageLimit => { st with damageLimit := v }
  | .settleMs => { st with settleMs := v }
  | .relockMs => { st with relockMs := v }
  | .lossConfirm => { st with lossConfirm := v }
  | .returnConfirm => { st with returnConfirm := v }
  | .inactivePolicy => { st with inactivePolicy := st.inactivePolicy.set k (if v = 0 then .hold else .black) }
  | .dither => { st with dither := st.dither.set k (v != 0) }
  | .outputMode => { st with outputMode := st.outputMode.set k (outputModeOf v) }
  | .flatLevel =>
    let p : Pixel := ⟨BitVec.ofNat 10 (v % 65536), BitVec.ofNat 10 (v / 65536 % 65536), BitVec.ofNat 10 (v / 4294967296 % 65536)⟩
    { st with flatLevel := st.flatLevel.set k p }
  | .noticeLink => { st with noticeLink := setChoice v }
  | .noticeEnable => { st with noticeEnable := BitVec.ofNat 45 v }

/-- The condition set in the six bytes from offset 0, bits above bit 44 ignored (R163, R173). -/
def conditionSet (b : Bytes) : BitVec 45 := BitVec.ofNat 45 (field b 0 6)

end Sys2Proof.Machine
end

