-- ==== Sys2Proof/Machine/Tables.lean ====
section
/-! DEFINITION. The table store: pages and first-fit allocation (R49, R50), the directory (R53), table entries with
their pool parity (R71), and the table changes of a frame start (R66 to R68). -/

namespace Sys2Proof.Machine

/-! ### The directory -/

/-- The bank of an instance (R53). -/
def TableRecord.bank (r : TableRecord) : Bank := if r.state = .live then .live else .staged

/-- The directory record of the key's instance in a bank, with its number. -/
def findTable (dir : Assoc TableRecord) (key : Key) (bank : Bank) : Option (Nat × TableRecord) :=
  dir.find? fun e => e.2.key == key && e.2.bank == bank

/-- The number of the key's LIVE record. -/
def liveRecord (dir : Assoc TableRecord) (key : Key) : Option Nat := (findTable dir key .live).map (·.1)

/-- Entries of an instance. -/
def TableRecord.entryCount (r : TableRecord) : Nat := r.key.entryCount r.dims

/-- The default entry at index `i` of an instance. -/
def TableRecord.default (r : TableRecord) (i : Nat) : Entry := r.key.defaultEntry r.dims i

/-- The entry at index `i` as it reads: the default of its kind where its parity fails (R61, R71). -/
def TableRecord.read (r : TableRecord) (i : Nat) : Entry :=
  if i ∈ r.bad then r.default i else (Assoc.find r.contents i).getD (r.default i)

/-- The instance with entry `e` stored at index `i`; `whole` says that every field of the entry was written, which
gives the entry good parity again (assumption log 5). -/
def TableRecord.write (r : TableRecord) (i : Nat) (e : Entry) (whole : Bool) : TableRecord :=
  { r with contents := if e = r.default i then Assoc.erase r.contents i else Assoc.insert r.contents i e,
           bad := if whole then r.bad.filter (· != i) else r.bad }

/-- The pool page that holds entry `i`. -/
def TableRecord.pageOf (r : TableRecord) (i : Nat) : Nat := r.firstPage + i * r.key.entryBytes / Config.pageBytes

/-- The POOL_PARITY records of the reads of the entries listed, in order (R71). -/
def TableRecord.parityFaults (r : TableRecord) (frame : Option FrameNo) (read : List Nat) : List FaultRecord :=
  (read.filter (· ∈ r.bad)).map fun i => ⟨.poolParity, r.key.channel, frame, .page (r.pageOf i)⟩

/-! ### Pages (R49, R50) -/

/-- Whether a page belongs to the page run of an instance. -/
def pageUsed (dir : Assoc TableRecord) (p : Nat) : Bool :=
  dir.any fun e => decide (e.2.firstPage ≤ p) && decide (p < e.2.firstPage + e.2.pageCount)

/-- Whether a page is a free table page of the arrangement. -/
def pageFree (arr : Arrangement) (dir : Assoc TableRecord) (p : Nat) : Bool :=
  decide (arr.linePages ≤ p) && decide (p < Config.poolPages) && !pageUsed dir p

/-- The first page of the run that first-fit gives `n` pages (R50), or none. -/
def firstFit (arr : Arrangement) (dir : Assoc TableRecord) (n : Nat) : Option Nat :=
  (List.range' arr.linePages arr.tablePages).find? fun p => (List.range' p n).all (pageFree arr dir)

/-- The count of free table pages (R70). -/
def freePages (arr : Arrangement) (dir : Assoc TableRecord) : Nat :=
  ((List.range' arr.linePages arr.tablePages).filter (pageFree arr dir)).length

/-- The free runs among the `n` pages from `p`, each with its first page and length. -/
def freeRuns (free : Nat → Bool) : Nat → Nat → List (Nat × Nat)
  | 0, _ => []
  | n + 1, p =>
    let rest := freeRuns free n (p + 1)
    if free p then
      match rest with
      | (q, l) :: more => if q = p + 1 then (p, l + 1) :: more else (p, 1) :: (q, l) :: more
      | [] => [(p, 1)]
    else rest

/-- The longest free run with its first page; where several are longest the free value names one (assumption log 3). -/
def largestRun (arr : Arrangement) (dir : Assoc TableRecord) (choice : Nat) : Option (Nat × Nat) :=
  let runs := freeRuns (pageFree arr dir) arr.tablePages arr.linePages
  let most := runs.foldl (fun m r => max m r.2) 0
  freePick choice (runs.filter fun r => r.2 == most)

/-- A new instance in the lowest-numbered free directory record and the first-fit run of its page count (R50, R53), or
none where either is wanting. -/
def createTable (arr : Arrangement) (dir : Assoc TableRecord) (key : Key) (dims : Option Dims) (st : TableState) :
    Option (Nat × Assoc TableRecord) :=
  match Assoc.lowestFree dir Config.directoryRecords, firstFit arr dir (key.pages dims) with
  | some n, some p =>
    some (n, Assoc.insert dir n
      { key := key, state := st, firstPage := p, pageCount := key.pages dims, dims := dims, locked := false,
        dropMark := false, contents := [], bad := [] })
  | _, _ => none

/-! ### The default fill (R57) -/

/-- The instance with the default entries written into page `p` of its run (R57): every entry whose bytes begin in that
page takes its default, with good parity. -/
def TableRecord.fillPage (r : TableRecord) (p : Nat) : TableRecord :=
  { r with contents := r.contents.filter fun e => r.pageOf e.1 != r.firstPage + p,
           bad := r.bad.filter fun i => r.pageOf i != r.firstPage + p }

/-! ### The table changes of a frame start (R66 to R68) -/

/-- Whether a STORE runs (R197). -/
def ImageLoader.storing (l : ImageLoader) : Bool :=
  match l.op with
  | some (.store ..) => true
  | _ => false

/-- Whether a LOAD runs (R200). -/
def ImageLoader.loading (l : ImageLoader) : Bool :=
  match l.op with
  | some (.load ..) => true
  | _ => false

/-- Whether the start-up load runs (R195). -/
def ImageLoader.starting (l : ImageLoader) : Bool :=
  match l.op with
  | some (.startup _) => true
  | _ => false

/-- Frame `a` is newer than frame `b`: (a − b) mod 65536 lies within 1..32767 (00_scope, R77). -/
def newer (x y : FrameNo) : Bool := decide (1 ≤ (x - y).toNat) && decide ((x - y).toNat ≤ 32767)

/-- Whether a swap is due by the test of R66, on the coherence mode and shown frame number after the decision; the
second value says that the LOOSE mode makes a targeted swap due, with SWAP_LATE. -/
def swapDue (coh : Coherence) (sw : PendingSwap) : Bool × Bool :=
  match sw.target with
  | none => (true, false)
  | some f =>
    if coh.mode = .loose then (true, true)
    else match coh.shown with
      | none => (false, false)
      | some g => (g == f || newer g f, false)

/-- The directory after a due swap: for each key named, the LIVE instance removed and the staged one LIVE without its
locked mark (R68). -/
def promote (dir : Assoc TableRecord) (keys : List Key) : Assoc TableRecord :=
  (dir.filter fun e => !(e.2.state == .live && keys.contains e.2.key)).map fun e =>
    if keys.contains e.2.key then (e.1, { e.2 with state := .live, locked := false }) else e

/-- The directory without the LIVE instances that carry the drop mark (R68). -/
def dropMarked (dir : Assoc TableRecord) : Assoc TableRecord := dir.filter fun e => !(e.2.state == .live && e.2.dropMark)

/-- The table changes of a frame start: none of the LIVE bank while a STORE runs, when a swap that would be due takes
its deferred mark (R67); otherwise the LIVE instances with a drop mark are removed and a swap that is deferred or due
takes effect with SWAP_DONE and, where required, SWAP_LATE (R66 to R68). -/
def State.tablesAtFrameStart (s : State) : State :=
  match s.loader.storing, s.tables.swap with
  | true, none => s
  | true, some sw => s.setTables { s.tables with swap := some { sw with deferred := sw.deferred || (swapDue s.coh sw).1 } }
  | false, none => s.setDirectory (dropMarked s.tables.directory)
  | false, some sw =>
    let (due, late) := if sw.deferred then (true, true) else swapDue s.coh sw
    if due then
      let s := s.setTables { s.tables with directory := promote (dropMarked s.tables.directory) sw.keys, swap := none }
      (if late then s.raise Cond.swapLate else s).raise Cond.swapDone
    else s.setDirectory (dropMarked s.tables.directory)

/-! ### The fit test (R1, R30, R72) -/

/-- Whether dimensions fit a raster of W × H: cols = ⌈W/S⌉ + 1 and rows = ⌈H/S⌉ + 1. -/
def Dims.fits (d : Dims) (w h : Nat) : Bool :=
  decide (d.cols = (w + d.spacing - 1) / d.spacing + 1) && decide (d.rows = (h + d.spacing - 1) / d.spacing + 1)

/-- Whether the instance of a record fits; false where it has no dimensions. -/
def TableRecord.fits (r : TableRecord) (w h : Nat) : Bool :=
  match r.dims with
  | some d => d.fits w h
  | none => false

/-- Whether a channel is unfit (R72, R196): no LIVE MESH or one that does not fit, or a BLEND in use that does not fit;
during the start-up load, always. False for a channel the arrangement lacks. -/
def State.channelUnfit (s : State) (k : Channel) : Bool :=
  s.hasChannel k &&
    (s.loader.starting
      || (match findTable s.tables.directory (.mesh k) .live with
          | none => true
          | some (_, m) => !m.fits s.timer.width s.timer.height)
      || (match findTable s.tables.directory (.blend k (s.loss.selected.get k)) .live with
          | none => false
          | some (_, b) => !b.fits s.timer.width s.timer.height))

/-- TABLES_UNFIT set from the fit test of every channel (R72). -/
def State.fitTest (s : State) : State := s.setTables { s.tables with unfit := Quad.of s.channelUnfit }

end Sys2Proof.Machine
end

