-- ==== Sys2Proof/Machine/Pixel.lean ====
section
/-! DEFINITION. The arithmetic of the stitching computation, stage by stage: mesh interpolation (R7, R8), source
position (R9, R10), decode and bilinear sampling (R11, R12), colour matrix (R36), blend and lift (R37 to R39), encode
and dither (R40, R41). -/

namespace Sys2Proof.Machine

/-! ### Grids (R7, R37) -/

/-- The place of an output pixel in a grid of spacing `S`: cell (i, j) and offsets (fu, fv) (R7). -/
structure GridCell where
  i : Nat
  j : Nat
  fu : Nat
  fv : Nat
deriving DecidableEq, Repr

/-- The cell that holds output pixel (u, v) (R7). -/
def gridCell (spacing u v : Nat) : GridCell := ⟨u / spacing, v / spacing, u % spacing, v % spacing⟩

/-- The entries of the cell's corners, in the order P(i, j), P(i+1, j), P(i, j+1), P(i+1, j+1) (R1, R8). -/
def GridCell.corners (g : GridCell) (cols : Nat) : List Nat :=
  [g.j * cols + g.i, g.j * cols + g.i + 1, (g.j + 1) * cols + g.i, (g.j + 1) * cols + g.i + 1]

/-- The weighted sum of four corner values, divided by S² and rounded half up, toward −∞ (R8). -/
def GridCell.interpolate (g : GridCell) (spacing : Nat) (p00 p10 p01 p11 : Int) : Int :=
  let s : Int := spacing
  let fu : Int := g.fu
  let fv : Int := g.fv
  ((s - fu) * (s - fv) * p00 + fu * (s - fv) * p10 + (s - fu) * fv * p01 + fu * fv * p11 + s * s / 2) / (s * s)

/-! ### Stage 1: the source position through the MESH -/

/-- The corner values of an entry of a MESH. -/
def Entry.pointX : Entry → Int
  | .point x _ _ => x
  | _ => 0

def Entry.pointY : Entry → Int
  | .point _ y _ => y
  | _ => 0

def Entry.pointValid : Entry → Bool
  | .point _ _ v => v
  | _ => false

/-- The four entries at the corners of the cell that holds (u, v). -/
def TableRecord.cornerReads (r : TableRecord) (u v : Nat) : List Nat :=
  match r.dims with
  | some d => (gridCell d.spacing u v).corners d.cols
  | none => []

/-- The interpolation of a value of the four corner entries. -/
def TableRecord.interpolate (r : TableRecord) (u v : Nat) (val : Entry → Int) : Int :=
  match r.dims, r.cornerReads u v with
  | some d, [c00, c10, c01, c11] =>
    (gridCell d.spacing u v).interpolate d.spacing (val (r.read c00)) (val (r.read c10)) (val (r.read c01)) (val (r.read c11))
  | _, _ => 0

/-- Whether the pixel is inside: its four corners are valid (R7). -/
def TableRecord.inside (r : TableRecord) (u v : Nat) : Bool := (r.cornerReads u v).all fun c => (r.read c).pointValid

/-! ### Stage 2: clamp and split (R9, R10) -/

/-- A source coordinate clamped to 0..64·(n − 1) (R9). -/
def clampSource (n : Nat) (x : Int) : Nat := (clampInt 0 (64 * ((n : Int) - 1)) x).toNat

/-- Whether the clamp changes the coordinate (R9). -/
def clampChanges (n : Nat) (x : Int) : Bool := (clampSource n x : Int) != x

/-- The first neighbour on an axis: ⌊X/64⌋ (R10). -/
def neighbour0 (x : Nat) : Nat := x / 64

/-- The second neighbour on an axis of `n` pixels, the last one repeated (R10). -/
def neighbour1 (n x : Nat) : Nat := if x / 64 = n - 1 then n - 1 else x / 64 + 1

/-- The source pixels sampled, in the order L00, L10, L01, L11 (R10, R12). -/
def neighbours (ws hs x y : Nat) : List (Nat × Nat) :=
  [(neighbour0 x, neighbour0 y), (neighbour1 ws x, neighbour0 y), (neighbour0 x, neighbour1 hs y),
   (neighbour1 ws x, neighbour1 hs y)]

/-- The tag of the tile of source pixel (a, b) (R13). -/
def tagOf (slot : SlotNo) (ab : Nat × Nat) : Tag := ⟨slot, ab.1 / 16, ab.2 / 8⟩

/-- The list without the later copies of a member. -/
def distinct : List Tag → List Tag
  | [] => []
  | t :: rest => t :: (distinct rest).filter (· != t)

/-! ### Stage 3: decode and bilinear sampling (R11, R12) -/

/-- A TONE entry's value. -/
def Entry.toneValue : Entry → Int
  | .value v => v
  | _ => 0

/-- The TONE entry that a code decodes through (R27). -/
def decodeEntry (c : Code) : Nat := c.toNat

/-- The TONE entry that holds E[k] (R27). -/
def encodeEntry (k : Nat) : Nat := 1024 + k

/-- The TONE entry that holds M(m, n) (R27). -/
def matrixEntry (m n : Nat) : Nat := 5120 + 3 * m + n

/-- Entry `i` of the TONE in use, or its default where there is none (R11, R29). -/
def toneRead (tone : Option TableRecord) (i : Nat) : Int :=
  match tone with
  | some r => (r.read i).toneValue
  | none => ((Key.tone 0).defaultEntry none i).toneValue

/-- decode[c] through the TONE in use (R11). -/
def decode (tone : Option TableRecord) (c : Code) : Nat := (toneRead tone (decodeEntry c)).toNat

/-- The sample from four decoded neighbours (R12). -/
def bilinear (x y l00 l10 l01 l11 : Nat) : Nat :=
  ((64 - x % 64) * (64 - y % 64) * l00 + x % 64 * (64 - y % 64) * l10 + (64 - x % 64) * (y % 64) * l01
    + x % 64 * (y % 64) * l11 + 2048) / 4096

/-- The three samples from the codes of the four neighbours (R12). -/
def samplePixel (tone : Option TableRecord) (x y : Nat) (p00 p10 p01 p11 : Pixel) : Rgb Nat :=
  let f (c : Pixel → Code) : Nat :=
    bilinear x y (decode tone (c p00)) (decode tone (c p10)) (decode tone (c p01)) (decode tone (c p11))
  ⟨f (·.r), f (·.g), f (·.b)⟩

/-- The decode entries that the sampling of four neighbours reads: one for each neighbour and component (R11). -/
def decodeReads (ps : List Pixel) : List Nat := ps.flatMap fun p => [decodeEntry p.r, decodeEntry p.g, decodeEntry p.b]

/-! ### Stage 4: the colour matrix (R36) -/

/-- One output component of the matrix: the exact sum divided by 8192 and rounded half up, clamped to 0..65535. -/
def matrixRow (m : Rgb Int) (l : Rgb Nat) : Nat := (clampInt 0 65535 ((m.r * l.r + m.g * l.g + m.b * l.b + 4096) / 8192)).toNat

/-- The matrix applied to a sample. -/
def matrixApply (m : Matrix) (l : Rgb Nat) : Rgb Nat := ⟨matrixRow m.r l, matrixRow m.g l, matrixRow m.b l⟩

/-- The nine coefficients of the TONE in use (R33); the default matrix where there is none. -/
def matrixOf (tone : Option TableRecord) : Matrix :=
  let c (m n : Nat) : Int := toneRead tone (matrixEntry m n)
  ⟨⟨c 0 0, c 0 1, c 0 2⟩, ⟨c 1 0, c 1 1, c 1 2⟩, ⟨c 2 0, c 2 1, c 2 2⟩⟩

/-- The entries read for the matrix (R33). -/
def matrixReads : List Nat := (List.range 9).map fun i => 5120 + i

/-! ### Stage 5: blend and lift (R37 to R39) -/

def Entry.nodeWeight : Entry → Int
  | .node w _ => w
  | _ => 32768

def Entry.nodeLift : Entry → Int
  | .node _ l => l
  | _ => 0

/-- The weight at an output pixel; 32768 where there is no BLEND in use (R32, R37). -/
def blendWeight (blend : Option TableRecord) (u v : Nat) : Nat :=
  match blend with
  | some r => (r.interpolate u v Entry.nodeWeight).toNat
  | none => 32768

/-- The lift at an output pixel; 0 where there is no BLEND in use (R32, R37). -/
def blendLift (blend : Option TableRecord) (u v : Nat) : Nat :=
  match blend with
  | some r => (r.interpolate u v Entry.nodeLift).toNat
  | none => 0

/-- A component weighted by the blend (R38). -/
def weighted (c w : Nat) : Nat := (c * w + 16384) / 32768

/-- A weighted component compressed and lifted (R39). -/
def lifted (a lift : Nat) : Nat := (a * (65535 - lift) + 32767) / 65535 + lift

/-! ### Stage 6: encode and dither (R40, R41) -/

/-- E′: the encode curve of the TONE in use interpolated at the linear value O (R40). -/
def encode (tone : Option TableRecord) (o : Nat) : Int :=
  let k := o / 16
  let e (i : Nat) : Int := toneRead tone (encodeEntry i)
  if k < 4095 then e k + ((e (k + 1) - e k) * (o % 16 : Nat) + 8) / 16 else e 4095

/-- The encode entries read for a linear value (R40). -/
def encodeReads (o : Nat) : List Nat :=
  if o / 16 < 4095 then [encodeEntry (o / 16), encodeEntry (o / 16 + 1)] else [encodeEntry 4095]

/-- The dither pattern D[v mod 4][u mod 4] (R41). -/
def ditherPattern (u v : Nat) : Nat :=
  ([[0, 32, 8, 40], [48, 16, 56, 24], [12, 44, 4, 36], [60, 28, 52, 20]].getD (v % 4) []).getD (u % 4) 0

/-- The dither value of a pixel: the pattern's where the frame's dither is on, else 32 (R41). -/
def ditherValue (on : Bool) (u v : Nat) : Nat := if on then ditherPattern u v else 32

/-- The output code from E′ and the dither value (R41). -/
def outputCode (e : Int) (d : Nat) : Code := BitVec.ofNat 10 (clampInt 0 1023 ((e + d) / 64)).toNat

/-- The linear value leaving stage 5 of a component that left stage 4 (R38, R39). -/
def stage5 (blend : Option TableRecord) (u v c : Nat) : Nat := lifted (weighted c (blendWeight blend u v)) (blendLift blend u v)

/-- The linear values leaving stage 5 of a sample. -/
def stage5Pixel (matrix : Matrix) (blend : Option TableRecord) (u v : Nat) (l : Rgb Nat) : Rgb Nat :=
  (matrixApply matrix l).map (stage5 blend u v)

/-- The codes of a sample after stages 4 to 6. -/
def lightPixel (matrix : Matrix) (blend tone : Option TableRecord) (dither : Bool) (u v : Nat) (l : Rgb Nat) : Pixel :=
  (stage5Pixel matrix blend u v l).map fun o => outputCode (encode tone o) (ditherValue dither u v)

end Sys2Proof.Machine
end

