-- ==== Sys2Proof/Machine/Slots.lean ====
section
/-! DEFINITION. The frame store controller: what records do to the slots of a channel (R78 to R84), reservation (R87)
and the frame-start decision with its tidying (R86, R88 to R91). -/

namespace Sys2Proof.Machine

/-! ### Slots -/

/-- The slot EMPTY, its line map cleared, its damaged count 0 and no reserved mark. DESIGN CHOICE: the frame number and size,
which R77 calls meaningless in EMPTY, stay as the slot last held them, and STATUS (R179) reports that number (assumption
log 2). -/
def Slot.emptied (x : Slot) : Slot := { x with state := .empty, lines := [], damaged := 0, reserved := false }

/-- The slots that meet a test, lowest number first. -/
def slotsWhere (t : Trio Slot) (p : Slot → Bool) : List SlotNo := slotNos.filter fun i => p (t.get i)

/-- The SHOWN slot. -/
def shownSlot (t : Trio Slot) : Option SlotNo := (slotsWhere t fun x => x.state == .shown).head?

/-- The READY slot that holds a frame. -/
def readyHolding (t : Trio Slot) (f : FrameNo) : Option SlotNo :=
  (slotsWhere t fun x => x.state == .ready && x.frame == f).head?

/-- Whether slot `i` is taken as holding an older frame than slot `j`: two frames neither older nor newer than each
other are ordered by slot number (R77). -/
def olderSlot (t : Trio Slot) (i j : SlotNo) : Bool :=
  let a := (t.get i).frame
  let b := (t.get j).frame
  newer b a || (!newer a b && decide (i < j))

/-- The slot among `xs` that holds the oldest frame; where the wrapping order makes none of them the oldest, the free
value names one (assumption log 3). -/
def oldestOf (t : Trio Slot) (xs : List SlotNo) (choice : Nat) : Option SlotNo :=
  match xs.find? fun i => xs.all fun j => i == j || olderSlot t i j with
  | some i => some i
  | none => freePick choice xs

/-- The slot among `xs` that holds the newest frame (R89), by the same rule. -/
def newestOf (t : Trio Slot) (xs : List SlotNo) (choice : Nat) : Option SlotNo :=
  match xs.find? fun i => xs.all fun j => i == j || olderSlot t j i with
  | some i => some i
  | none => freePick choice xs

/-- The frame number of the SHOWN slot, or none (R90). -/
def SlotRing.shownFrame (r : SlotRing) : Option FrameNo := (shownSlot r.slots).map fun i => (r.slots.get i).frame

/-- The ring with slot `i` replaced. -/
def SlotRing.setSlot (r : SlotRing) (i : SlotNo) (x : Slot) : SlotRing := { r with slots := r.slots.set i x }

/-- The ring with slot `i` EMPTY. -/
def SlotRing.empty (r : SlotRing) (i : SlotNo) : SlotRing := r.setSlot i (r.slots.get i).emptied

/-! ### Receiving a frame (R78 to R84)

Each rule answers the port and the ring after it, and the channel's conditions raised, by their index (R180). -/

/-- What a record leaves: the port, the slot ring, and the event conditions raised by index. -/
structure Received where
  port : InputPort
  ring : SlotRing
  raised : List (Fin 9)
deriving DecidableEq, Repr

/-- The index of FRAME_REJECT (R180). -/
def rejectIndex : Fin 9 := 2
/-- The index of FRAME_DROP (R180). -/
def dropIndex : Fin 9 := 3

/-- A frame in progress abandoned with FRAME_REJECT for a reason (R78, R82, R84); nothing where none is in progress.
The port's record becomes NONE. -/
def abandonFrame (p : InputPort) (r : SlotRing) (why : RejectReason) : Received :=
  match p.progress with
  | .receiving i _ => ⟨{ p with progress := .none }, { r.empty i with reject := why }, [rejectIndex]⟩
  | _ => ⟨{ p with progress := .none }, r, []⟩

/-- The slot a FRAME-OPEN of legal size takes (R79): the one it has just abandoned, else the lowest-numbered EMPTY
one, else the unreserved READY one that holds the oldest frame. -/
def slotForFrame (p : InputPort) (r : SlotRing) (choice : Nat) : Option SlotNo :=
  match p.progress with
  | .receiving i _ => some i
  | _ =>
    match slotsWhere r.slots fun x => x.state == .empty with
    | i :: _ => some i
    | [] => oldestOf r.slots (slotsWhere r.slots fun x => x.state == .ready && !x.reserved) choice

/-- Whether the arrangement accepts a source frame of this size (R78). -/
def sourceSizeLegal (arr : Arrangement) (w h : Nat) : Bool :=
  decide (16 ≤ w) && decide (w ≤ arr.maxSourceWidth) && decide (8 ≤ h) && decide (h ≤ arr.maxSourceHeight)

/-- A FRAME-OPEN taken by a port (R78, R79). -/
def receiveOpen (arr : Arrangement) (p : InputPort) (r : SlotRing) (rec : FrameOpenRecord) (choice : Nat) : Received :=
  let cut := abandonFrame p r .truncated
  if sourceSizeLegal arr rec.width rec.height then
    match slotForFrame p r choice with
    | none => cut
    | some i =>
      let dropped := if (cut.ring.slots.get i).state = .ready then [dropIndex] else []
      ⟨{ p with progress := .receiving i rec.frame },
       cut.ring.setSlot i ⟨.filling, rec.frame, rec.width, rec.height, [], 0, false⟩, cut.raised ++ dropped⟩
  else ⟨{ p with progress := .ignoring }, { cut.ring with reject := .size }, cut.raised ++ [rejectIndex]⟩

/-- One more damaged line; the count stops at 65535 (R80). -/
def Slot.damage (x : Slot) : Slot := { x with damaged := min (x.damaged + 1) 65535 }

/-- A LINE record taken into the FILLING slot (R80). -/
def Slot.takeLine (x : Slot) (rec : LineRecord) : Slot :=
  if rec.payload.length ≠ 4 * x.width then x.damage
  else if x.height ≤ rec.index then x.damage
  else
    let y := { x with lines := Assoc.insert x.lines rec.index (pixelsOf x.width rec.payload) }
    if (Assoc.find x.lines rec.index).isSome then y
    else if rec.check = (crc16 rec.payload).toNat then y
    else y.damage

/-- A LINE taken by a port: discarded unless a frame is being received (R80). -/
def receiveLine (p : InputPort) (r : SlotRing) (rec : LineRecord) : SlotRing :=
  match p.progress with
  | .receiving i _ => r.setSlot i ((r.slots.get i).takeLine rec)
  | _ => r

/-- The fault total of a frame: its damaged count and its missing lines (R81). -/
def Slot.faultTotal (x : Slot) : Nat := x.damaged + (x.height - x.lines.length)

/-- A frame closed READY in slot `i`: an earlier READY copy of the same frame is discarded, and its reserved mark
passes to the new one (R81, R83). -/
def closeReady (p : InputPort) (r : SlotRing) (i : SlotNo) : Received :=
  let x := r.slots.get i
  let p := { p with progress := .none }
  match readyHolding r.slots x.frame with
  | none => ⟨p, { r.setSlot i { x with state := .ready } with quiet := 0 }, []⟩
  | some j =>
    let r' := (r.empty j).setSlot i { x with state := .ready, reserved := (r.slots.get j).reserved }
    ⟨p, { r' with quiet := 0 }, [dropIndex]⟩

/-- A FRAME-CLOSE taken by a port (R81, R82). -/
def receiveClose (damageLimit : Nat) (p : InputPort) (r : SlotRing) (f : FrameNo) : Received :=
  match p.progress with
  | .receiving i g =>
    if f ≠ g then abandonFrame p r .truncated
    else if (r.slots.get i).faultTotal ≤ damageLimit then closeReady p r i
    else abandonFrame p r .damaged
  | _ => ⟨p, r, []⟩

/-! ### Activity and reservation (R86, R87) -/

/-- Whether a channel is active (R86). -/
def State.active (s : State) (k : Channel) : Bool :=
  s.settings.channelEnable.getLsbD k && s.hasChannel k && (s.inputs.get k).link == .locked
    && decide ((s.rings.get k).quiet < s.settings.inputTimeout)

/-- The ring with every reserved mark clear. -/
def SlotRing.clearMarks (r : SlotRing) : SlotRing := { r with slots := Trio.of fun i => { r.slots.get i with reserved := false } }

/-- A reservation request on one channel (R87): every mark cleared, then the READY slot that holds the frame marked. -/
def SlotRing.reserve (r : SlotRing) (f : Option FrameNo) : SlotRing :=
  let c := r.clearMarks
  match f.bind (readyHolding r.slots) with
  | some i => c.setSlot i { c.slots.get i with reserved := true }
  | none => c

/-- A reservation request (R87): on every channel of the arrangement. -/
def State.reserve (s : State) (f : Option FrameNo) : State :=
  { s with rings := Quad.of fun k => if s.hasChannel k then (s.rings.get k).reserve f else s.rings.get k }

/-! ### The frame-start decision (R88 to R91) -/

/-- Slot `i` made SHOWN; the previous SHOWN slot becomes EMPTY (R88). -/
def SlotRing.showSlot (r : SlotRing) (i : SlotNo) : SlotRing :=
  let r' := match shownSlot r.slots with
    | some j => if j = i then r else r.empty j
    | none => r
  r'.setSlot i { r'.slots.get i with state := .shown }

/-- The decision on an active channel (R88, R89), and whether FRAME_HELD is raised. -/
def SlotRing.decideActive (r : SlotRing) (o : RoundOutcome) (choice : Nat) : SlotRing × Bool :=
  match o with
  | .show f =>
    match readyHolding r.slots f with
    | some i => (r.showSlot i, false)
    | none => (r, r.shownFrame != some f)
  | .repeat => (r, false)
  | .loose =>
    match newestOf r.slots (slotsWhere r.slots fun x => x.state == .ready) choice with
    | some i => (r.showSlot i, false)
    | none => (r, false)

/-- The policy of an inactive channel (R91). -/
def SlotRing.decideInactive (r : SlotRing) (p : InactivePolicy) : SlotRing :=
  match p, shownSlot r.slots with
  | .black, some i => r.empty i
  | _, _ => r

/-- Whether the tidying empties a slot: READY and older than the frame SHOWN (R90). -/
def tidies (f : FrameNo) (x : Slot) : Bool := x.state == .ready && newer f x.frame

/-- The tidying of one channel (R90), and whether FRAME_DROP is raised. -/
def SlotRing.tidy (r : SlotRing) : SlotRing × Bool :=
  match r.shownFrame with
  | none => (r, false)
  | some f =>
    ({ r with slots := Trio.of fun i => if tidies f (r.slots.get i) then (r.slots.get i).emptied else r.slots.get i },
     slotNos.any fun i => tidies f (r.slots.get i))

/-- The end of a channel's decision: reserved marks cleared and the quiet count advanced, held at 255 (R86, R90). -/
def SlotRing.endDecision (r : SlotRing) : SlotRing := { r.clearMarks with quiet := min (r.quiet + 1) 255 }

/-- The frame-start decision of one channel, and the conditions it raises. `choice` is the free value. -/
def State.decideChannel (s : State) (o : RoundOutcome) (k : Channel) : SlotRing × List Cond :=
  let r := s.rings.get k
  if s.hasChannel k then
    let (r, held) :=
      if s.active k then r.decideActive o (Config.freeChoice (s.free + k)) else (r.decideInactive (s.settings.inactivePolicy.get k), false)
    let (r, dropped) := r.tidy
    (r.endDecision, (if held then [Cond.frameHeld k] else []) ++ (if dropped then [Cond.frameDrop k] else []))
  else (r.endDecision, [])

/-- The frame-start decision of every channel (R88 to R91). -/
def State.decideSlots (s : State) (o : RoundOutcome) : State :=
  { s with rings := Quad.of fun k => (s.decideChannel o k).1, free := s.free + 4 }

/-- The conditions that the decision raises, in channel order. -/
def State.decisionRaises (s : State) (o : RoundOutcome) : List Cond := channels.flatMap fun k => (s.decideChannel o k).2

/-- Every slot EMPTY, every frame in progress ended without a reject and every quiet count 255 (R93). -/
def State.clearSlots (s : State) : State :=
  { s with
    rings := Quad.of fun k =>
      let r := s.rings.get k
      { r with slots := Trio.of fun i => (r.slots.get i).emptied, quiet := 255 }
    inputs := Quad.of fun k => { s.inputs.get k with progress := .none } }

end Sys2Proof.Machine
end

