-- ==== Sys2Proof/Machine/Coherence.lean ====
section
/-! DEFINITION. The coherence unit: newest common and readiness (R99, R100), the rounds of a master, a follower and a
solo part (R101 to R110), and the outcome applied at a frame start (R111, R112). -/

namespace Sys2Proof.Machine

/-! ### Newest common and readiness -/

/-- The active channels, lowest first. -/
def State.activeChannels (s : State) : List Channel := channels.filter s.active

/-- Whether every active channel holds a READY slot with the frame. -/
def State.heldByAll (s : State) (f : FrameNo) : Bool :=
  s.activeChannels.all fun k => (readyHolding (s.rings.get k).slots f).isSome

/-- The newest common frame (R99), read from the slots of the lowest-numbered active channel that hold common frames. -/
def State.newestCommon (s : State) : Option FrameNo :=
  match s.activeChannels with
  | [] => none
  | k :: _ =>
    let t := (s.rings.get k).slots
    let common := slotsWhere t fun x => x.state == .ready && s.heldByAll x.frame
    (newestOf t common s.freeValue).map fun i => (t.get i).frame

/-- Whether the part is ready for a proposal (R100). -/
def State.readyFor (s : State) (proposal : Option FrameNo) : Bool :=
  match proposal with
  | none => false
  | some f => s.heldByAll f

/-! ### Presence bits (R142) -/

/-- The number of the part's first presence bit: a solo part owns bits 0 to 3, any other 4·POS to 4·POS+3. -/
def StrapRecord.firstBit (r : StrapRecord) : Nat := if r.role = .solo then 0 else 4 * r.position.toNat

/-- The four confirmed presence bits as a number, bit k for output k. -/
def confirmedNibble (c : Quad Bool) : Nat :=
  (if c.c0 then 1 else 0) + (if c.c1 then 2 else 0) + (if c.c2 then 4 else 0) + (if c.c3 then 8 else 0)

/-- A vector with the part's own four bits written from its confirmed presence bits (R101, R106, R142). -/
def State.writeOwnBits (s : State) (v : Vec32) : Vec32 :=
  (v &&& ~~~(15#32 <<< s.straps.firstBit)) ||| (BitVec.ofNat 32 (confirmedNibble s.loss.confirmed) <<< s.straps.firstBit)

/-! ### Closing a round (R103, R105) -/

/-- The outcome of a round and the repeat count after it (R103). -/
def closeOutcome (limit : Nat) (count : Nat) (proposal : Option FrameNo) (ready : Bool) : RoundOutcome × Nat :=
  match ready, proposal with
  | true, some f => (.show f, 0)
  | _, _ =>
    let c := min (count + 1) 255
    (if limit ≤ c then .loose else .repeat, c)

/-- The outcome code of a SHOW (R169). -/
def RoundOutcome.code : RoundOutcome → Byte
  | .show _ => 0
  | .repeat => 1
  | .loose => 2

/-- The word in a token for a frame number that may be absent: where it is, the manual gives the bytes no meaning and
the free value `alt` stands there (assumption log 3). -/
def frameWord (f : Option FrameNo) (alt : Nat) : FrameNo := f.getD (BitVec.ofNat 16 alt)

/-- The frame number of an outcome SHOW F. -/
def RoundOutcome.frame : RoundOutcome → Option FrameNo
  | .show f => some f
  | _ => none

/-- The flag bit of a value that is present. -/
def presentBit {α : Type} (x : Option α) (bit : Byte) : Byte := if x.isSome then bit else 0

/-- A master's round closed (R103, R105): the outcome decided, the SHOW sent and recorded, and both pending. DESIGN CHOICE: the
flag bits 1 to 7, which R169 leaves unassigned, are sent as 0 (assumption log 35). -/
def State.closeMasterRound (s : State) (r : Round) (ready : Bool) (vector : Vec32) : State :=
  let (o, count) := closeOutcome s.settings.coherenceLimit s.coh.repeatCount r.proposal ready
  let token : ShowToken :=
    { seq := r.seq, outcomeCode := o.code, flags := presentBit r.proposal 1, frameWord := frameWord o.frame s.freeValue,
      echoWord := frameWord r.proposal (s.useFree 1).freeValue, vector := vector }
  { s with
    coh := { s.coh with repeatCount := count, round := none, pending := some ⟨o, some vector⟩,
                        showSent := some ⟨r.seq, vector, false⟩ }
    ringOut := s.ringOut ++ [showBytes token]
    free := s.free + 2 }

/-! ### The muster point (R101, R107, R109, R110) -/

/-- A master opens a round (R101): the proposal is its newest common frame, or the returned floor, or NONE. DESIGN CHOICE: the
flag bits 3 to 7, which R169 leaves unassigned, are sent as 0 (assumption log 35). -/
def State.openRound (s : State) : State :=
  let common := s.newestCommon
  let proposal := match common with
    | some f => some f
    | none => s.coh.floor
  let seq := s.coh.seq + 1
  let token : MusterToken :=
    { seq := seq,
      flags := presentBit proposal 1 ||| presentBit common 2 ||| (if s.readyFor proposal then 4 else 0),
      proposalWord := frameWord proposal (s.useFree 1).freeValue, floorWord := frameWord common (s.useFree 2).freeValue,
      hop := 0, vector := s.writeOwnBits (BitVec.allOnes 32) }
  let s := s.reserve proposal
  { s with
    coh := { s.coh with seq := seq, round := some ⟨seq, proposal⟩, floor := none }
    ringOut := s.ringOut ++ [musterBytes token]
    free := s.free + 3 }

/-- A solo part evaluates and closes its round at once (R110). -/
def State.soloRound (s : State) : State :=
  let proposal := s.newestCommon
  let (o, count) := closeOutcome s.settings.coherenceLimit s.coh.repeatCount proposal (s.readyFor proposal)
  let s := s.reserve proposal
  { s with coh := { s.coh with repeatCount := count, pending := some ⟨o, none⟩ }, free := s.free + 1 }

/-- A follower's own muster point: its muster mark set, and a local LOOSE where RING_LOST is true (R107, R109). -/
def State.followerMuster (s : State) : State :=
  let s := s.setCoh { s.coh with musterMark := true }
  if s.coh.ringLost then s.setCoh { s.coh with pending := some ⟨.loose, none⟩ } else s

/-- The muster point reaches the coherence unit (R122); the muster mark is set on every role (R96). -/
def State.musterPoint (s : State) : State :=
  match s.straps.role with
  | .master => (s.setCoh { s.coh with musterMark := true }).openRound
  | .solo => (s.setCoh { s.coh with musterMark := true }).soloRound
  | .follower => s.followerMuster

/-- The frame end at the coherence unit: a master whose round is open closes it as not ready (R104). -/
def State.frameEndRound (s : State) : State :=
  match s.straps.role, s.coh.round with
  | .master, some r =>
    let base := match s.coh.showApplied with
      | some rec => rec.vector
      | none => BitVec.allOnes 32
    s.closeMasterRound r false (s.writeOwnBits base)
  | _, _ => s

/-! ### Tokens received (R102, R105 to R107) -/

/-- A MUSTER at the master's RING_IN (R102): stale, or it closes the open round after the hop test. -/
def State.musterReturned (s : State) (t : MusterToken) : State :=
  match s.coh.round with
  | none => s
  | some r =>
    if t.seq ≠ r.seq then s
    else if t.hop.toNat = s.settings.ringLength - 1 then
      (s.setCoh { s.coh with floor := t.floor }).closeMasterRound r t.allReady t.vector
    else
      (s.recordFault ⟨.ringFormat, none, s.coh.shown, .seq t.seq⟩).closeMasterRound r false t.vector

/-- A SHOW at the master's RING_IN (R105): the returned mark of a matching record is set and RING_LOST cleared. -/
def State.showReturned (s : State) (t : ShowToken) : State :=
  let sent := s.coh.showSent.map fun r => if r.seq = t.seq then { r with returned := true } else r
  let applied := s.coh.showApplied.map fun r => if r.seq = t.seq then { r with returned := true } else r
  let hit (r : Option ShowRecord) : Bool := match r with
    | some r => r.seq == t.seq
    | none => false
  if hit s.coh.showSent || hit s.coh.showApplied then
    s.setCoh { s.coh with showSent := sent, showApplied := applied, ringLost := false }
  else s

/-- Whether a floor gives way to the newest common frame: it is NONE or newer than that frame (R106). -/
def floorYields (floor : Option FrameNo) (f : FrameNo) : Bool :=
  match floor with
  | none => true
  | some g => newer g f

/-- The MUSTER as a follower forwards it (R106, steps 3 to 6). DESIGN CHOICE: its unassigned flag bits go on as they were
received (assumption log 35). -/
def State.musterForwarded (s : State) (t : MusterToken) : MusterToken :=
  let t := if s.readyFor t.proposal then t else { t with flags := t.flags &&& ~~~4#8 }
  let t := match s.newestCommon with
    | some f => if floorYields t.floor f then { t with flags := t.flags ||| 2, floorWord := f } else t
    | none => t
  { t with vector := s.writeOwnBits t.vector, hop := BitVec.ofNat 8 (min (t.hop.toNat + 1) 255) }

/-- A follower handles a MUSTER (R106). -/
def State.musterHandled (s : State) (t : MusterToken) : State :=
  let out := s.musterForwarded t
  let s := s.reserve t.proposal
  { s with coh := { s.coh with round := some ⟨t.seq, t.proposal⟩ }, ringOut := s.ringOut ++ [musterBytes out], free := s.free + 1 }

/-- Whether a follower takes a SHOW (R107). -/
def State.takesShow (s : State) (t : ShowToken) : Bool :=
  s.coh.musterMark &&
    match s.coh.round with
    | none => false
    | some r => r.seq == t.seq && r.proposal == t.echo

/-- A follower handles a SHOW: taken or discarded, it is forwarded as it came (R107). -/
def State.showHandled (s : State) (t : ShowToken) (bytes : Bytes) : State :=
  let s := match s.takesShow t, t.outcome with
    | true, some o =>
      s.setCoh { s.coh with pending := some ⟨o, some t.vector⟩, ringLost := false,
                            missCount := if s.coh.ringLost then 0 else s.coh.missCount }
    | _, _ => s
  { s with ringOut := s.ringOut ++ [bytes] }

/-! ### The frame start (R105, R108, R111, R112) -/

/-- The outcome that a frame start applies: the pending one, or REPEAT (R111). -/
def Coherence.outcome (c : Coherence) : RoundOutcome :=
  match c.pending with
  | some p => p.outcome
  | none => .repeat

/-- The presence vector handed to the loss selector (R112). -/
def Coherence.handedVector (c : Coherence) : Option Vec32 := c.pending.bind (·.vector)

/-- Whether a follower has taken a SHOW for this frame start (R108). -/
def Coherence.tookShow (c : Coherence) : Bool := c.handedVector.isSome

/-- The mode after an outcome applied from a round or a SHOW taken (R112). -/
def RoundOutcome.mode : RoundOutcome → CoherenceMode
  | .loose => .loose
  | _ => .coherent

/-- Whether the master's SHOW applied at the previous frame start has not come round (R105). -/
def Coherence.showMissing (c : Coherence) : Option ShowRecord :=
  match c.showApplied with
  | some r => if r.returned then none else some r
  | none => none

/-- The shown frame number after an outcome (R112). -/
def Coherence.shownAfter (c : Coherence) : Option FrameNo :=
  match c.outcome with
  | .show f => some f
  | _ => c.shown

/-- The unit after a frame start on a master: the previous SHOW examined, the outcome applied (R105, R111, R112). -/
def Coherence.masterStart (c : Coherence) : Coherence :=
  { c with
    mode := if c.pending.isSome then c.outcome.mode else c.mode
    shown := c.shownAfter
    pending := none
    musterMark := false
    ringLost := c.ringLost || c.showMissing.isSome
    showApplied := c.showSent
    showSent := none }

/-- The unit after a frame start on a solo part (R110, R112). -/
def Coherence.soloStart (c : Coherence) : Coherence :=
  { c with
    mode := if c.pending.isSome then c.outcome.mode else c.mode
    shown := c.shownAfter
    pending := none
    musterMark := false }

/-- The unit after a frame start on a follower: a SHOW taken is applied and ends the misses; otherwise the frame start
is a miss where the muster mark is set, and the `limit`-th miss sets RING_LOST and LOOSE (R108, R109, R112). -/
def Coherence.followerStart (c : Coherence) (limit : Nat) : Coherence :=
  let miss := !c.tookShow && c.musterMark
  let count := if c.tookShow then 0 else if miss then min (c.missCount + 1) 255 else c.missCount
  let lost := miss && !c.ringLost && decide (limit ≤ count)
  { c with
    mode := if c.tookShow then c.outcome.mode else if c.pending.isSome || lost then .loose else c.mode
    shown := c.shownAfter
    pending := none
    musterMark := false
    round := none
    missCount := count
    ringLost := c.ringLost || lost }

/-- The unit after a frame start, by role. -/
def State.cohAtFrameStart (s : State) : Coherence :=
  match s.straps.role with
  | .master => s.coh.masterStart
  | .solo => s.coh.soloStart
  | .follower => s.coh.followerStart s.settings.ringLossLimit

/-- The RING_FORMAT record of a master's examination, made when RING_LOST becomes true (R105). -/
def State.ringLostFault (s : State) : List FaultRecord :=
  match s.straps.role, s.coh.showMissing with
  | .master, some r => if s.coh.ringLost then [] else [⟨.ringFormat, none, s.coh.shown, .seq r.seq⟩]
  | _, _ => []

/-- The channel shown numbers recorded after the decision (R90, R111). -/
def State.recordShown (s : State) : State :=
  s.setCoh { s.coh with channelShown := Quad.of fun k => (s.rings.get k).shownFrame }

end Sys2Proof.Machine
end

