-- ==== Sys2Proof/Machine/Ports.lean ====
section
/-! DEFINITION. The output ports (R127 to R133), the stop of a channel whose port leaves ACTIVE (R25, R47), and the
raster timer's arithmetic (R121, R122) with the raster change (R126). -/

namespace Sys2Proof.Machine

/-! ### Port transitions (R129 to R132)

Each answers the port after the event and whether OUTPUT_CHANGE is raised. -/

/-- Whether the forward lane is driven (R127). -/
def PortState.drives : PortState → Bool
  | .settling => true
  | .active => true
  | .retrain => true
  | _ => false

/-- Whether the port is up for the loss selector (R138). -/
def PortState.up : PortState → Bool
  | .settling => true
  | .active => true
  | .retrain => true
  | _ => false

/-- The relock countdown expires in RETRAIN: FAILED with OUTPUT_CHANGE (R131). -/
def OutputPort.relockExpired (p : OutputPort) : OutputPort × Bool := ({ p with state := .failed, expires := none }, true)

/-- The port enters RETRAIN and loads relock_ms, which with 0 expires as it is loaded (R131). -/
def OutputPort.enterRetrain (p : OutputPort) (st : Settings) (now : Nat) : OutputPort × Bool :=
  let q := { p with state := .retrain, expires := some (now + st.relockMs * Config.ticksPerMs) }
  if st.relockMs = 0 then q.relockExpired else (q, false)

/-- The settle countdown expires: ACTIVE with OUTPUT_CHANGE, and on to RETRAIN where the lock record says not locked
(R130). -/
def OutputPort.settleExpired (p : OutputPort) (st : Settings) (now : Nat) : OutputPort × Bool :=
  let q := { p with state := .active, expires := none }
  if p.lock = .notLocked then ((q.enterRetrain st now).1, true) else (q, true)

/-- The port enters SETTLING and loads settle_ms, which with 0 expires as it is loaded (R130). -/
def OutputPort.enterSettling (p : OutputPort) (st : Settings) (now : Nat) : OutputPort × Bool :=
  let q := { p with state := .settling, expires := some (now + st.settleMs * Config.ticksPerMs) }
  if st.settleMs = 0 then q.settleExpired st now else (q, false)

/-- Presence lost: ABSENT, with OUTPUT_CHANGE from ACTIVE (R132). -/
def OutputPort.presenceLost (p : OutputPort) : OutputPort × Bool :=
  ({ p with state := .absent, lock := .none, expires := none, lastReport := none }, p.state == .active)

/-- A status report with a lock indication (R128 to R131). -/
def OutputPort.report (p : OutputPort) (locked : Bool) (st : Settings) (now : Nat) : OutputPort × Bool :=
  let q := { p with lock := if locked then .locked else .notLocked, lastReport := some now }
  match p.lock, locked, p.state with
  | .none, _, .absent => q.enterSettling st now
  | .locked, false, .active => q.enterRetrain st now
  | .notLocked, true, .retrain => ({ q with state := .active, expires := none }, false)
  | _, _, _ => (q, false)

/-- A raster change at a port (R126). -/
def OutputPort.rasterChanged (p : OutputPort) (st : Settings) (now : Nat) : OutputPort × Bool :=
  if p.state.drives then p.enterSettling st now else (p, false)

/-- The countdown remaining, in whole milliseconds not yet ended, or none (R162; assumption log 6). -/
def OutputPort.remainingMs (p : OutputPort) (now : Nat) : Option Nat :=
  p.expires.map fun t => (t - now + Config.ticksPerMs - 1) / Config.ticksPerMs

/-- Whether an output is watched and driven: in arrangement C, OUT1 and OUT3 are held ABSENT (R137). -/
def State.hasOutput (s : State) (k : Channel) : Bool := s.hasChannel k

/-- The warp and light units of a channel stopped for the rest of the frame (R25, R47). -/
def State.stopChannel (s : State) (k : Channel) : State :=
  let w := s.warps.get k
  let l := s.lights.get k
  (s.setWarp k { w with walk := none }).setLight k { l with form := .noLines, held := [], buffers := [] }

/-- A port moved by an event: where it leaves ACTIVE the channel stops, and OUTPUT_CHANGE is raised where the
transition says so. A port that goes from ACTIVE through SETTLING to ACTIVE again (settle_ms 0) has left it, and is
told by the OUTPUT_CHANGE of the expiry. -/
def State.movePort (s : State) (k : Channel) (moved : OutputPort × Bool) : State :=
  let left := (s.outputs.get k).state == .active && (moved.1.state != .active || moved.2)
  let s := s.setOutput k moved.1
  let s := if left then s.stopChannel k else s
  if moved.2 then s.raise (Cond.outputChange k) else s

/-! ### The raster timer (R120 to R124) -/

/-- The frame period in periods of REFCLK (R121). -/
def RasterTimer.period (t : RasterTimer) : Nat := Config.ticksPerUs * t.periodUs

/-- The deadline of line `v`, in periods of REFCLK after the frame start: ⌊7·P·(v + 1) / (8·H)⌋ (R121). -/
def RasterTimer.deadline (t : RasterTimer) (v : Nat) : Nat := 7 * t.period * (v + 1) / (8 * t.height)

/-- The moment a follower makes an own start: 1⅛ frame periods after a pulse or the release, one period after an own
start (R114). -/
def RasterTimer.ownStartDue (t : RasterTimer) : Nat := t.start + if t.ownLast then t.period else 9 * t.period / 8

/-- The moment of a master's or solo part's next frame start: at once after a reset, then every frame period (R123). -/
def RasterTimer.nextStart (t : RasterTimer) : Nat := if t.begun then t.start + t.period else t.start

/-- Whether the deadline of line `v` of the frame in progress has passed. -/
def RasterTimer.passed (t : RasterTimer) (v : Nat) : Bool :=
  match t.phase with
  | .activeLines next => decide (v < next)
  | .blanking => true

/-- The line whose deadline is the muster point: H − m − 1, with muster_offset clamped to 16..H/2 (R122). -/
def musterLineOf (height offset : Nat) : Nat := height - clampNat 16 (height / 2) offset - 1

/-- A new frame begun on the raster in force (R120, R122). -/
def RasterTimer.begin (t : RasterTimer) (now offset : Nat) (own : Bool) : RasterTimer :=
  { t with start := now, phase := .activeLines 0, musterLine := musterLineOf t.height offset, musterDone := false,
           begun := true, ownLast := own }

/-- Whether the stored raster settings differ from the raster in force (R126). -/
def State.rasterDiffers (s : State) : Bool :=
  s.settings.rasterWidth != s.timer.width || s.settings.rasterHeight != s.timer.height
    || s.settings.framePeriodUs != s.timer.periodUs

/-- A raster change at a frame start (R126): the stored values become the raster in force, and the ports in SETTLING,
ACTIVE and RETRAIN go to SETTLING. -/
def State.rasterChange (s : State) : State :=
  if s.rasterDiffers then
    let s := { s with timer := { s.timer with width := s.settings.rasterWidth, height := s.settings.rasterHeight,
                                              periodUs := s.settings.framePeriodUs } }
    channels.foldl (fun s k => if s.hasOutput k then s.movePort k ((s.outputs.get k).rasterChanged s.settings s.now) else s) s
  else s

end Sys2Proof.Machine
end

