-- ==== Sys2Proof/Machine/Loss.lean ====
section
/-! DEFINITION. The loss selector: the presence filter (R138 to R141), the applied vector (R142, R144), the LOSSMAP
(R145 to R147) and the selected sets (R148). -/

namespace Sys2Proof.Machine

/-- One evaluation of the presence filter: the confirmed bit and the filter count after it (R140). -/
def filterPresence (st : Settings) (confirmed up : Bool) (count : Nat) : Bool × Nat :=
  if confirmed = up then (confirmed, 0)
  else if (if confirmed then st.lossConfirm else st.returnConfirm) ≤ count + 1 then (!confirmed, 0)
  else (confirmed, count + 1)

/-- The filters of every output the selector reads (R138, R140), on the port states as they stood when the frame start
came. -/
def State.filterOutputs (s : State) (up : Quad Bool) : State :=
  let f (k : Channel) : Bool × Nat :=
    if s.hasOutput k then filterPresence s.settings (s.loss.confirmed.get k) (up.get k) (s.loss.count.get k)
    else (s.loss.confirmed.get k, s.loss.count.get k)
  { s with loss := { s.loss with confirmed := Quad.of fun k => (f k).1, count := Quad.of fun k => (f k).2 } }

/-- The applied vector of the new frame: the vector handed, or the previous one with the part's own bits (R142). -/
def State.newVector (s : State) (handed : Option Vec32) : Vec32 :=
  match handed with
  | some v => v
  | none => s.writeOwnBits s.loss.applied

/-- The applied vector formed; PRESENCE_CHANGED is raised where it differs from the one it replaces (R142, R144). -/
def State.applyVector (s : State) (handed : Option Vec32) : State :=
  let v := s.newVector handed
  let s' := { s with loss := { s.loss with applied := v } }
  if v = s.loss.applied then s' else s'.raise Cond.presenceChanged

/-- The mask of a LOSSMAP rule. -/
def Entry.ruleMask : Entry → Vec32
  | .rule m _ => m
  | _ => 0

/-- The set choice of a LOSSMAP rule for a channel. -/
def Entry.ruleSet (e : Entry) (k : Channel) : SetNo :=
  match e with
  | .rule _ sets => sets.get k
  | _ => 0

/-- Whether a mask matches a vector: it names a projector, and every projector it names is absent (R145). -/
def maskMatches (mask vector : Vec32) : Bool := mask != 0 && mask &&& vector == 0

/-- The first rule of a LOSSMAP that matches, at or after rule `i`, of the `n` left; a rule whose parity fails reads as
an empty mask and does not match (R146, R147). -/
def firstMatch (m : TableRecord) (vector : Vec32) : Nat → Nat → Option Nat
  | 0, _ => none
  | n + 1, i => if maskMatches (m.read i).ruleMask vector then some i else firstMatch m vector n (i + 1)

/-- The rules read by an evaluation: up to and with the first that matches (R146). -/
def rulesRead (m : TableRecord) (vector : Vec32) : List Nat :=
  match firstMatch m vector 16 0 with
  | some i => List.range (i + 1)
  | none => List.range 16

/-- The LIVE LOSSMAP as the selector reads it; none during the start-up load (R145, R196). -/
def State.lossmap (s : State) : Option TableRecord :=
  if s.loader.starting then none else (findTable s.tables.directory .lossmap .live).map (·.2)

/-- The set a LOSSMAP chooses for a channel against a vector (R146). -/
def chooseSet (m : Option TableRecord) (vector : Vec32) (k : Channel) : SetNo :=
  if vector = BitVec.allOnes 32 then 0
  else match m with
    | none => 0
    | some m => match firstMatch m vector 16 0 with
      | some i => (m.read i).ruleSet k
      | none => 0

/-- The chosen sets formed and the parity faults of the rules read recorded (R146, R147). -/
def State.chooseSets (s : State) : State :=
  let v := s.loss.applied
  let s' := { s with loss := { s.loss with
    chosen := Quad.of fun k => if s.hasChannel k then chooseSet s.lossmap v k else s.loss.chosen.get k } }
  match s.lossmap with
  | none => s'
  | some m => if v = BitVec.allOnes 32 then s' else s'.recordFaults (m.parityFaults none (rulesRead m v))

/-- Whether the chosen set of a channel has no LIVE BLEND and is not 0: the fallback of R148 is taken. -/
def State.setIsMissing (s : State) (k : Channel) : Bool :=
  s.hasChannel k && s.loss.chosen.get k != 0 && (findTable s.tables.directory (.blend k (s.loss.chosen.get k)) .live).isNone

/-- The selected sets formed, with SET_MISSING (R148). -/
def State.selectSets (s : State) : State :=
  { s with loss := { s.loss with
    selected := Quad.of fun k => if s.setIsMissing k then 0 else s.loss.chosen.get k
    setMissing := Quad.of s.setIsMissing } }

/-- The loss selector at a frame start, in the order of R149. -/
def State.lossAtFrameStart (s : State) (up : Quad Bool) (handed : Option Vec32) : State :=
  (((s.filterOutputs up).applyVector handed).chooseSets).selectSets

end Sys2Proof.Machine
end

