-- ==== Sys2Proof/Machine/Tiles.lean ====
section
/-! DEFINITION. The tile cache (R13 to R22) and the warp unit's pixel (R5 to R12): lookup, allocation, fills, parity,
and the pixel handed to the light unit as a sample or as black. -/

namespace Sys2Proof.Machine

/-! ### Entries -/

def TileEntry.tag : TileEntry → Tag
  | .filling t _ _ _ _ => t
  | .valid t _ _ _ _ => t

def TileEntry.order : TileEntry → Nat
  | .filling _ o _ _ _ => o
  | .valid _ o _ _ _ => o

def TileEntry.isValid : TileEntry → Bool
  | .valid .. => true
  | _ => false

/-- Whether a lookup compares the entry: VALID, or FILLING with its cancelled mark clear (R15). -/
def TileEntry.compared : TileEntry → Bool
  | .filling _ _ _ c _ => !c
  | .valid .. => true

def TileEntry.tagBad : TileEntry → Bool
  | .filling _ _ _ _ b => b
  | .valid _ _ _ b _ => b

def TileEntry.dataBad : TileEntry → Bool
  | .valid _ _ _ _ b => b
  | _ => false

/-- The entry that owns a DRAM read: FILLING, with the read's number (R17, R18). -/
def TileEntry.owns (e : TileEntry) (read : Nat) : Bool :=
  match e with
  | .filling _ o _ _ _ => o == read
  | _ => false

/-! ### Lookup and allocation (R15, R16) -/

/-- The entry of the cache that a lookup of the tag finds. -/
def lookup (c : Assoc TileEntry) (t : Tag) : Option TileEntry := (c.find? fun e => e.2.compared && e.2.tag == t).map (·.2)

/-- Whether the tag stands VALID. -/
def standsValid (c : Assoc TileEntry) (t : Tag) : Bool :=
  match lookup c t with
  | some e => e.isValid
  | none => false

/-- Whether the tag is being read: a lookup of it finds a FILLING entry. -/
def standsFilling (c : Assoc TileEntry) (t : Tag) : Bool :=
  match lookup c t with
  | some e => !e.isValid
  | none => false

/-- The VALID entry allocated longest ago (R16). -/
def earliestValid (c : Assoc TileEntry) : Option Nat :=
  ((c.filter fun e => e.2.isValid).foldl (fun best e =>
    match best with
    | none => some e
    | some b => if e.2.order < b.2.order then some e else some b) none).map (·.1)

/-- The entry that an allocation takes: the lowest-numbered INVALID one, else the VALID one allocated longest ago;
none while all 64 are FILLING (R16). -/
def allocationEntry (c : Assoc TileEntry) : Option Nat :=
  match Assoc.lowestFree c Config.tileEntries with
  | some n => some n
  | none => earliestValid c

/-- A lookup of one tag: a hit leaves the cache as it is, a miss allocates an entry FILLING and issues its fill
(R15 to R17). The second value is false where the lookup must wait for an entry. -/
def WarpUnit.lookupTag (w : WarpUnit) (now : Nat) (t : Tag) : WarpUnit × Bool :=
  match lookup w.cache t with
  | some _ => (w, true)
  | none =>
    match allocationEntry w.cache with
    | some n => ({ w with cache := Assoc.insert w.cache n (.filling t w.nextOrder now false false), nextOrder := w.nextOrder + 1 }, true)
    | none => (w, false)

/-- The lookups of tags in order, up to one that must wait for an entry, and the tags left from there on (R13, R16). -/
def WarpUnit.lookupTags (w : WarpUnit) (now : Nat) : List Tag → WarpUnit × List Tag
  | [] => (w, [])
  | t :: rest =>
    match w.lookupTag now t with
    | (w, true) => WarpUnit.lookupTags w now rest
    | (w, false) => (w, t :: rest)

/-! ### Parity (R20, R21) -/

/-- The entries whose tag fails when a lookup compares it (R21). -/
def badTags (c : Assoc TileEntry) : Assoc TileEntry := c.filter fun e => e.2.compared && e.2.tagBad

/-- The cache with those entries INVALID. -/
def dropBadTags (c : Assoc TileEntry) : Assoc TileEntry := c.filter fun e => !(e.2.compared && e.2.tagBad)

/-- Whether the data of the tag's entry fails when it is read (R20). -/
def dataFails (c : Assoc TileEntry) (t : Tag) : Bool :=
  match lookup c t with
  | some e => e.dataBad
  | none => false

/-- The cache without the entry that a lookup of the tag finds. -/
def dropTag (c : Assoc TileEntry) (t : Tag) : Assoc TileEntry := c.filter fun e => !(e.2.compared && e.2.tag == t)

/-! ### Fills (R17, R18) -/

/-- A pixel of a slot as a fill stores it: code 0 beyond the frame and on a line not received (R13, R17). -/
def Slot.pixelAt (x : Slot) (u v : Nat) : Pixel :=
  if u < x.width && v < x.height then
    match Assoc.find x.lines v with
    | some px => px.getD u Pixel.zero
    | none => Pixel.zero
  else Pixel.zero

/-- The data of a tile: 8 lines of 16 pixels (R17). -/
def Slot.tileData (x : Slot) (t : Tag) : List (List Pixel) :=
  (List.range 8).map fun dy => (List.range 16).map fun dx => x.pixelAt (t.col * 16 + dx) (t.row * 8 + dy)

/-- A pixel of the tile data. -/
def tilePixel (data : List (List Pixel)) (u v : Nat) : Pixel := (data.getD (v % 8) []).getD (u % 16) Pixel.zero

/-- The entry after the DRAM read it owns has completed: VALID with the tile's data, or INVALID where it was cancelled
(R18). -/
def TileEntry.completed (e : TileEntry) (ring : SlotRing) : Option TileEntry :=
  match e with
  | .filling t o _ false b => some (.valid t o ((ring.slots.get t.slot).tileData t) b false)
  | .filling _ _ _ true _ => none
  | e => some e

/-- The cache after the DRAM read `read` completes; a read that no entry owns changes nothing (R18, R19). -/
def completeRead (c : Assoc TileEntry) (ring : SlotRing) (read : Nat) : Assoc TileEntry :=
  c.filterMap fun e => if e.2.owns read then (e.2.completed ring).map fun x => (e.1, x) else some e

/-- The entry that owns a read. -/
def ownerOf (c : Assoc TileEntry) (read : Nat) : Option TileEntry := (c.find? fun e => e.2.owns read).map (·.2)

/-! ### The frame-start purge (R22) -/

/-- The entry after the purge for the slot left SHOWN. -/
def TileEntry.purged (shown : Option SlotNo) (e : TileEntry) : Option TileEntry :=
  match e with
  | .valid .. => if shown == some e.tag.slot then some e else none
  | .filling t o n c b => some (.filling t o n (c || shown != some t.slot) b)

/-- The cache after the purge. -/
def purgeCache (shown : Option SlotNo) (c : Assoc TileEntry) : Assoc TileEntry :=
  c.filterMap fun e => (e.2.purged shown).map fun x => (e.1, x)

/-! ### Handing a pixel to the light unit (R35) -/

/-- The frame number of a channel's SHOWN slot, which fault records carry (R19, R71). -/
def State.shownFrame (s : State) (k : Channel) : Option FrameNo := (s.rings.get k).shownFrame

/-- The instance of a directory record. -/
def State.record (s : State) (n : Option Nat) : Option TableRecord := n.bind (Assoc.find s.tables.directory)

/-- The pixel the unit is on handed to the light unit; the walk moves to the next column. -/
def State.handPixel (s : State) (k : Channel) (walk : Walk) (how : Handed) : State :=
  let w := s.warps.get k
  let l := s.lights.get k
  (s.setWarp k { w with walk := some { walk with col := walk.col + 1, waiting := none } }).setLight k
    { l with held := l.held ++ [⟨walk.col, walk.line, how⟩] }

/-- The codes of a source pixel as the cache holds them. -/
def cachedPixel (c : Assoc TileEntry) (slot : SlotNo) (ab : Nat × Nat) : Pixel :=
  match lookup c (tagOf slot ab) with
  | some (.valid _ _ data _ _) => tilePixel data ab.1 ab.2
  | _ => Pixel.zero

/-- The TONE in use for the frame (R11, R33). -/
def State.toneInUse (s : State) (k : Channel) : Option TableRecord :=
  match (s.lights.get k).params with
  | some p => s.record p.tone
  | none => none

/-- The BLEND in use for the frame (R33). -/
def State.blendInUse (s : State) (k : Channel) : Option TableRecord :=
  match (s.lights.get k).params with
  | some p => s.record p.blend
  | none => none

/-- The parity faults of reads of an instance that may be absent. -/
def readFaults (r : Option TableRecord) (frame : Option FrameNo) (read : List Nat) : List FaultRecord :=
  match r with
  | some r => r.parityFaults frame read
  | none => []

/-- A pixel all of whose tags stand VALID with good data: sampled and handed (R11, R12). -/
def State.samplePixel (s : State) (k : Channel) (walk : Walk) (slot : SlotNo) (x : Slot) (p : WaitingPixel) : State :=
  let ps := (neighbours x.width x.height p.x p.y).map (cachedPixel (s.warps.get k).cache slot)
  let tone := s.toneInUse k
  match ps with
  | [p00, p10, p01, p11] =>
    (s.recordFaults (readFaults tone (s.shownFrame k) (decodeReads ps))).handPixel k walk
      (.sample (Sys2Proof.Machine.samplePixel tone p.x p.y p00 p10 p01 p11))
  | _ => s

/-- The pixel left waiting for its tiles. -/
def State.leaveWaiting (s : State) (k : Channel) (walk : Walk) (p : WaitingPixel) : State :=
  s.setWarp k { s.warps.get k with walk := some { walk with waiting := some p } }

/-- The tags that a pixel needs, in the order of its neighbours (R13). -/
def WaitingPixel.tags (p : WaitingPixel) (slot : SlotNo) (x : Slot) : List Tag :=
  distinct ((neighbours x.width x.height p.x p.y).map (tagOf slot))

/-- Tags looked up in order (R13, R15): the comparisons find every entry whose tag fails, which goes INVALID with
TAG_PARITY recorded (R21). The tags whose lookups are still to be made are answered too. -/
def State.lookUp (s : State) (k : Channel) (ts : List Tag) : State × List Tag :=
  match ts with
  | [] => (s, [])
  | _ :: _ =>
    let w := s.warps.get k
    let faults := (badTags w.cache).map fun _ => (⟨.tagParity, some k, s.shownFrame k, .absent⟩ : FaultRecord)
    let r := WarpUnit.lookupTags { w with cache := dropBadTags w.cache } s.now ts
    ((s.setWarp k r.1).recordFaults faults, r.2)

/-- The wait for an entry ended (R16): the allocation for the first tag is made anew, without a further comparison of
tags, and the tags after it are looked up. -/
def State.allocateAnew (s : State) (k : Channel) (ts : List Tag) : State × List Tag :=
  match ts with
  | [] => (s, [])
  | t :: rest =>
    match (s.warps.get k).lookupTag s.now t with
    | (w, true) => (s.setWarp k w).lookUp k rest
    | (_, false) => (s, t :: rest)

/-- A tile whose data failed when it was read (R20): its entry goes INVALID, DATA_PARITY is recorded, and the tile is
read again into a newly allocated entry. -/
def State.refetch (s : State) (k : Channel) (t : Tag) : State :=
  let w := s.warps.get k
  (s.setWarp k (WarpUnit.lookupTag { w with cache := dropTag w.cache t } s.now t).1).recordFault
    ⟨.dataParity, some k, s.shownFrame k, .tile t.col t.row⟩

/-- A pixel all of whose tags stand VALID: sampled, or left waiting for the tiles whose data fails. Where several fail at
one read, each in turn, in the order of the neighbours, goes INVALID, is recorded and is read again (DESIGN CHOICE,
assumption log 33). -/
def State.readTiles (s : State) (k : Channel) (walk : Walk) (slot : SlotNo) (x : Slot) (p : WaitingPixel) : State :=
  match (p.tags slot x).filter (dataFails (s.warps.get k).cache) with
  | [] => s.samplePixel k walk slot x p
  | bad => (bad.foldl (fun s t => s.refetch k t) s).leaveWaiting k walk { p with todo := [] }

/-- A pixel after its lookups, `todo` being those still to be made: it waits for an entry, or for the fills of its tags,
or is read. Each tag is looked up once (R13); a tag that no entry holds any more, because its entry was given up or
discarded after the lookup, is looked up again once no tag of the pixel is being read (R16; the moment is the model's
choice, assumption log 33). -/
def State.settlePixel (s : State) (k : Channel) (walk : Walk) (slot : SlotNo) (x : Slot) (p : WaitingPixel) (todo : List Tag) :
    State :=
  let c := (s.warps.get k).cache
  match todo with
  | _ :: _ => s.leaveWaiting k walk { p with todo := todo }
  | [] =>
    if (p.tags slot x).any (standsFilling c) then s.leaveWaiting k walk { p with todo := [] }
    else match (p.tags slot x).filter (fun t => !standsValid c t) with
      | [] => s.readTiles k walk slot x p
      | lost =>
        let r := s.lookUp k lost
        r.1.leaveWaiting k walk { p with todo := r.2 }

/-- A pixel that needs its tiles: as black where it needs a tile of the failed-tile set, without a further lookup (R19);
else its lookups are made by `look` and it is settled. -/
def State.seekPixel (s : State) (k : Channel) (walk : Walk) (p : WaitingPixel) (look : List Tag → State × List Tag) : State :=
  match shownSlot (s.rings.get k).slots with
  | none => s.leaveWaiting k walk p
  | some slot =>
    let x := (s.rings.get k).slots.get slot
    if (p.tags slot x).any fun t => (s.warps.get k).failed.contains t then s.handPixel k walk .black
    else
      let r := look (p.tags slot x)
      r.1.settlePixel k walk slot x p r.2

/-- The pixel that waits, if one does, goes on: a fill of the unit has ended (R16, R18, R19). -/
def State.resumePixel (s : State) (k : Channel) : State :=
  match (s.warps.get k).walk with
  | none => s
  | some walk =>
    match walk.waiting with
    | some p => if walk.ended then s else s.seekPixel k walk p fun _ => s.allocateAnew k p.todo
    | none => s

/-- The source position of an inside pixel of a VIDEO frame clamped to the source frame, with the edge mark and
SOURCE_EDGE of the frame's first edge pixel (R9). -/
def State.placePixel (s : State) (k : Channel) (walk : Walk) (m : TableRecord) (x : Slot) : State :=
  let px := m.interpolate walk.col walk.line Entry.pointX
  let py := m.interpolate walk.col walk.line Entry.pointY
  let p : WaitingPixel := ⟨clampSource x.width px, clampSource x.height py, []⟩
  let edge := clampChanges x.width px || clampChanges x.height py
  let w := s.warps.get k
  let s := if edge && !w.edgeMark then (s.setWarp k { w with edgeMark := true }).raise (Cond.sourceEdge k) else s
  s.seekPixel k walk p (s.lookUp k)

/-- The next pixel of the walk (R5, R7): an outside pixel is handed as black; in FLAT_BLENDED mode an inside pixel is
handed as the flat sample; in VIDEO mode it is placed in the SHOWN slot's frame and sampled. -/
def State.newPixel (s : State) (k : Channel) (walk : Walk) (m : TableRecord) (params : FrameParameters) : State :=
  let s := s.recordFaults (m.parityFaults (s.shownFrame k) (m.cornerReads walk.col walk.line))
  if !m.inside walk.col walk.line then s.handPixel k walk .black
  else match params.flatSample with
    | some l => s.handPixel k walk (.sample l)
    | none =>
      match shownSlot (s.rings.get k).slots with
      | none => s
      | some slot => s.placePixel k walk m ((s.rings.get k).slots.get slot)

end Sys2Proof.Machine
end

