-- ==== Sys2Proof/Machine/Replies.lean ====
section
/-! DEFINITION. The byte layouts of what the part answers: reverse messages (R168), reply payloads (R175), the identity
record (R176), fault records (R177), the TABLE LIST reply (R178) and the status record (R179). -/

namespace Sys2Proof.Machine

/-! ### Codes -/

/-- Status codes (R168). -/
def Status.code : Status → Byte
  | .ok => 0
  | .clamped => 1
  | .accepted => 2
  | .badCommand => 3
  | .badArgument => 4
  | .noTable => 5
  | .noSpace => 6
  | .state => 7
  | .locked => 8
  | .busy => 9
  | .pending => 10
  | .unavailable => 11

def CompletionStatus.code : CompletionStatus → Byte
  | .ok => 0
  | .failed => 1

/-- Fault class codes (R177). -/
def FaultClass.code : FaultClass → Byte
  | .tagParity => 0
  | .dataParity => 1
  | .poolParity => 2
  | .fillTimeout => 3
  | .ringFormat => 4
  | .imageCheck => 5
  | .flashWrite => 6

def arrangementCode : Arrangement → Byte
  | .a => 0
  | .b => 1
  | .c => 2

def roleCode : Role → Byte
  | .solo => 0
  | .master => 1
  | .follower => 2

def LinkState.code : LinkState → Byte
  | .down => 0
  | .training => 1
  | .locked => 2

def FrameInProgress.code : FrameInProgress → Byte
  | .none => 0
  | .receiving _ _ => 1
  | .ignoring => 2

def RejectReason.code : RejectReason → Byte
  | .none => 0
  | .size => 1
  | .truncated => 2
  | .damaged => 3
  | .linkLost => 4

def SlotState.code : SlotState → Byte
  | .empty => 0
  | .filling => 1
  | .ready => 2
  | .shown => 3

def CoherenceMode.code : CoherenceMode → Byte
  | .coherent => 0
  | .loose => 1

def PortState.code : PortState → Byte
  | .absent => 0
  | .settling => 1
  | .active => 2
  | .retrain => 3
  | .failed => 4

def LockRecord.code : LockRecord → Byte
  | .none => 0
  | .locked => 1
  | .notLocked => 2

def TableState.code : TableState → Byte
  | .filling => 0
  | .open => 1
  | .sealed => 2
  | .live => 3

def Bank.code : Bank → Byte
  | .live => 0
  | .staged => 1

/-- The code of the image operation running (R179). -/
def ImageLoader.code (l : ImageLoader) : Byte :=
  match l.op with
  | none => 0
  | some (.startup _) => 1
  | some (.store ..) => 2
  | some (.load ..) => 3

/-! ### Fields -/

/-- A mark as 0 or 1. -/
def flag (b : Bool) : Nat := if b then 1 else 0

/-- A byte field. -/
def oneByte (n : Nat) : Bytes := toLe 1 n

/-- A frame number field, 0 when there is none. -/
def frameField (f : Option FrameNo) : Bytes :=
  toLe 2 (match f with
    | some x => x.toNat
    | none => 0)

/-- A channel field, FFh when there is none. -/
def channelField (k : Option Channel) : Byte :=
  match k with
  | some k => BitVec.ofNat 8 k
  | none => 0xFF

/-- Four marks in the low bits of a byte, bit k for channel k. -/
def marks (f : Channel → Bool) : Nat := flag (f 0) + 2 * flag (f 1) + 4 * flag (f 2) + 8 * flag (f 3)

/-! ### Reverse messages (R168) -/

/-- A reply or a completion as it is sent. -/
def QueueEntry.message : QueueEntry → Bytes
  | .reply tag st payload _ => withCheck 0x31 ([tag, st.code] ++ toLe 2 payload.length ++ payload)
  | .completion tag st => withCheck 0x32 [tag, st.code]

/-- Whether an entry is the reply that a RESET FULL waits for (R164). -/
def QueueEntry.isReset : QueueEntry → Bool
  | .reply _ _ _ r => r
  | .completion _ _ => false

/-- A notice as it is sent. -/
def Notice.message (n : Notice) : Bytes :=
  withCheck 0x33 ([BitVec.ofNat 8 n.cond, channelField n.channel] ++ oneByte (flag n.frame.isSome) ++ frameField n.frame)

/-! ### The identity record (R176) -/

/-- Mathiro, then 00h. -/
def vendorBytes : Bytes := [0x4D, 0x61, 0x74, 0x68, 0x69, 0x72, 0x6F, 0x00]

/-- CDA-412, then 00h. -/
def partBytes : Bytes := [0x43, 0x44, 0x41, 0x2D, 0x34, 0x31, 0x32, 0x00]

/-- The revision: the character B. -/
def revisionByte : Byte := 0x42

/-- The identity record of a strap record. -/
def StrapRecord.identity (r : StrapRecord) : Bytes :=
  vendorBytes ++ partBytes ++ [revisionByte] ++ oneByte r.arrSampled.toNat ++ oneByte r.roleSampled.toNat
    ++ oneByte r.posSampled.toNat ++ [arrangementCode r.arrangement, roleCode r.role] ++ oneByte r.position.toNat ++ oneByte (flag r.fault)
    ++ toLe 2 Config.poolPages ++ toLe 2 r.arrangement.linePages ++ toLe 2 r.arrangement.tablePages

/-! ### Fault records (R177) -/

/-- The location fields of a fault record: kind and four bytes. -/
def FaultLocation.bytes : FaultLocation → Bytes
  | .absent => [0, 0, 0, 0, 0]
  | .tile c r => 1 :: (toLe 2 c ++ toLe 2 r)
  | .page p => 2 :: (toLe 2 p ++ [0, 0])
  | .seq n => [3, n, 0, 0, 0]

/-- A fault record as FAULT READ returns it. -/
def FaultRecord.bytes (f : FaultRecord) : Bytes :=
  [f.cls.code, channelField f.channel] ++ oneByte (flag f.frame.isSome) ++ frameField f.frame ++ f.location.bytes

/-! ### Shared fields of the table store (R178, R179) -/

/-- The key of the instance being filled, or FFh three times. -/
def TableStore.fillingKey (t : TableStore) : Bytes :=
  match t.fill.bind fun f => Assoc.find t.directory f.record with
  | some r => r.key.bytes
  | none => [0xFF, 0xFF, 0xFF]

/-- The flags, target, key count and keys of the pending swap: 79 bytes. -/
def swapBytes (sw : Option PendingSwap) : Bytes :=
  match sw with
  | none => [0, 0, 0, 0] ++ List.replicate 75 0xFF
  | some p =>
    oneByte (1 + 2 * flag p.target.isSome + 4 * flag p.deferred) ++ frameField p.target ++ oneByte p.keys.length
      ++ p.keys.flatMap Key.bytes ++ List.replicate (75 - 3 * p.keys.length) 0xFF

/-! ### TABLE LIST (R70, R178) -/

/-- A directory record as TABLE LIST returns it. -/
def TableRecord.listed (n : Nat) (r : TableRecord) : Bytes :=
  let d := r.dims.getD ⟨0, 0, 0⟩
  oneByte n ++ r.key.bytes ++ [r.bank.code, r.state.code] ++ oneByte (flag r.locked + 2 * flag r.dropMark)
    ++ oneByte d.spacing ++ toLe 2 r.firstPage ++ toLe 2 r.pageCount ++ toLe 2 d.cols ++ toLe 2 d.rows

/-- The records returned for a start number: up to 48 of the occupied records at or above it (R70). -/
def TableStore.returned (t : TableStore) (start : Nat) : Assoc TableRecord :=
  (t.directory.filter fun e => decide (start ≤ e.1)).take Config.listRecords

/-- The reply of TABLE LIST. `choice` is the free value that names one of several longest free runs. -/
def TableStore.list (t : TableStore) (arr : Arrangement) (start choice : Nat) : Bytes :=
  let free := freePages arr t.directory
  let run := largestRun arr t.directory choice
  let rs := t.returned start
  let more := (t.directory.filter fun e => decide (start ≤ e.1)).length != rs.length
  toLe 2 arr.tablePages ++ toLe 2 free
    ++ toLe 2 (match run with
      | some r => r.2
      | none => 0)
    ++ toLe 2 (match run with
      | some r => r.1
      | none => 0xFFFF)
    ++ oneByte t.directory.length ++ oneByte rs.length ++ oneByte (flag more) ++ t.fillingKey ++ swapBytes t.swap
    ++ rs.flatMap fun e => e.2.listed e.1

/-! ### STATUS (R162, R179) -/

/-- The input port group of a port. -/
def State.portStatus (s : State) (k : Channel) : Bytes :=
  [(s.inputs.get k).link.code, (s.inputs.get k).progress.code, (s.rings.get k).reject.code]

/-- The slot group of a channel. -/
def State.slotStatus (s : State) (k : Channel) : Bytes :=
  let r := s.rings.get k
  (slotNos.flatMap fun i =>
    let x := r.slots.get i
    [x.state.code] ++ oneByte (flag x.reserved) ++ toLe 2 x.frame.toNat) ++ oneByte r.quiet ++ oneByte (flag (s.active k))

/-- The coherence group; a field whose state the role does not hold is 0 (R162). -/
def State.cohStatus (s : State) : Bytes :=
  let c := s.coh
  let role := s.straps.role
  let shown (k : Channel) : Option FrameNo := c.channelShown.get k
  [roleCode role, c.mode.code]
    ++ oneByte (flag c.ringLost + 2 * flag c.syncLost + 4 * flag c.shown.isSome + 8 * marks fun k => (shown k).isSome)
    ++ frameField c.shown ++ channels.flatMap (fun k => frameField (shown k))
    ++ oneByte (if role = .follower then 0 else c.repeatCount)
    ++ oneByte (if role = .master then c.seq.toNat else 0)
    ++ oneByte (if role = .follower then c.missCount else 0)
    ++ oneByte (if role = .follower then c.ownStarts else 0)

/-- The output port group of a port. -/
def State.outputStatus (s : State) (k : Channel) : Bytes :=
  let p := s.outputs.get k
  [p.state.code, p.lock.code] ++ toLe 2 (match p.remainingMs s.now with
    | some m => m
    | none => 0xFFFF)

/-- The loss selector group. -/
def State.lossStatus (s : State) : Bytes :=
  oneByte (marks s.loss.confirmed.get) ++ toLe 4 s.loss.applied.toNat
    ++ (channels.flatMap fun k => oneByte (s.loss.chosen.get k)) ++ (channels.flatMap fun k => oneByte (s.loss.selected.get k))
    ++ oneByte (marks s.loss.setMissing.get)

/-- The management group (R179). DEDUCED: the entries counted for a reply queue are those placed in it, without the one that the
STATUS command being served has reserved for its own reply (assumption log 11). -/
def State.managementStatus (s : State) : Bytes :=
  oneByte s.cells.length ++ (channels.flatMap fun k => oneByte (s.lanes.get k).replies.length) ++ oneByte s.faults.length
    ++ oneByte (flag s.overflow) ++ oneByte (marks s.summary)

/-- The status record. -/
def State.statusRecord (s : State) : Bytes :=
  channels.flatMap s.portStatus ++ channels.flatMap s.slotStatus ++ s.cohStatus ++ channels.flatMap s.outputStatus
    ++ s.lossStatus ++ s.tables.fillingKey ++ swapBytes s.tables.swap ++ oneByte (marks s.tables.unfit.get)
    ++ [s.loader.code] ++ s.managementStatus

end Sys2Proof.Machine
end

