-- ==== Sys2Proof/Machine/Serve.lean ====
section
/-! DEFINITION. The management engine (R153 to R155): when the oldest cell may be served, how its reply is placed, how a
completion falls due, and the checks that commands share (R55, R158). -/

namespace Sys2Proof.Machine

/-! ### Serving (R154) -/

/-- What serving a cell leaves: the state, and the reply's status and payload. `resets` marks the reply of a RESET
FULL. -/
structure Answer where
  state : State
  status : Status
  payload : Bytes := []
  resets : Bool := false
deriving DecidableEq, Repr

/-- A reply with no effect: a refusal. -/
def Answer.refuse (s : State) (st : Status) : Answer := { state := s, status := st }

/-- Whether a reply queue has a free entry (R155). -/
def ReverseLane.hasRoom (l : ReverseLane) : Bool := decide (l.replies.length < Config.replyQueueDepth)

/-- The lane with an entry placed last in its reply queue. -/
def ReverseLane.place (l : ReverseLane) (e : QueueEntry) : ReverseLane := { l with replies := l.replies ++ [e] }

/-- The oldest cell and the cells behind it, where the engine may serve it: it is not waiting to reset, and the cell
carries its discard mark or the reply queue of its link has a free entry (R154, R164). -/
def State.mayServe (s : State) : Option (Cell × List Cell) :=
  match s.resetWait, s.cells with
  | none, c :: rest => if c.discard || (s.lanes.get c.link).hasRoom then some (c, rest) else none
  | _, _ => none

/-- The reply placed in its link's reply queue, or discarded with the discard mark (R154). -/
def State.reply (s : State) (c : Cell) (e : QueueEntry) : State :=
  if c.discard then s else s.setLane c.link ((s.lanes.get c.link).place e)

/-- The oldest cell served by a command, where it may be served and is a cell of that command; the state as it stands
where not. -/
def State.serve (s : State) (mine : Cell → Bool) (command : Cell → State → Answer) : State :=
  match s.mayServe with
  | none => s
  | some (c, rest) =>
    if mine c then
      let a := command c { s with cells := rest }
      a.state.reply c (.reply c.tag a.status a.payload a.resets)
    else s

/-- Whether a cell carries a command (R172). -/
def Cell.carries (c : Cell) (id : CommandId) : Bool := commandOf c.command == some id

/-! ### Completions (R155) -/

/-- A completion that has fallen due: it waits, or is discarded where its link is DOWN. -/
def State.dueCompletion (s : State) (link : Channel) (tag : Byte) (st : CompletionStatus) : Option Completion :=
  if (s.inputs.get link).link = .down then none else some ⟨link, tag, st⟩

/-! ### Checks -/

/-- The channel of a key does not exist in the arrangement. -/
def State.keyAbsent (s : State) (key : Key) : Bool :=
  match key.channel with
  | some k => !s.hasChannel k
  | none => false

/-- The checks of R55 that follow the form of a table command. `excludes` says that the command may not be served while
a LOAD runs. -/
def State.tableChecks (s : State) (keys : List Key) (excludes : Bool) : Option Status :=
  if keys.any s.keyAbsent then some .unavailable
  else if s.loader.starting then some .busy
  else if excludes && s.loader.loading then some .busy
  else none

end Sys2Proof.Machine
end

