-- ==== Sys2Proof/Machine/Commands.lean ====
section
/-! DEFINITION. The commands of the management engine that keep to its own state and to one output port: IDENTIFY,
STATUS, SET, GET, CLEAR, FAULT READ, RESTART OUTPUT and an unknown identifier (R158 to R163, R186, R189). Each is a
function from the cell and the state to an answer; its row serves the oldest cell with it. -/

namespace Sys2Proof.Machine

/-! ### IDENTIFY and STATUS -/

/-- IDENTIFY (R159). -/
def State.identifyCommand (c : Cell) (s : State) : Answer :=
  if c.payload.length ≠ 0 then .refuse s .badArgument else { state := s, status := .ok, payload := s.straps.identity }

def execIdentify (s : State) : Host.Outcome State Fault Refusal :=
  .next (s.serve (fun c => c.carries .identify) State.identifyCommand)

/-- STATUS (R162). -/
def State.statusCommand (c : Cell) (s : State) : Answer :=
  if c.payload.length ≠ 0 then .refuse s .badArgument else { state := s, status := .ok, payload := s.statusRecord }

def execStatus (s : State) : Host.Outcome State Fault Refusal :=
  .next (s.serve (fun c => c.carries .status) State.statusCommand)

/-! ### SET and GET (R160, R161) -/

/-- A setting stored as its legal value; a change of notice_enable acts on the notice queue (R161, R183). -/
def State.storeSetting (s : State) (id : SettingId) (k : Channel) (v : Nat) : State :=
  let legal := id.legal s.straps.arrangement s.settings v
  match id with
  | .noticeEnable => s.setEnables (BitVec.ofNat 45 legal)
  | _ => { s with settings := s.settings.store id k legal }

/-- The setting and channel that a SET or GET names, or the status that refuses it (R158). -/
def State.namedSetting (s : State) (payload : Bytes) (length : Nat) : Except Status (SettingId × Channel) :=
  if payload.length ≠ length then .error .badArgument
  else match settingOf (byteAt payload 0), channelOf (byteAt payload 1) with
    | some id, some k => if id.perChannel && !s.hasChannel k then .error .unavailable else .ok (id, k)
    | _, _ => .error .badArgument

/-- The payload of a SET or GET reply: setting, channel and the value stored (R175). -/
def State.settingReply (s : State) (id : SettingId) (k : Channel) : Bytes :=
  oneByte id.code ++ oneByte k ++ toLe 8 (s.settings.value id k)

/-- SET (R161): CLAMPED when the value stored differs from the value sent. -/
def State.setCommand (c : Cell) (s : State) : Answer :=
  match s.namedSetting c.payload 10 with
  | .error st => .refuse s st
  | .ok (id, k) =>
    let v := field c.payload 2 8
    let t := s.storeSetting id k v
    { state := t, status := if t.settings.value id k = v then .ok else .clamped, payload := t.settingReply id k }

def execSet (s : State) : Host.Outcome State Fault Refusal := .next (s.serve (fun c => c.carries .set) State.setCommand)

/-- GET (R161). -/
def State.getCommand (c : Cell) (s : State) : Answer :=
  match s.namedSetting c.payload 2 with
  | .error st => .refuse s st
  | .ok (id, k) => { state := s, status := .ok, payload := s.settingReply id k }

def execGet (s : State) : Host.Outcome State Fault Refusal := .next (s.serve (fun c => c.carries .get) State.getCommand)

/-! ### CLEAR and FAULT READ (R163, R186, R189) -/

/-- CLEAR (R186): the reply carries the pending set as it was before the clearing. -/
def State.clearCommand (c : Cell) (s : State) : Answer :=
  if c.payload.length ≠ 6 then .refuse s .badArgument
  else { state := s.clearConditions (conditionSet c.payload), status := .ok, payload := toLe 6 s.pendingSet.toNat }

def execClear (s : State) : Host.Outcome State Fault Refusal :=
  .next (s.serve (fun c => c.carries .clear) State.clearCommand)

/-- FAULT READ (R189): the oldest record removed and returned with the overflow flag, which clears when the log becomes
empty. -/
def State.faultReadCommand (c : Cell) (s : State) : Answer :=
  if c.payload.length ≠ 0 then .refuse s .badArgument
  else match s.faults with
    | [] => { state := s, status := .ok, payload := oneByte (flag s.overflow) ++ [0] }
    | f :: rest =>
      { state := { s with faults := rest, overflow := if rest.isEmpty then false else s.overflow }, status := .ok,
        payload := oneByte (flag s.overflow) ++ [1] ++ f.bytes }

def execFaultRead (s : State) : Host.Outcome State Fault Refusal :=
  .next (s.serve (fun c => c.carries .faultRead) State.faultReadCommand)

/-! ### RESTART OUTPUT (R133) -/

/-- RESTART OUTPUT (R133): a port that is not ABSENT goes to SETTLING with a fresh countdown. -/
def State.restartCommand (c : Cell) (s : State) : Answer :=
  if c.payload.length ≠ 1 then .refuse s .badArgument
  else match channelOf (byteAt c.payload 0) with
    | none => .refuse s .badArgument
    | some k =>
      if !s.hasOutput k then .refuse s .unavailable
      else if (s.outputs.get k).state = .absent then .refuse s .state
      else { state := s.movePort k ((s.outputs.get k).enterSettling s.settings s.now), status := .ok }

def execRestartOutput (s : State) : Host.Outcome State Fault Refusal :=
  .next (s.serve (fun c => c.carries .restartOutput) State.restartCommand)

/-! ### An unknown identifier (R158) -/

/-- BAD_COMMAND (R158). -/
def State.badCommand (_ : Cell) (s : State) : Answer := .refuse s .badCommand

def execBadCommand (s : State) : Host.Outcome State Fault Refusal :=
  .next (s.serve (fun c => (commandOf c.command).isNone) State.badCommand)

end Sys2Proof.Machine
end

