-- ==== Sys2Proof/Machine/TableCommands.lean ====
section
/-! DEFINITION. The table commands (R55 to R65, R70) and the default fill (R57). -/

namespace Sys2Proof.Machine

/-! ### TABLE OPEN (R56) and the default fill (R57) -/

/-- The dimensions that an OPEN carries (R172). -/
def dimsAt (b : Bytes) (off : Nat) : Dims := ⟨byteAt b off, field b (off + 1) 2, field b (off + 3) 2⟩

/-- TABLE OPEN (R56): a staged FILLING instance with its page run, and its default fill begun. A completion that waits
does not hinder it: no fill is running then (assumption log 12). -/
def State.openCommand (c : Cell) (s : State) : Answer :=
  if c.payload.length ≠ 8 then .refuse s .badArgument
  else match keyAt c.payload 0 with
    | none => .refuse s .badArgument
    | some key =>
      match s.tableChecks [key] true with
      | some st => .refuse s st
      | none =>
        let d := dimsAt c.payload 3
        if (findTable s.tables.directory key .staged).isSome then .refuse s .state
        else if !key.dimsLegal d then .refuse s .badArgument
        else if s.tables.fill.isSome then .refuse s .busy
        else match createTable s.straps.arrangement s.tables.directory key (key.dimsKept d) .filling with
          | none => .refuse s .noSpace
          | some (n, dir) =>
            { state := s.setTables { s.tables with directory := dir, fill := some ⟨n, 0, c.tag, c.link⟩ },
              status := .accepted }

def execTableOpen (s : State) : Host.Outcome State Fault Refusal :=
  .next (s.serve (fun c => c.carries .tableOpen) State.openCommand)

/-- The page of the fill that has been written (R57): the fill goes on to the next, or ends with the instance OPEN and
its completion due. -/
def State.fillPageDone (s : State) (f : FillOp) (r : TableRecord) : State :=
  let filled := r.fillPage f.nextPage
  if f.nextPage + 1 < r.pageCount then
    s.setTables { s.tables with directory := Assoc.insert s.tables.directory f.record filled,
                                fill := some { f with nextPage := f.nextPage + 1 } }
  else
    s.setTables { s.tables with directory := Assoc.insert s.tables.directory f.record { filled with state := .open },
                                fill := none, fillDue := s.tables.fillDue ++ (s.dueCompletion f.link f.tag .ok).toList }

/-- DEFAULT_FILL_PAGE_DONE (R57). -/
def execDefaultFillPageDone (s : State) : Host.Outcome State Fault Refusal :=
  match s.tables.fill with
  | none => .next s
  | some f =>
    match Assoc.find s.tables.directory f.record with
    | none => .next s
    | some r => .next (s.fillPageDone f r)

/-! ### TABLE WRITE (R59, R60) and TABLE READ (R61) -/

/-- The part of a TABLE WRITE or READ that both judge alike: the field (none in FULL mode), start and count. -/
structure Span where
  field : Option FieldName
  start : Nat
  count : Nat
deriving DecidableEq, Repr

/-- Bytes that one entry of the span takes in a payload (R51). -/
def Span.entrySize (p : Span) (key : Key) : Nat :=
  match p.field with
  | some f => f.bytes
  | none => key.entryBytes

/-- The span that fields name: none where FIELD mode names a field that the kind does not have (R59). -/
def spanOf (key : Key) (fieldMode : Bool) (fieldByte start count : Nat) : Option Span :=
  if fieldMode then (key.fieldOf fieldByte).map fun f => ⟨some f, start, count⟩ else some ⟨none, start, count⟩

/-- Whether count and start lie within the instance (R59). -/
def Span.inside (p : Span) (r : TableRecord) : Bool := decide (1 ≤ p.count) && decide (p.start + p.count ≤ r.entryCount)

/-- One entry stored from its payload bytes, and whether a value was clamped (R60). -/
def TableRecord.storeEntry (r : TableRecord) (f : Option FieldName) (i : Nat) (b : Bytes) : TableRecord × Bool :=
  match f with
  | none =>
    let (e, clamped) := r.key.entryOfBytes i b
    (r.write i e true, clamped)
  | some f =>
    let old := (Assoc.find r.contents i).getD (r.default i)
    let (e, clamped) := old.withField f i b
    (r.write i e (f == .value), clamped)

/-- Entries stored in index order from their payload bytes, `size` bytes each (R60). -/
def TableRecord.storeEntries (f : Option FieldName) (size : Nat) : Nat → Nat → Bytes → TableRecord × Bool → TableRecord × Bool
  | 0, _, _, r => r
  | n + 1, i, data, (r, clamped) =>
    let (r', c) := r.storeEntry f i (data.take size)
    TableRecord.storeEntries f size n (i + 1) (data.drop size) (r', clamped || c)

/-- TABLE WRITE (R59, R60). -/
def State.writeCommand (c : Cell) (s : State) : Answer :=
  let b := c.payload
  if b.length < 11 || Config.maxCellPayload < b.length then .refuse s .badArgument
  else match keyAt b 0, fieldModeOf (byteAt b 3) with
    | some key, some fieldMode =>
      match s.tableChecks [key] false with
      | some st => .refuse s st
      | none =>
        match findTable s.tables.directory key .staged with
        | none => .refuse s (if (findTable s.tables.directory key .live).isSome then .state else .noTable)
        | some (n, r) =>
          if r.locked then .refuse s .locked
          else if r.state = .filling then .refuse s .busy
          else if r.state ≠ .open then .refuse s .state
          else match spanOf key fieldMode (byteAt b 4) (field b 5 4) (field b 9 2) with
            | none => .refuse s .badArgument
            | some p =>
              if !p.inside r || (b.drop 11).length != p.count * p.entrySize key then .refuse s .badArgument
              else
                let (r', clamped) := TableRecord.storeEntries p.field (p.entrySize key) p.count p.start (b.drop 11) (r, false)
                { state := s.setDirectory (Assoc.insert s.tables.directory n r'),
                  status := if clamped then .clamped else .ok }
    | _, _ => .refuse s .badArgument

def execTableWrite (s : State) : Host.Outcome State Fault Refusal :=
  .next (s.serve (fun c => c.carries .tableWrite) State.writeCommand)

/-- The entries of a span. -/
def Span.entries (p : Span) : List Nat := List.range' p.start p.count

/-- The bytes that a TABLE READ returns (R61). -/
def TableRecord.readSpan (r : TableRecord) (p : Span) : Bytes :=
  p.entries.flatMap fun i => match p.field with
    | none => (r.read i).bytes
    | some f => (r.read i).fieldBytes f

/-- TABLE READ (R61), with the parity faults of the entries read (R71). -/
def State.readCommand (c : Cell) (s : State) : Answer :=
  let b := c.payload
  if b.length ≠ 12 then .refuse s .badArgument
  else match keyAt b 0, bankOf (byteAt b 3), fieldModeOf (byteAt b 4) with
    | some key, some bank, some fieldMode =>
      match s.tableChecks [key] false with
      | some st => .refuse s st
      | none =>
        match findTable s.tables.directory key bank with
        | none => .refuse s .noTable
        | some (_, r) =>
          if r.state = .filling then .refuse s .busy
          else match spanOf key fieldMode (byteAt b 5) (field b 6 4) (field b 10 2) with
            | none => .refuse s .badArgument
            | some p =>
              if !p.inside r || decide (Config.maxEntryData < p.count * p.entrySize key) then .refuse s .badArgument
              else { state := s.recordFaults (r.parityFaults none p.entries), status := .ok, payload := r.readSpan p }
    | _, _, _ => .refuse s .badArgument

def execTableRead (us : List Upset) (s : State) : Host.Outcome State Fault Refusal :=
  .next ((s.upsets us).serve (fun c => c.carries .tableRead) State.readCommand)

/-! ### TABLE SEAL (R62) and TABLE DROP (R63, R64) -/

/-- TABLE SEAL (R62). -/
def State.sealCommand (c : Cell) (s : State) : Answer :=
  if c.payload.length ≠ 3 then .refuse s .badArgument
  else match keyAt c.payload 0 with
    | none => .refuse s .badArgument
    | some key =>
      match s.tableChecks [key] true with
      | some st => .refuse s st
      | none =>
        match findTable s.tables.directory key .staged with
        | none => .refuse s (if (findTable s.tables.directory key .live).isSome then .state else .noTable)
        | some (n, r) =>
          if r.locked then .refuse s .locked
          else if r.state ≠ .open then .refuse s .state
          else { state := s.setDirectory (Assoc.insert s.tables.directory n { r with state := .sealed }), status := .ok }

def execTableSeal (s : State) : Host.Outcome State Fault Refusal :=
  .next (s.serve (fun c => c.carries .tableSeal) State.sealCommand)

/-- The staged instance of a key dropped (R63). -/
def State.dropStaged (s : State) (key : Key) : Answer :=
  match findTable s.tables.directory key .staged with
  | none => .refuse s .noTable
  | some (n, r) =>
    if r.locked then .refuse s .locked
    else if r.state = .filling then .refuse s .busy
    else { state := s.setDirectory (Assoc.erase s.tables.directory n), status := .ok }

/-- The LIVE instance of a key marked for removal (R64). -/
def State.dropLive (s : State) (key : Key) : Answer :=
  match findTable s.tables.directory key .live with
  | none => .refuse s .noTable
  | some (n, r) =>
    if s.loader.storing then .refuse s .busy
    else { state := s.setDirectory (Assoc.insert s.tables.directory n { r with dropMark := true }), status := .ok }

/-- TABLE DROP (R63, R64). -/
def State.dropCommand (c : Cell) (s : State) : Answer :=
  if c.payload.length ≠ 4 then .refuse s .badArgument
  else match keyAt c.payload 0, bankOf (byteAt c.payload 3) with
    | some key, some bank =>
      match s.tableChecks [key] true with
      | some st => .refuse s st
      | none =>
        match bank with
        | .staged => s.dropStaged key
        | .live => s.dropLive key
    | _, _ => .refuse s .badArgument

/-- Whether the payload of a TABLE DROP has the length of one and names a bank. -/
def dropNames (bank : Nat) (b : Bytes) : Bool := b.length == 4 && byteAt b 3 == bank

/-- TABLE DROP of the staged bank; a cell whose payload names no bank is answered by either row. -/
def execTableDropStaged (s : State) : Host.Outcome State Fault Refusal :=
  .next (s.serve (fun c => c.carries .tableDrop && !dropNames 0 c.payload) State.dropCommand)

/-- TABLE DROP of the LIVE bank; a cell whose payload names no bank is answered by either row. -/
def execTableDropLive (s : State) : Host.Outcome State Fault Refusal :=
  .next (s.serve (fun c => c.carries .tableDrop && !dropNames 1 c.payload) State.dropCommand)

/-! ### TABLE SWAP (R65) -/

/-- The keys at offset `off`, `n` of them; none where one is not legal. -/
def keysAt (b : Bytes) : Nat → Nat → Option (List Key)
  | 0, _ => some []
  | n + 1, off =>
    match keyAt b off, keysAt b n (off + 3) with
    | some k, some ks => some (k :: ks)
    | _, _ => none

/-- What a TABLE SWAP asks (R65): a list of keys, empty for ALL_SEALED, and a target. -/
structure SwapRequest where
  all : Bool
  keys : List Key
  target : Option FrameNo
deriving DecidableEq, Repr

/-- The request of a TABLE SWAP payload, or none where its form is not legal (R172). -/
def parseSwap (b : Bytes) : Option SwapRequest :=
  let flags := byteAt b 0
  let k := byteAt b 3
  let all := flags / 2 % 2 == 1
  if b.length < 4 || b.length != 4 + 3 * k || decide (4 ≤ flags) then none
  else if (if all then k != 0 else decide (k < 1) || decide (25 < k)) then none
  else (keysAt b k 4).map fun keys => ⟨all, keys, if flags % 2 = 1 then some (frameAt b 1) else none⟩

/-- Whether a list holds a key twice. -/
def keyTwice : List Key → Bool
  | [] => false
  | k :: rest => rest.contains k || keyTwice rest

/-- Whether a key has a staged SEALED instance. -/
def sealedKey (dir : Assoc TableRecord) (key : Key) : Bool := dir.any fun e => e.2.key == key && e.2.state == .sealed

/-- The keys of every SEALED instance, in record order. -/
def sealedKeys (dir : Assoc TableRecord) : List Key := (dir.filter fun e => e.2.state == .sealed).map fun e => e.2.key

/-- The staged SEALED instances of the keys take their locked mark. -/
def lockKeys (dir : Assoc TableRecord) (keys : List Key) : Assoc TableRecord :=
  dir.map fun e => if e.2.state == .sealed && keys.contains e.2.key then (e.1, { e.2 with locked := true }) else e

/-- TABLE SWAP (R65): the keys locked and the pending swap recorded. -/
def State.swapCommand (c : Cell) (s : State) : Answer :=
  match parseSwap c.payload with
  | none => .refuse s .badArgument
  | some q =>
    match s.tableChecks q.keys true with
    | some st => .refuse s st
    | none =>
      let dir := s.tables.directory
      let keys := if q.all then sealedKeys dir else q.keys
      if keyTwice q.keys then .refuse s .badArgument
      else if s.tables.swap.isSome then .refuse s .pending
      else if keys.isEmpty || !keys.all (sealedKey dir) then .refuse s .state
      else { state := s.setTables { s.tables with directory := lockKeys dir keys, swap := some ⟨keys, q.target, false⟩ },
             status := .ok }

def execTableSwap (s : State) : Host.Outcome State Fault Refusal :=
  .next (s.serve (fun c => c.carries .tableSwap) State.swapCommand)

/-! ### TABLE LIST (R70) -/

/-- TABLE LIST (R70). The range of the start record number is judged with the payload's form, before BUSY (DESIGN CHOICE,
assumption log 34). -/
def State.listCommand (c : Cell) (s : State) : Answer :=
  let start := byteAt c.payload 0
  if c.payload.length ≠ 1 || 63 < start then .refuse s .badArgument
  else match s.tableChecks [] false with
    | some st => .refuse s st
    | none =>
      { state := s.useFree 1, status := .ok, payload := s.tables.list s.straps.arrangement start s.freeValue }

def execTableList (s : State) : Host.Outcome State Fault Refusal :=
  .next (s.serve (fun c => c.carries .tableList) State.listCommand)

end Sys2Proof.Machine
end

