-- ==== Sys2Proof/Machine/Image.lean ====
section
/-! DEFINITION. The image loader (R193 to R200): the calibration image in the flash, the start-up load, STORE with its
phases, and LOAD. -/

namespace Sys2Proof.Machine

/-! ### The image in the flash (R171, R193, R194) -/

/-- The magic (R171). -/
def magicBytes : Bytes := [0xC4, 0x12, 0xDA, 0x7E]

/-- Bytes of the header (R171). -/
def headerBytes : Nat := 14

/-- The number in the `n` flash bytes at address `a`. -/
def flashField (m : Assoc Byte) (a n : Nat) : Nat := leNat (Memory.readBytes m a n)

/-- Whether the magic is present. -/
def hasMagic (m : Assoc Byte) : Bool := Memory.readBytes m 0 4 == magicBytes

def bodyLength (m : Assoc Byte) : Nat := flashField m 4 4
def headerCrc (m : Assoc Byte) : Nat := flashField m 8 4
def settingsCount (m : Assoc Byte) : Nat := flashField m 12 1
def tableCount (m : Assoc Byte) : Nat := flashField m 13 1

/-- A table of the image: its key, dimensions and the offset of its data in the body. -/
structure ImageTable where
  key : Key
  dims : Option Dims
  offset : Nat
deriving DecidableEq, Repr

/-- Bytes of a table's data: its entry count times its FULL-mode entry size (R194). -/
def ImageTable.dataBytes (t : ImageTable) : Nat := t.key.entryCount t.dims * t.key.entryBytes

/-- The key that a directory record names; none where its kind, channel or set is not legal (R171, R194). -/
def imageKey (rec : Bytes) : Option Key :=
  match byteAt rec 0 with
  | 0 => (channelOf (byteAt rec 1)).map .mesh
  | 1 => match channelOf (byteAt rec 1), channelOf (byteAt rec 2) with
    | some k, some m => some (.blend k m)
    | _, _ => none
  | 2 => (channelOf (byteAt rec 1)).map .tone
  | 3 => some .lossmap
  | _ => none

/-- The table of a directory record of 16 bytes in a body of length `body`; none where the record spoils the form. -/
def imageTable (body : Nat) (rec : Bytes) : Option ImageTable :=
  match imageKey rec with
  | none => none
  | some key =>
    let d : Dims := ⟨byteAt rec 3, field rec 4 2, field rec 6 2⟩
    let t : ImageTable := ⟨key, key.dimsKept d, field rec 8 4⟩
    if key.dimsLegal d && field rec 12 4 == t.dataBytes && decide (t.offset + field rec 12 4 ≤ body) then some t else none

/-- Every member of a list, or none where one is missing. -/
def allSome {α : Type} : List (Option α) → Option (List α)
  | [] => some []
  | none :: _ => none
  | some x :: rest => (allSome rest).map (x :: ·)

/-- The tables of the image in order where its form is correct, none where it is not (R194). -/
def imageTables (m : Assoc Byte) : Option (List ImageTable) :=
  let len := bodyLength m
  let s := settingsCount m
  let t := tableCount m
  if hasMagic m && len != 0xFFFFFFFF && decide (headerBytes + len ≤ Config.flashBytes) && decide (t ≤ 25)
      && decide (10 * s + 16 * t ≤ len) then
    match allSome ((List.range t).map fun i => imageTable len (Memory.readBytes m (headerBytes + 10 * s + 16 * i) 16)) with
    | none => none
    | some ts => if keyTwice (ts.map fun t => t.key) then none else some ts
  else none

/-- Whether the body's CRC-32 is the header's (R193). -/
def crcCorrect (m : Assoc Byte) : Bool := (crc32 (Memory.readBytes m headerBytes (bodyLength m))).toNat == headerCrc m

/-- Whether the image is good (R194). -/
def imageGood (m : Assoc Byte) : Bool := (imageTables m).isSome && crcCorrect m

/-- The tables of the image that the arrangement uses: those of channels 1 and 3 are skipped in C (R194). -/
def State.imageTablesUsed (s : State) (ts : List ImageTable) : List ImageTable := ts.filter fun t => !s.keyAbsent t.key

/-- The IMAGE_CHECK record (R195, R200). -/
def imageCheckFault : FaultRecord := ⟨.imageCheck, none, none, .absent⟩

/-- The FLASH_WRITE record (R198). -/
def flashWriteFault : FaultRecord := ⟨.flashWrite, none, none, .absent⟩

/-! ### The start-up load (R195) -/

/-- The start-up load ended, with the image state found. -/
def State.endStartup (s : State) (image : ImageState) : State := s.setLoader { s.loader with op := none, image := image }

/-- STARTUP_HEADER_READ_DONE (R195): without the magic the load ends with NONE; with it the checking read begins. -/
def execStartupHeaderReadDone (s : State) : Host.Outcome State Fault Refusal :=
  match s.loader.op with
  | some (.startup .header) =>
    if hasMagic s.flash then .next (s.setLoader { s.loader with op := some (.startup .check) }) else .next (s.endStartup .none)
  | _ => .next s

/-- A settings record applied as a SET is (R195); one with an unknown identifier or an absent channel is skipped. -/
def State.applyRecord (s : State) (rec : Bytes) : State :=
  match settingOf (byteAt rec 0) with
  | none => s
  | some id =>
    if id.perChannel then
      match channelOf (byteAt rec 1) with
      | some k => if s.hasChannel k then s.storeSetting id k (field rec 2 8) else s
      | none => s
    else s.storeSetting id 0 (field rec 2 8)

/-- The settings records of the image in order. -/
def settingsRecords (m : Assoc Byte) : List Bytes :=
  (List.range (settingsCount m)).map fun i => Memory.readBytes m (headerBytes + 10 * i) 10

/-- A directory record with the table data at body offset `off` written into its pages, values clamped as R170 gives. -/
def TableRecord.writeImage (r : TableRecord) (m : Assoc Byte) (off : Nat) : TableRecord :=
  (TableRecord.storeEntries none r.key.entryBytes r.entryCount 0
    (Memory.readBytes m (headerBytes + off) (r.entryCount * r.key.entryBytes)) (r, false)).1

/-- A table of the image created LIVE; it is skipped where no record or run remains (R195), and where its key has a LIVE
instance, which the start-up load of an empty store does not meet. -/
def State.loadLive (s : State) (t : ImageTable) : State :=
  if (liveRecord s.tables.directory t.key).isSome then s
  else match createTable s.straps.arrangement s.tables.directory t.key t.dims .live with
    | none => s
    | some (n, dir) => s.setDirectory (Assoc.modify dir n fun r => r.writeImage s.flash t.offset)

/-- The settings records of the image applied, in order (R195). -/
def State.applySettings (s : State) : State := (settingsRecords s.flash).foldl State.applyRecord s

/-- The tables of the image created, in image order (R195). -/
def State.applyTables (s : State) : State :=
  match imageTables s.flash with
  | none => s
  | some ts => (s.imageTablesUsed ts).foldl State.loadLive s

/-- IMAGE_CHECK_READ_DONE (R195): a bad image is recorded and ends the load; with a good one the second read begins, whose
first work, the settings records, is done in this step (DESIGN CHOICE, assumption log 36). -/
def execImageCheckReadDone (s : State) : Host.Outcome State Fault Refusal :=
  match s.loader.op with
  | some (.startup .check) =>
    if imageGood s.flash then
      .next (s.setLoader { s.loader with op := some (.startup .apply), image := .good }).applySettings
    else .next ((s.endStartup .bad).recordFault imageCheckFault)
  | _ => .next s

/-- STARTUP_LOAD_DONE (R195): the tables created and the start-up load ended. -/
def execStartupLoadDone (s : State) : Host.Outcome State Fault Refusal :=
  match s.loader.op with
  | some (.startup .apply) =>
    let t := s.applyTables
    .next (t.setLoader { t.loader with op := none })
  | _ => .next s

/-! ### STORE (R197 to R199) -/

/-- The keys of an arrangement in image order: for each channel MESH, BLEND sets 0 to 3 and TONE, then the LOSSMAP
(R197). -/
def imageKeys (arr : Arrangement) : List Key :=
  ((channels.filter arr.hasChannel).flatMap fun k =>
    [Key.mesh k, .blend k 0, .blend k 1, .blend k 2, .blend k 3, .tone k]) ++ [.lossmap]

/-- The records of the tables to store: every LIVE instance without a drop mark, in image order (R197). -/
def State.tablesToStore (s : State) : List Nat :=
  (imageKeys s.straps.arrangement).filterMap fun key =>
    match findTable s.tables.directory key .live with
    | some (n, r) => if r.dropMark then none else some n
    | none => none

/-- STORE (R197): BUSY while the loader has an operation; else the settings copied, the tables taken, and phase 1
begun with the image state BAD. -/
def State.storeCommand (c : Cell) (s : State) : Answer :=
  if c.payload.length ≠ 0 then .refuse s .badArgument
  else if s.loader.op.isSome || s.loader.due.isSome then .refuse s .busy
  else
    { state := s.setLoader { s.loader with op := some (.store c.link c.tag .p1 s.settings s.tablesToStore), image := .bad },
      status := .accepted }

def execStore (s : State) : Host.Outcome State Fault Refusal := .next (s.serve (fun c => c.carries .store) State.storeCommand)

/-- The settings records of a STORE: each setting in the order of its identifier, one with a value per channel once for
each channel (R171, R197; assumption log 7). -/
def storeSettings (st : Settings) : List Bytes :=
  settingIds.flatMap fun id =>
    if id.perChannel then channels.map fun (k : Channel) => oneByte id.code ++ oneByte k ++ toLe 8 (st.value id k)
    else [oneByte id.code ++ [0] ++ toLe 8 (st.value id 0)]

/-- The instances of records that are in the directory. -/
def recordsIn (dir : Assoc TableRecord) (ns : List Nat) : List TableRecord := ns.filterMap (Assoc.find dir)

/-- Bytes of an instance's data in the image. -/
def TableRecord.dataBytes (r : TableRecord) : Nat := r.entryCount * r.key.entryBytes

/-- A directory record of the image, with the offset of its data (R171); bytes that are ignored are 0 (log 7). -/
def TableRecord.imageRecord (r : TableRecord) (off : Nat) : Bytes :=
  let d := r.dims.getD ⟨0, 0, 0⟩
  let set := match r.key with
    | .blend _ m => m.val
    | _ => 0
  [r.key.kindCode] ++ oneByte (match r.key.channel with
    | some k => k.val
    | none => 0) ++ oneByte set ++ oneByte d.spacing ++ toLe 2 d.cols ++ toLe 2 d.rows ++ toLe 4 off ++ toLe 4 r.dataBytes

/-- The directory records, the first table's data at body offset `off`. -/
def imageRecords : Nat → List TableRecord → List Bytes
  | _, [] => []
  | off, r :: rest => r.imageRecord off :: imageRecords (off + r.dataBytes) rest

/-- The data of a table as it is programmed: an entry whose parity fails as its default (R198). -/
def TableRecord.imageData (r : TableRecord) : Bytes := (List.range r.entryCount).flatMap fun i => (r.read i).bytes

/-- One flash operation of a STORE: a sector erased, or bytes programmed, with the table they are read from. -/
inductive FlashJob where
  | erase (sector : Nat)
  | program (address : Nat) (bytes : Bytes) (source : Option TableRecord)
deriving DecidableEq, Repr

/-- Elementary operations of a job: one for an erase, one for each byte programmed. -/
def FlashJob.units : FlashJob → Nat
  | .erase _ => 1
  | .program _ bytes _ => bytes.length

/-- The flash after the first `n` units of a job. -/
def FlashJob.run (m : Assoc Byte) (n : Nat) : FlashJob → Assoc Byte
  | .erase sector => if n = 0 then m else Memory.eraseRange m (sector * Config.sectorBytes) Config.sectorBytes
  | .program a bytes _ => Memory.writeBytes m a (bytes.take n)

/-- The POOL_PARITY records of the entries read for the first `n` units of a job (R198). -/
def FlashJob.faults (n : Nat) : FlashJob → List FaultRecord
  | .program _ _ (some r) =>
    r.parityFaults none ((List.range r.entryCount).filter fun i => decide (i * r.key.entryBytes < n))
  | _ => []

/-- The flash after the first `n` units of a list of jobs. -/
def runJobs : List FlashJob → Nat → Assoc Byte → Assoc Byte
  | [], _, m => m
  | j :: rest, n, m => runJobs rest (n - j.units) (j.run m (min n j.units))

/-- The faults found in the first `n` units of a list of jobs. -/
def jobFaults : List FlashJob → Nat → List FaultRecord
  | [], _ => []
  | j :: rest, n => j.faults (min n j.units) ++ jobFaults rest (n - j.units)

/-- All the units of a list of jobs. -/
def jobUnits (js : List FlashJob) : Nat := (js.map FlashJob.units).foldl (· + ·) 0

/-- The settings and directory records of the image body. -/
def imageHead (st : Settings) (rs : List TableRecord) : Bytes :=
  (storeSettings st).flatten ++ (imageRecords (10 * (storeSettings st).length + 16 * rs.length) rs).flatten

/-- The length of the image body. -/
def imageLength (st : Settings) (rs : List TableRecord) : Nat :=
  (imageHead st rs).length + (rs.map TableRecord.dataBytes).foldl (· + ·) 0

/-- The programming of the table data, the first table at address `a`. -/
def tableJobs : Nat → List TableRecord → List FlashJob
  | _, [] => []
  | a, r :: rest => .program a r.imageData (some r) :: tableJobs (a + r.dataBytes) rest

/-- The flash operations of a phase (R197): phase 1 erases the header sector and programs the magic; phase 2 erases the
other sectors of the image; phase 3 programs the body; phase 4 programs the rest of the header, the CRC-32 taken over
the body as programmed. -/
def phaseJobs (phase : StorePhase) (st : Settings) (rs : List TableRecord) (m : Assoc Byte) : List FlashJob :=
  let len := imageLength st rs
  let head := imageHead st rs
  match phase with
  | .p1 => [.erase 0, .program 0 magicBytes none]
  | .p2 => (List.range' 1 ((headerBytes + len - 1) / Config.sectorBytes)).map FlashJob.erase
  | .p3 => .program headerBytes head none :: tableJobs (headerBytes + head.length) rs
  | .p4 =>
    let crc := (crc32 (Memory.readBytes m headerBytes len)).toNat
    [.program 4 (toLe 4 len ++ toLe 4 crc ++ oneByte (storeSettings st).length ++ oneByte rs.length) none]

/-- The flash operations of the STORE phase in progress; none where no STORE runs. -/
def State.storeJobs (s : State) : List FlashJob :=
  match s.loader.op with
  | some (.store _ _ phase st ns) => phaseJobs phase st (recordsIn s.tables.directory ns) s.flash
  | _ => []

/-- The first `n` units of the STORE phase in progress carried out. -/
def State.runStore (s : State) (n : Nat) : State :=
  let jobs := s.storeJobs
  ({ s with flash := runJobs jobs n s.flash } : State).recordFaults (jobFaults jobs n)

/-- The phase after a phase. -/
def StorePhase.after : StorePhase → Option StorePhase
  | .p1 => some .p2
  | .p2 => some .p3
  | .p3 => some .p4
  | .p4 => none

/-- STORE_PHASE_DONE (R197): the phase's work is done, and the next begins or the STORE ends with the image GOOD and
COMPLETE OK due. -/
def execStorePhaseDone (us : List Upset) (s : State) : Host.Outcome State Fault Refusal :=
  let s := s.upsets us
  match s.loader.op with
  | some (.store link tag phase st ns) =>
    let t := s.runStore (jobUnits s.storeJobs)
    match phase.after with
    | some p => .next (t.setLoader { t.loader with op := some (.store link tag p st ns) })
    | none => .next (t.setLoader ⟨none, s.dueCompletion link tag .ok, .good⟩)
  | _ => .next s

/-- FLASH_WRITE_FAILED (R198): the flash reports a failed erase or program after `done` operations of the phase; the
STORE ends with the image BAD and COMPLETE FAILED due. -/
def execFlashWriteFailed (done : Nat) (s : State) : Host.Outcome State Fault Refusal :=
  match s.loader.op with
  | some (.store link tag _ _ _) =>
    let t := (s.runStore done).recordFault flashWriteFault
    .next (t.setLoader ⟨none, s.dueCompletion link tag .failed, .bad⟩)
  | _ => .next s

/-! ### LOAD (R200) -/

/-- The staged instances of a LOAD created in image order, each run counting the ones before it; none where a record or
a run is wanting. The second value lists the records with the offsets of their data. -/
def allocateLoad (arr : Arrangement) : Assoc TableRecord → List ImageTable → Option (Assoc TableRecord × List (Nat × Nat))
  | dir, [] => some (dir, [])
  | dir, t :: rest =>
    match createTable arr dir t.key t.dims .filling with
    | none => none
    | some (n, dir') => (allocateLoad arr dir' rest).map fun r => (r.1, (n, t.offset) :: r.2)

/-- LOAD (R200), its checks in order. -/
def State.loadCommand (c : Cell) (s : State) : Answer :=
  if c.payload.length ≠ 0 then .refuse s .badArgument
  else if s.loader.op.isSome || s.loader.due.isSome then .refuse s .busy
  else if s.loader.image = .none then .refuse s .noTable
  else if s.loader.image = .bad then .refuse (s.recordFault imageCheckFault) .noTable
  else match imageTables s.flash with
    | none => .refuse ((s.setLoader { s.loader with image := .bad }).recordFault imageCheckFault) .noTable
    | some all =>
      let ts := s.imageTablesUsed all
      if ts.any fun t => (findTable s.tables.directory t.key .staged).isSome then .refuse s .state
      else match allocateLoad s.straps.arrangement s.tables.directory ts with
        | none => .refuse s .noSpace
        | some (dir, loads) =>
          { state := (s.setDirectory dir).setLoader { s.loader with op := some (.load c.link c.tag loads) },
            status := .accepted }

def execLoad (s : State) : Host.Outcome State Fault Refusal := .next (s.serve (fun c => c.carries .load) State.loadCommand)

/-- The instances of a LOAD written from the body and SEALED (R200). -/
def sealLoaded (m : Assoc Byte) (dir : Assoc TableRecord) (loads : List (Nat × Nat)) : Assoc TableRecord :=
  loads.foldl (fun d e => Assoc.modify d e.1 fun r => { r.writeImage m e.2 with state := .sealed }) dir

/-- The instances of a LOAD removed (R200). -/
def dropLoaded (dir : Assoc TableRecord) (loads : List (Nat × Nat)) : Assoc TableRecord :=
  loads.foldl (fun d e => Assoc.erase d e.1) dir

/-- LOAD_READ_DONE (R200): with a correct CRC the instances become SEALED and COMPLETE OK is due; with a wrong one they
are removed, IMAGE_CHECK is recorded and COMPLETE FAILED is due. -/
def execLoadReadDone (s : State) : Host.Outcome State Fault Refusal :=
  match s.loader.op with
  | some (.load link tag loads) =>
    if crcCorrect s.flash then
      .next ((s.setDirectory (sealLoaded s.flash s.tables.directory loads)).setLoader
        ⟨none, s.dueCompletion link tag .ok, s.loader.image⟩)
    else
      .next (((s.setDirectory (dropLoaded s.tables.directory loads)).setLoader
        ⟨none, s.dueCompletion link tag .failed, .bad⟩).recordFault imageCheckFault)
  | _ => .next s

/-! ### Completions (R155) -/

/-- A completion that waits taken into its link's reply queue, or discarded; where there is no room it waits. The second
value says that its record is free. -/
def State.enqueueCompletion (s : State) (c : Completion) : State × Bool :=
  if (s.inputs.get c.link).link = .down then (s, true)
  else if (s.lanes.get c.link).hasRoom then
    (s.setLane c.link ((s.lanes.get c.link).place (.completion c.tag c.status)), true)
  else (s, false)

/-- COMPLETION_ENQUEUE (R155): the completion named enters its reply queue. -/
def execCompletionEnqueue (op : OpRecord) (s : State) : Host.Outcome State Fault Refusal :=
  match op with
  | .fill n =>
    match s.tables.fillDue[n]? with
    | none => .next s
    | some c =>
      let (t, freed) := s.enqueueCompletion c
      .next (if freed then t.setTables { t.tables with fillDue := t.tables.fillDue.eraseIdx n } else t)
  | .image =>
    match s.loader.due with
    | none => .next s
    | some c =>
      let (t, freed) := s.enqueueCompletion c
      .next (if freed then t.setLoader { t.loader with due := none } else t)

end Sys2Proof.Machine
end

