-- ==== Sys2Proof/Machine/Inputs.lean ====
section
/-! DEFINITION. The meanings of the input ports' commands: link states (R73, R84, R157), the records of the forward lane
(R74 to R83, R153) and the reverse lane (R156, R185). -/

namespace Sys2Proof.Machine

/-! ### Link states (R73) -/

/-- The port with a link state. -/
def State.setLink (s : State) (k : Channel) (l : LinkState) : State := s.setInput k { s.inputs.get k with link := l }

/-- INPUT_CARRIER_DETECTED (R73): a DOWN port goes to TRAINING. -/
def execInputCarrierDetected (k : Channel) (s : State) : Host.Outcome State Fault Refusal :=
  match (s.inputs.get k).link with
  | .down => .next (s.setLink k .training)
  | .training => .next s
  | .locked => .next s

/-- INPUT_TRAINING_DONE (R73): a port in TRAINING goes to LOCKED. -/
def execInputTrainingDone (k : Channel) (s : State) : Host.Outcome State Fault Refusal :=
  match (s.inputs.get k).link with
  | .training => .next (s.setLink k .locked)
  | .down => .next s
  | .locked => .next s

/-! ### Loss of a link (R84, R157) -/

/-- The image loader's completion that waits, unless it is one of the link. -/
def dropWaiting (k : Channel) (c : Option Completion) : Option Completion := c.filter fun c => c.link != k

/-- The management engine at the loss of link `k` (R156, R157, R164): the reply queue emptied and the message being sent
lost, the link's cells marked for discard, its waiting completions discarded, and a RESET FULL that waited for its
reply answered. -/
def State.loseReplies (s : State) (k : Channel) : State :=
  { s with
    lanes := s.lanes.set k { s.lanes.get k with replies := [], sending := none }
    cells := s.cells.map fun c => if c.link = k then { c with discard := true } else c
    tables := { s.tables with fillDue := s.tables.fillDue.filter fun c => c.link != k }
    loader := { s.loader with due := dropWaiting k s.loader.due }
    resetWait := s.resetWait.map fun w => if w.link = k then { w with answered := true } else w }

/-- What a record or a loss leaves, taken into the state: port, ring and the channel's conditions raised. -/
def State.take (s : State) (k : Channel) (r : Received) : State :=
  ((s.setInput k r.port).setRing k r.ring).raiseAll (r.raised.map fun i => Cond.ofChannel k i)

/-- The loss of link `k`: the frame in progress abandoned with LINK_LOST, and the engine's side of the link. -/
def State.loseLink (s : State) (k : Channel) : State :=
  let cut := abandonFrame (s.inputs.get k) (s.rings.get k) .linkLost
  (((s.take k { cut with port := { cut.port with link := .down } }).loseReplies k)).levelNotices s

/-- INPUT_LINK_LOST (R73, R84, R157): loss of carrier or lock takes a port in TRAINING or LOCKED to DOWN. -/
def execInputLinkLost (k : Channel) (s : State) : Host.Outcome State Fault Refusal :=
  match (s.inputs.get k).link with
  | .down => .next s
  | .training => .next (s.loseLink k)
  | .locked => .next (s.loseLink k)

/-! ### Records (R74 to R83) -/

/-- Whether a port takes frame records: it is LOCKED and its channel exists (R74). -/
def State.takesFrames (s : State) (k : Channel) : Bool := s.hasChannel k && (s.inputs.get k).link == .locked

/-- FRAME_OPEN (R78, R79); a record that is not a complete FRAME-OPEN is discarded (R74). -/
def execFrameOpen (k : Channel) (record : Bytes) (s : State) : Host.Outcome State Fault Refusal :=
  match s.takesFrames k, parseFrameOpen record with
  | true, some r =>
    .next ((s.take k (receiveOpen s.straps.arrangement (s.inputs.get k) (s.rings.get k) r s.freeValue)).useFree 1)
  | _, _ => .next s

/-- LINE (R80). -/
def execLine (k : Channel) (record : Bytes) (s : State) : Host.Outcome State Fault Refusal :=
  match s.takesFrames k, parseLine record with
  | true, some r => .next (s.setRing k (receiveLine (s.inputs.get k) (s.rings.get k) r))
  | _, _ => .next s

/-- FRAME_CLOSE (R81 to R83). -/
def execFrameClose (k : Channel) (record : Bytes) (s : State) : Host.Outcome State Fault Refusal :=
  match s.takesFrames k, parseFrameClose record with
  | true, some f => .next (s.take k (receiveClose s.settings.damageLimit (s.inputs.get k) (s.rings.get k) f))
  | _, _ => .next s

/-- RECORD_UNKNOWN (R74): discarded, with no effect on the frame in progress and nothing raised. -/
def execRecordUnknown (_ : Channel) (_ : Bytes) (s : State) : Host.Outcome State Fault Refusal := .next s

/-! ### Cells (R153) -/

/-- A cell at a LOCKED port: it joins the cell queue, or is discarded with CELL_DROP where its form or check is not
good or the queue holds 32 cells. -/
def State.takeCell (s : State) (k : Channel) (record : Bytes) : State :=
  match parseCell record with
  | none => s.raise Cond.cellDrop
  | some r =>
    if s.cells.length < Config.cellQueueDepth then
      { s with cells := s.cells ++ [⟨k, r.tag, r.command, r.payload, false⟩] }
    else s.raise Cond.cellDrop

/-- CELL (R153). A record of another kind is none of this row's. -/
def execCell (k : Channel) (record : Bytes) (s : State) : Host.Outcome State Fault Refusal :=
  if isCellRecord record && (s.inputs.get k).link == .locked then .next (s.takeCell k record) else .next s

/-! ### The reverse lane (R156, R185) -/

/-- The lane's next message chosen and its sending begun: on the notice link the notice with the lowest number, else the
oldest entry of the reply queue. -/
def State.beginSending (s : State) (k : Channel) : State :=
  let l := s.lanes.get k
  match s.settings.noticeLink == k, s.notices, l.replies with
  | true, n :: rest, _ => ({ s with notices := rest } : State).setLane k { l with sending := some ⟨n.message, false⟩ }
  | _, _, e :: rest => s.setLane k { l with replies := rest, sending := some ⟨e.message, e.isReset⟩ }
  | _, _, [] => s

/-- REVERSE_LANE_SEND (R156): a free lane of a LOCKED port begins its next message. -/
def execReverseLaneSend (k : Channel) (s : State) : Host.Outcome State Fault Refusal :=
  if (s.inputs.get k).link == .locked && (s.lanes.get k).sending.isNone then .next (s.beginSending k) else .next s

/-- The wait of a RESET FULL, ended where the message sent was its reply (R164). -/
def ResetWait.afterSending (w : ResetWait) (m : Sending) : ResetWait := if m.resets then { w with answered := true } else w

/-- REVERSE_SEND_END (R156, R164): the message has been sent and the lane is free. -/
def execReverseSendEnd (k : Channel) (s : State) : Host.Outcome State Fault Refusal :=
  let l := s.lanes.get k
  match l.sending with
  | none => .next s
  | some m =>
    .next (({ s with resetWait := s.resetWait.map fun w => w.afterSending m } : State).setLane k
      { l with sending := none, sent := l.sent ++ [m.message] })

end Sys2Proof.Machine
end

