-- ==== Sys2Proof/Machine/Outputs.lean ====
section
/-! DEFINITION. The meanings of the output ports' commands: STATUS_REPORT, REVERSE_CARRIER_LOST, REPORT_TIMEOUT,
SETTLE_EXPIRY, RELOCK_EXPIRY (R128 to R132). In arrangement C, OUT1 and OUT3 are not watched (R137). -/

namespace Sys2Proof.Machine

/-- STATUS_REPORT (R128): the projector's report with its lock indication. -/
def execStatusReport (k : Channel) (locked : Bool) (s : State) : Host.Outcome State Fault Refusal :=
  if s.hasOutput k then .next (s.movePort k ((s.outputs.get k).report locked s.settings s.now)) else .next s

/-- REVERSE_CARRIER_LOST (R128, R132): presence lost. -/
def execReverseCarrierLost (k : Channel) (s : State) : Host.Outcome State Fault Refusal :=
  if s.hasOutput k then .next (s.movePort k (s.outputs.get k).presenceLost) else .next s

/-- REPORT_TIMEOUT (R128, R132): 8 ms after the latest report presence is lost; none is to come before a report. -/
def execReportTimeout (k : Channel) (s : State) : Host.Outcome State Fault Refusal :=
  match s.hasOutput k, (s.outputs.get k).lastReport with
  | true, some t => .next ((s.advanceTo (t + Config.reportTimeoutTicks)).movePort k (s.outputs.get k).presenceLost)
  | _, _ => .next s

/-- SETTLE_EXPIRY (R130): the countdown of a port in SETTLING expires. -/
def execSettleExpiry (k : Channel) (s : State) : Host.Outcome State Fault Refusal :=
  let p := s.outputs.get k
  match p.state, p.expires with
  | .settling, some t => .next ((s.advanceTo t).movePort k (p.settleExpired s.settings (s.advanceTo t).now))
  | _, _ => .next s

/-- RELOCK_EXPIRY (R131): the countdown of a port in RETRAIN expires. -/
def execRelockExpiry (k : Channel) (s : State) : Host.Outcome State Fault Refusal :=
  let p := s.outputs.get k
  match p.state, p.expires with
  | .retrain, some t => .next ((s.advanceTo t).movePort k p.relockExpired)
  | _, _ => .next s

end Sys2Proof.Machine
end

