-- ==== Sys2Proof/Machine/Frame.lean ====
section
/-! DEFINITION. What every block does at a frame start (R4, R22, R33, R34, R111 to R115, R120 to R126, R136, R149) and
at a line deadline (R23, R24, R121, R122, R127). -/

namespace Sys2Proof.Machine

/-! ### The frame parameters and the form of the frame (R33, R34) -/

/-- The LIVE instance of a key as the pipeline takes it at a frame start; none while the start-up load runs (R196). -/
def State.takeTable (s : State) (key : Key) : Option Nat :=
  if s.loader.starting then none else liveRecord s.tables.directory key

/-- The frame parameters that the light unit of a channel takes (R33). -/
def State.takeParams (s : State) (k : Channel) : FrameParameters :=
  let tone := s.takeTable (.tone k)
  let flat := s.settings.flatLevel.get k
  { mode := s.modes.get k, tone := tone, blend := s.takeTable (.blend k (s.loss.selected.get k)),
    matrix := matrixOf (s.record tone), dither := s.settings.dither.get k, flatCodes := flat,
    flatSample := if s.modes.get k = .flatBlended then some (flat.map (decode (s.record tone))) else none }

/-- The TONE entries read for the frame parameters (R33): the matrix, and in FLAT_BLENDED mode the decode entry of each
flat code. -/
def State.paramReads (s : State) (k : Channel) : List Nat :=
  matrixReads ++ if s.modes.get k = .flatBlended then decodeReads [s.settings.flatLevel.get k] else []

/-- The form of the frame, the conditions taken in the order of R34. -/
def State.frameForm (s : State) (k : Channel) : FrameForm :=
  if !s.hasChannel k || (s.outputs.get k).state != .active then .noLines
  else if s.tables.unfit.get k then .dark
  else match s.modes.get k with
    | .black => .dark
    | .flat => .flat
    | .flatBlended => .walked
    | .video => if (shownSlot (s.rings.get k).slots).isSome then .walked else .dark

/-- The warp and light units of a channel at a frame start: the purge with the edge mark cleared (R22), the MESH taken
(R4), the parameters taken and the form settled (R33, R34), the walk begun at line 0 of a walked frame (R5, R6), and
what was left of the frame before dropped (R6, R35). -/
def State.channelStart (s : State) (k : Channel) : State :=
  if s.hasChannel k then
    let params := s.takeParams k
    let walks := s.frameForm k == .walked
    let w := s.warps.get k
    let faults := readFaults (s.record params.tone) none (s.paramReads k)
    ((s.setWarp k
        { w with cache := purgeCache (shownSlot (s.rings.get k).slots) w.cache
                 failed := if walks then [] else w.failed
                 edgeMark := false
                 mesh := s.takeTable (.mesh k)
                 walk := if walks then some ⟨0, 0, false, none⟩ else none }).setLight k
      { params := some params, form := s.frameForm k, held := [], buffers := [], handed := none }).recordFaults faults
  else s

/-! ### The frame start -/

/-- The output modes in force after a frame start (R136). -/
def State.takeModes (s : State) : State :=
  { s with modes := Quad.of fun k => if s.hasChannel k then s.settings.outputMode.get k else s.modes.get k }

/-- An item sent on a forward lane, where the port drives it (R127). -/
def State.sendItem (s : State) (k : Channel) (x : LaneItem) : State :=
  let p := s.outputs.get k
  if p.state.drives then s.setOutput k { p with lane := p.lane ++ [x] } else s

/-- The new frame begun: the timer, the frame-start mark on every lane driven (R127) and, on a master, the pulse on
SYNC_IO (R113). -/
def State.beginFrame (s : State) (own : Bool) : State :=
  let s : State :=
    { s with timer := s.timer.begin s.now s.settings.musterOffset own
             syncPulses := if s.straps.role = .master then s.syncPulses + 1 else s.syncPulses }
  channels.foldl (fun s k => s.sendItem k .frameStart) s

/-- The coherence outcome applied and carried out on the slots (R88 to R91, R105, R111, R112): the outcome and the
RING_FORMAT record of the examination come from the unit as the frame start found it. -/
def State.showFrame (s : State) : State :=
  let applied := s.setCoh s.cohAtFrameStart
  ((applied.decideSlots s.coh.outcome).recordShown.recordFaults s.ringLostFault).raiseAll
    (applied.decisionRaises s.coh.outcome)

/-- A frame start of the part. Coherence and the slots come first, then the table changes (R68), the raster change
(R126), the output modes (R136), the loss selector (R149) on the port states as the frame start found them, the fit
test (R72), the warp and light units, and the new frame of the timer. -/
def State.frameStart (s : State) (own : Bool) : State :=
  let up := Quad.of fun k => (s.outputs.get k).state.up
  let t := ((s.showFrame.tablesAtFrameStart.rasterChange.takeModes).lossAtFrameStart up s.coh.handedVector).fitTest
  (channels.foldl State.channelStart t).beginFrame own

/-- The own-start count of a follower after a pulse or an own start, with SYNC_LOST (R114, R115). -/
def Coherence.countStart (c : Coherence) (own : Bool) : Coherence :=
  if own then
    let n := min (c.ownStarts + 1) 255
    { c with ownStarts := n, syncLost := c.syncLost || decide (2 ≤ n) }
  else { c with ownStarts := 0, syncLost := false }

/-- A frame start of a master or solo part; level conditions that become true queue their notices (R123, R183). -/
def State.ownerFrame (s : State) : State := (s.frameStart false).levelNotices s

/-- A frame start of a follower: the count first, then the frame start as every block takes it (R114, R183). -/
def State.followerFrame (s : State) (own : Bool) : State := ((s.setCoh (s.coh.countStart own)).frameStart own).levelNotices s

/-! ### A line deadline -/

/-- The code written for column `u` of line `v`, if one has been (R35). -/
def LightUnit.written (l : LightUnit) (v u : Nat) : Option Pixel :=
  (l.buffers.find? fun b => b.line == v).bind fun b => (b.written.find? fun e => e.1 == u).map (·.2)

/-- Whether every pixel of line `v` has been computed (R5). -/
def LightUnit.lineComputed (l : LightUnit) (width v : Nat) : Bool := (List.range width).all fun u => (l.written v u).isSome

/-- The substitute for column `u` of line `v`: the code handed there on line v − 1, and 0 on line 0 (R23). -/
def LightUnit.substitute (l : LightUnit) (v u : Nat) : Pixel :=
  match l.handed with
  | some h => if h.line + 1 = v then h.codes.getD u Pixel.zero else Pixel.zero
  | none => Pixel.zero

/-- A line of one code. -/
def solidLine (width : Nat) (c : Pixel) : List Pixel := List.replicate width c

/-- Line `v` as it is handed to the output port, and whether a pixel took a substitute; none where no line is handed
(R23, R26, R34). -/
def LightUnit.lineFor (l : LightUnit) (width v : Nat) : Option (List Pixel × Bool) :=
  match l.form with
  | .noLines => none
  | .dark => some (solidLine width Pixel.zero, false)
  | .zeroed => some (solidLine width Pixel.zero, false)
  | .flat => some (solidLine width (match l.params with
    | some p => p.flatCodes
    | none => Pixel.zero), false)
  | .walked => some ((List.range width).map fun u => (l.written v u).getD (l.substitute v u), !l.lineComputed width v)

/-- The light unit after line `v` has been handed. -/
def LightUnit.afterLine (l : LightUnit) (v : Nat) (codes : List Pixel) : LightUnit :=
  { l with handed := some ⟨v, codes⟩, buffers := l.buffers.filter fun b => decide (v < b.line) }

/-- The walk after the deadline of line `v`: a line not above `v` is ended (R24). -/
def Walk.afterDeadline (w : Walk) (v : Nat) : Walk :=
  if w.line ≤ v then { w with line := v, ended := true, waiting := none } else w

/-- What the forward lane carries at the deadline of line `v` (R127): the line handed on an ACTIVE port, code 0 where no
line is handed or the port is not ACTIVE. -/
def State.laneLine (s : State) (k : Channel) (v : Nat) : LaneItem :=
  match (s.outputs.get k).state, (s.lights.get k).lineFor s.timer.width v with
  | .active, some (codes, _) => .line v codes
  | _, _ => .line v (solidLine s.timer.width Pixel.zero)

/-- The deadline of line `v` on one channel (R23, R24, R127). -/
def State.channelDeadline (s : State) (v : Nat) (k : Channel) : State :=
  let sent := s.sendItem k (s.laneLine k v)
  let w := sent.warps.get k
  let ended := sent.setWarp k { w with walk := w.walk.map fun x => x.afterDeadline v }
  match (s.lights.get k).lineFor s.timer.width v with
  | none => ended
  | some (codes, late) =>
    let s := ended.setLight k ((ended.lights.get k).afterLine v codes)
    if late then s.raise (Cond.sourceLate k) else s

/-- The timer after the deadline of line `v` (R121). -/
def RasterTimer.afterDeadline (t : RasterTimer) (v : Nat) : RasterTimer :=
  { t with phase := if v + 1 < t.height then .activeLines (v + 1) else .blanking }

/-- The muster point, raised at the muster line's deadline while muster done is clear (R122). -/
def State.musterAt (s : State) (v : Nat) : State :=
  if v = s.timer.musterLine && !s.timer.musterDone then
    { s with timer := { s.timer with musterDone := true } }.musterPoint
  else s

/-- The deadline of line `v` on the whole part: every channel's line, the timer, the muster point where it falls there,
and the frame end after the last line (R121, R122). -/
def State.deadlineOf (s : State) (v : Nat) : State :=
  let s := s.advanceTo (s.timer.start + s.timer.deadline v)
  let s := channels.foldl (fun s k => s.channelDeadline v k) s
  let s : State := { s with timer := s.timer.afterDeadline v }
  let s := s.musterAt v
  if s.timer.phase = .blanking then s.frameEndRound else s

end Sys2Proof.Machine
end

