-- ==== Sys2Proof/Machine/Raster.lean ====
section
/-! DEFINITION. The meanings of the raster timer's commands: FRAME_START, SYNC_PULSE, OWN_START, LINE_DEADLINE. -/

namespace Sys2Proof.Machine

/-- FRAME_START (R123): the raster timer of a master or a solo part makes a frame start, at once after a reset and a
frame period after the one before; a follower's timer makes none of itself. -/
def execFrameStart (us : List Upset) (s : State) : Host.Outcome State Fault Refusal :=
  let s := s.upsets us
  match s.straps.role with
  | .follower => .next s
  | .master => .next ((s.advanceTo s.timer.nextStart).ownerFrame)
  | .solo => .next ((s.advanceTo s.timer.nextStart).ownerFrame)

/-- SYNC_PULSE (R114, R124): a pulse on SYNC_IO is a frame start of a follower, taken at once; a master and a solo part
do not read SYNC_IO (R113). -/
def execSyncPulse (us : List Upset) (s : State) : Host.Outcome State Fault Refusal :=
  let s := s.upsets us
  match s.straps.role with
  | .follower => .next (s.followerFrame false)
  | .master => .next s
  | .solo => .next s

/-- OWN_START (R114, R115): a follower makes a frame start of its own and counts it. -/
def execOwnStart (us : List Upset) (s : State) : Host.Outcome State Fault Refusal :=
  let s := s.upsets us
  match s.straps.role with
  | .follower => .next ((s.advanceTo s.timer.ownStartDue).followerFrame true)
  | .master => .next s
  | .solo => .next s

/-- LINE_DEADLINE (R121): the deadline of the next line of the frame; none is to come in BLANKING. -/
def execLineDeadline (s : State) : Host.Outcome State Fault Refusal :=
  match s.timer.phase with
  | .activeLines v => .next (s.deadlineOf v)
  | .blanking => .next s

end Sys2Proof.Machine
end

