-- ==== Sys2Proof/Machine/Resets.lean ====
section
/-! DEFINITION. The straps (R192) and the resets: the pin reset (R192), the FULL reset (R164) and the PIPELINE reset
(R165). -/

namespace Sys2Proof.Machine

/-! ### Straps (R192) -/

/-- The arrangement taken, and whether it was corrected (R192, step 1). -/
def arrangementTaken (v : BitVec 2) : Arrangement × Bool :=
  match v with
  | 0 => (.a, false)
  | 1 => (.b, false)
  | 2 => (.c, false)
  | 3 => (.a, true)

/-- The role sampled, and whether it was corrected (R192, step 2). -/
def roleTaken (v : BitVec 2) : Role × Bool :=
  match v with
  | 0 => (.solo, false)
  | 1 => (.master, false)
  | 2 => (.follower, false)
  | 3 => (.solo, true)

/-- The role and position taken, and whether step 3 corrected them (R192). -/
def positionTaken (role : Role) (pos : BitVec 3) : Role × BitVec 3 × Bool :=
  match role with
  | .solo => (.solo, pos, false)
  | .master => (.master, 0, pos != 0)
  | .follower => if pos = 0 then (.solo, pos, true) else (.follower, pos, false)

/-- The strap record of the values sampled (R192). -/
def takeStraps (arr role : BitVec 2) (pos : BitVec 3) : StrapRecord :=
  let a := arrangementTaken arr
  let r := roleTaken role
  let p := positionTaken r.1 pos
  ⟨arr, role, pos, a.1, p.1, p.2.1, a.2 || r.2 || p.2.2⟩

/-! ### The pin and FULL resets -/

/-- Every block at its pin-reset value with the start-up load begun (R49, R53, R57, R73, R76, R77, R85, R86, R96, R120,
R135, R136, R151, R153, R155, R160, R190, R193, R195). The flash outlives a reset; the model's clock, its free value,
its numbers of DRAM reads and its records of what the part has sent go on. -/
def State.resetValues (s : State) (straps : StrapRecord) (faults : List FaultRecord) (overflow : Bool) : State :=
  { State.reset with
    pending := s.pending
    now := s.now
    free := s.free
    straps := straps
    timer := .reset s.now
    warps := Quad.of fun k => .reset (s.warps.get k).nextOrder
    outputs := Quad.of fun k => .reset (s.outputs.get k).lane
    lanes := Quad.of fun k => .reset (s.lanes.get k).sent
    faults := faults
    overflow := overflow
    flash := s.flash
    ringOut := s.ringOut
    syncPulses := s.syncPulses }

/-- The first frame start, which the timer of a master or solo part makes at the release of a pin reset and at the end
of a FULL reset (R123). -/
def State.firstFrame (s : State) : State :=
  match s.straps.role with
  | .follower => s
  | .master => s.ownerFrame
  | .solo => s.ownerFrame

/-- PIN_RESET (R192): the release of RESET_N. `done` counts the flash operations that an interrupted STORE phase had
completed (R199). -/
def execPinReset (arr role : BitVec 2) (pos : BitVec 3) (done : Nat) (s : State) : Host.Outcome State Fault Refusal :=
  .next (((s.runStore done).resetValues (takeStraps arr role pos) [] false).firstFrame)

/-- RESET FULL: any other payload than that of a PIPELINE reset is checked here, and one that names no scope is answered
by either row. -/
def State.resetFullCommand (c : Cell) (s : State) : Answer :=
  if c.payload.length ≠ 1 || byteAt c.payload 0 != 0 then .refuse s .badArgument
  else { state := { s with resetWait := some ⟨c.link, c.discard⟩ }, status := .ok, resets := true }

/-- RESET_FULL (R164): the OK reply placed; the engine serves no further cell and waits for the reply to be sent. With
the discard mark the reply is discarded and the reset takes effect at once. -/
def execResetFull (s : State) : Host.Outcome State Fault Refusal :=
  .next (s.serve (fun c => c.carries .reset && c.payload != [1]) State.resetFullCommand)

/-- RESET_FULL_EFFECT (R164): once the reply has been sent or discarded, every block takes the values of a FULL reset;
the strap record and the fault log are kept. -/
def execResetFullEffect (done : Nat) (s : State) : Host.Outcome State Fault Refusal :=
  match s.resetWait with
  | some w =>
    if w.answered then
      let t := s.runStore done
      .next ((t.resetValues t.straps t.faults t.overflow).firstFrame)
    else .next s
  | none => .next s

/-! ### The PIPELINE reset (R165) -/

/-- The light unit of a channel at a PIPELINE reset (R48): in a walked frame the pixels held are dropped and every line
not yet handed is handed with code 0. -/
def LightUnit.pipelineReset (l : LightUnit) : LightUnit :=
  if l.form = .walked then { l with form := .zeroed, held := [], buffers := [] } else { l with held := [] }

/-- The warp unit at a PIPELINE reset (R26): the cache, the failed-tile set and the edge mark at their reset values and
the walk abandoned. -/
def WarpUnit.pipelineReset (w : WarpUnit) : WarpUnit := { w with cache := [], failed := [], edgeMark := false, walk := none }

/-- The directory with every locked mark clear (R69). -/
def unlockAll (dir : Assoc TableRecord) : Assoc TableRecord := dir.map fun e => (e.1, { e.2 with locked := false })

/-- The PIPELINE reset (R26, R48, R69, R72, R93, R119, R165). -/
def State.pipelineReset (s : State) : State :=
  let t := s.clearSlots
  ({ t with
      coh := .reset
      warps := Quad.of fun k => (t.warps.get k).pipelineReset
      lights := Quad.of fun k => (t.lights.get k).pipelineReset
      tables := { t.tables with directory := unlockAll t.tables.directory, swap := none } } : State).fitTest.levelNotices s

/-- RESET PIPELINE (R165); a cell that names no scope is answered by either row. -/
def State.resetPipelineCommand (c : Cell) (s : State) : Answer :=
  if c.payload.length ≠ 1 || byteAt c.payload 0 != 1 then .refuse s .badArgument
  else { state := s.pipelineReset, status := .ok }

/-- RESET_PIPELINE (R165). -/
def execResetPipeline (s : State) : Host.Outcome State Fault Refusal :=
  .next (s.serve (fun c => c.carries .reset && c.payload != [0]) State.resetPipelineCommand)

end Sys2Proof.Machine
end

