-- ==== Sys2Proof/Machine/Ring.lean ====
section
/-! DEFINITION. The meanings of the Sky Ring's commands: MUSTER_HANDLE and SHOW_HANDLE on a follower, MUSTER_RETURN and
SHOW_RETURN on a master. A token that is not good is discarded (R95, R166), and so is every token on a solo part. -/

namespace Sys2Proof.Machine

/-- MUSTER_HANDLE (R106). -/
def execMusterHandle (token : Bytes) (s : State) : Host.Outcome State Fault Refusal :=
  match s.straps.role, parseMuster token with
  | .follower, some t => .next (s.musterHandled t)
  | _, _ => .next s

/-- MUSTER_RETURN (R102, R103, R105). -/
def execMusterReturn (token : Bytes) (s : State) : Host.Outcome State Fault Refusal :=
  match s.straps.role, parseMuster token with
  | .master, some t => .next (s.musterReturned t)
  | _, _ => .next s

/-- SHOW_HANDLE (R107, R109). -/
def execShowHandle (token : Bytes) (s : State) : Host.Outcome State Fault Refusal :=
  match s.straps.role, parseShow token with
  | .follower, some t => .next (s.showHandled t token)
  | _, _ => .next s

/-- SHOW_RETURN (R105). -/
def execShowReturn (token : Bytes) (s : State) : Host.Outcome State Fault Refusal :=
  match s.straps.role, parseShow token with
  | .master, some t => .next (s.showReturned t)
  | _, _ => .next s

end Sys2Proof.Machine
end

