-- ==== Sys2Proof/Machine/Warp.lean ====
section
/-! DEFINITION. The meanings of the warp and light units' commands: WARP_LINE_BEGIN, WARP_PIXEL, TILE_FILL_COMPLETE,
TILE_FILL_TIMEOUT, LIGHT_PIXEL_WRITE. -/

namespace Sys2Proof.Machine

/-! ### Lines (R6) -/

/-- Whether the line the unit is on has ended for it: every pixel computed, or its deadline reached (R6). -/
def State.lineEnded (s : State) (k : Channel) (w : Walk) : Bool :=
  w.ended || s.timer.passed w.line || (s.lights.get k).lineComputed s.timer.width w.line

/-- Whether the unit may begin the line after the one it is on: that line has ended, and for line v ≥ 4 the deadline of
line v − 4 has passed (R6). -/
def State.mayBegin (s : State) (k : Channel) (w : Walk) : Bool :=
  decide (w.line + 1 < s.timer.height) && s.lineEnded k w && (decide (w.line + 1 < 4) || s.timer.passed (w.line + 1 - 4))

/-- WARP_LINE_BEGIN (R6, R19): the unit begins the next line and empties its failed-tile set. -/
def execWarpLineBegin (k : Channel) (s : State) : Host.Outcome State Fault Refusal :=
  let w := s.warps.get k
  match w.walk with
  | none => .next s
  | some x =>
    if s.mayBegin k x then .next (s.setWarp k { w with failed := [], walk := some ⟨x.line + 1, 0, false, none⟩ })
    else .next s

/-! ### Pixels (R5 to R12) -/

/-- The unit's work on its walk: the next pixel of the line is computed. A pixel that waits holds it back (R5). -/
def State.warpPixel (s : State) (k : Channel) (walk : Walk) : State :=
  if walk.ended || walk.waiting.isSome then s
  else if walk.col < s.timer.width then
    match s.record (s.warps.get k).mesh, (s.lights.get k).params with
    | some m, some params => s.newPixel k walk m params
    | _, _ => s
  else s

/-- WARP_PIXEL (R5, R7 to R13): the unit takes the pixel it is on as far as its tiles allow. -/
def execWarpPixel (k : Channel) (us : List Upset) (s : State) : Host.Outcome State Fault Refusal :=
  let s := s.upsets us
  match (s.warps.get k).walk with
  | none => .next s
  | some walk => .next (s.warpPixel k walk)

/-! ### Fills (R18, R19) -/

/-- TILE_FILL_COMPLETE (R17, R18): the DRAM read numbered `read` completes; the pixel that waits goes on. A read that no
entry owns is discarded. Storage goes bad once the tile has been stored, so that the data just read can fail too (R20). -/
def execTileFillComplete (k : Channel) (read : Nat) (us : List Upset) (s : State) : Host.Outcome State Fault Refusal :=
  let w := s.warps.get k
  match ownerOf w.cache read with
  | none => .next (s.upsets us)
  | some _ => .next (((s.setWarp k { w with cache := completeRead w.cache (s.rings.get k) read }).upsets us).resumePixel k)

/-- The cache without the entry that owns a read. -/
def dropRead (c : Assoc TileEntry) (read : Nat) : Assoc TileEntry := c.filter fun e => !e.2.owns read

/-- Whether a line is in progress on the walk. -/
def lineInProgress (walk : Option Walk) : Bool :=
  match walk with
  | some x => !x.ended
  | none => false

/-- A fill timed out (R19): its entry INVALID, FILL_TIMEOUT recorded and, unless it was cancelled, its tag in the
failed-tile set of the line in progress. -/
def State.fillTimeout (s : State) (k : Channel) (read : Nat) (t : Tag) (cancelled : Bool) : State :=
  let w := s.warps.get k
  let failed := if !cancelled && lineInProgress w.walk then w.failed ++ [t] else w.failed
  (s.setWarp k { w with cache := dropRead w.cache read, failed := failed }).recordFault
    ⟨.fillTimeout, some k, s.shownFrame k, .tile t.col t.row⟩

/-- TILE_FILL_TIMEOUT (R19): 20 µs after its issue the fill numbered `read` times out; the pixel that waits goes on. -/
def execTileFillTimeout (k : Channel) (read : Nat) (us : List Upset) (s : State) : Host.Outcome State Fault Refusal :=
  let s := s.upsets us
  match ownerOf (s.warps.get k).cache read with
  | some (.filling t _ issued cancelled _) =>
    .next (((s.advanceTo (issued + Config.fillTimeoutTicks)).fillTimeout k read t cancelled).resumePixel k)
  | some (.valid ..) => .next s
  | none => .next s

/-! ### The light unit (R35 to R41) -/

/-- The codes of a pixel the light unit holds (R35). -/
def State.pixelCodes (s : State) (k : Channel) (params : FrameParameters) (p : HeldPixel) : Pixel :=
  match p.as with
  | .black => Pixel.zero
  | .sample l => lightPixel params.matrix (s.blendInUse k) (s.toneInUse k) params.dither p.u p.v l

/-- The parity faults of the BLEND nodes and encode entries that a pixel's codes read (R37, R40, R71). -/
def State.pixelFaults (s : State) (k : Channel) (params : FrameParameters) (p : HeldPixel) : List FaultRecord :=
  match p.as with
  | .black => []
  | .sample l =>
    let blend := s.blendInUse k
    let nodes := match blend with
      | some b => b.cornerReads p.u p.v
      | none => []
    let o := stage5Pixel params.matrix blend p.u p.v l
    readFaults blend (s.shownFrame k) nodes
      ++ readFaults (s.toneInUse k) (s.shownFrame k) (encodeReads o.r ++ encodeReads o.g ++ encodeReads o.b)

/-- The code of column `u` of line `v` written into the line buffer (R5, R35). -/
def writeCode (bs : List LineBuffer) (v u : Nat) (c : Pixel) : List LineBuffer :=
  match bs with
  | [] => [⟨v, [(u, c)]⟩]
  | b :: rest => if b.line = v then { b with written := (u, c) :: b.written } :: rest else b :: writeCode rest v u c

/-- The light unit's pixel `p` finished: its codes written, or discarded where its line's deadline has passed (R35). -/
def State.lightPixelWrite (s : State) (k : Channel) (params : FrameParameters) (p : HeldPixel) (rest : List HeldPixel) : State :=
  let l := s.lights.get k
  let buffers := if s.timer.passed p.v then l.buffers else writeCode l.buffers p.v p.u (s.pixelCodes k params p)
  (s.setLight k { l with held := rest, buffers := buffers }).recordFaults (s.pixelFaults k params p)

/-- LIGHT_PIXEL_WRITE (R35): the light unit takes the first pixel it holds through stages 4 to 6 and writes its codes. -/
def execLightPixelWrite (k : Channel) (us : List Upset) (s : State) : Host.Outcome State Fault Refusal :=
  let s := s.upsets us
  match (s.lights.get k).held, (s.lights.get k).params with
  | p :: rest, some params => .next (s.lightPixelWrite k params p rest)
  | _, _ => .next s

end Sys2Proof.Machine
end

