-- ==== Sys2Proof/Machine/Dispatch.lean ====
section
/-! DEFINITION. The dispatch of every command to its meaning, in the order of spec/opcode_table.json. -/

namespace Sys2Proof.Machine

/-- The effect of a command on everything but the queue of commands. -/
def exec (i : Instr) (s : State) : Host.Outcome State Fault Refusal :=
  match i with
  | .pinReset arr role pos done => Sys2Proof.Machine.execPinReset arr role pos done s
  | .startupHeaderReadDone => Sys2Proof.Machine.execStartupHeaderReadDone s
  | .imageCheckReadDone => Sys2Proof.Machine.execImageCheckReadDone s
  | .startupLoadDone => Sys2Proof.Machine.execStartupLoadDone s
  | .inputCarrierDetected port => Sys2Proof.Machine.execInputCarrierDetected port s
  | .inputTrainingDone port => Sys2Proof.Machine.execInputTrainingDone port s
  | .inputLinkLost port => Sys2Proof.Machine.execInputLinkLost port s
  | .frameOpen port record => Sys2Proof.Machine.execFrameOpen port record s
  | .line port record => Sys2Proof.Machine.execLine port record s
  | .frameClose port record => Sys2Proof.Machine.execFrameClose port record s
  | .recordUnknown port record => Sys2Proof.Machine.execRecordUnknown port record s
  | .cell port record => Sys2Proof.Machine.execCell port record s
  | .identify => Sys2Proof.Machine.execIdentify s
  | .status => Sys2Proof.Machine.execStatus s
  | .set => Sys2Proof.Machine.execSet s
  | .get => Sys2Proof.Machine.execGet s
  | .clear => Sys2Proof.Machine.execClear s
  | .faultRead => Sys2Proof.Machine.execFaultRead s
  | .restartOutput => Sys2Proof.Machine.execRestartOutput s
  | .resetFull => Sys2Proof.Machine.execResetFull s
  | .resetFullEffect done => Sys2Proof.Machine.execResetFullEffect done s
  | .resetPipeline => Sys2Proof.Machine.execResetPipeline s
  | .badCommand => Sys2Proof.Machine.execBadCommand s
  | .tableOpen => Sys2Proof.Machine.execTableOpen s
  | .tableWrite => Sys2Proof.Machine.execTableWrite s
  | .tableRead us => Sys2Proof.Machine.execTableRead us s
  | .tableSeal => Sys2Proof.Machine.execTableSeal s
  | .tableDropStaged => Sys2Proof.Machine.execTableDropStaged s
  | .tableDropLive => Sys2Proof.Machine.execTableDropLive s
  | .tableSwap => Sys2Proof.Machine.execTableSwap s
  | .tableList => Sys2Proof.Machine.execTableList s
  | .store => Sys2Proof.Machine.execStore s
  | .load => Sys2Proof.Machine.execLoad s
  | .defaultFillPageDone => Sys2Proof.Machine.execDefaultFillPageDone s
  | .completionEnqueue op => Sys2Proof.Machine.execCompletionEnqueue op s
  | .storePhaseDone us => Sys2Proof.Machine.execStorePhaseDone us s
  | .flashWriteFailed done => Sys2Proof.Machine.execFlashWriteFailed done s
  | .loadReadDone => Sys2Proof.Machine.execLoadReadDone s
  | .reverseLaneSend port => Sys2Proof.Machine.execReverseLaneSend port s
  | .reverseSendEnd port => Sys2Proof.Machine.execReverseSendEnd port s
  | .frameStart us => Sys2Proof.Machine.execFrameStart us s
  | .syncPulse us => Sys2Proof.Machine.execSyncPulse us s
  | .ownStart us => Sys2Proof.Machine.execOwnStart us s
  | .lineDeadline => Sys2Proof.Machine.execLineDeadline s
  | .musterHandle token => Sys2Proof.Machine.execMusterHandle token s
  | .musterReturn token => Sys2Proof.Machine.execMusterReturn token s
  | .showHandle token => Sys2Proof.Machine.execShowHandle token s
  | .showReturn token => Sys2Proof.Machine.execShowReturn token s
  | .warpLineBegin channel => Sys2Proof.Machine.execWarpLineBegin channel s
  | .warpPixel channel us => Sys2Proof.Machine.execWarpPixel channel us s
  | .tileFillComplete channel read us => Sys2Proof.Machine.execTileFillComplete channel read us s
  | .tileFillTimeout channel read us => Sys2Proof.Machine.execTileFillTimeout channel read us s
  | .lightPixelWrite channel us => Sys2Proof.Machine.execLightPixelWrite channel us s
  | .statusReport output locked => Sys2Proof.Machine.execStatusReport output locked s
  | .reverseCarrierLost output => Sys2Proof.Machine.execReverseCarrierLost output s
  | .reportTimeout output => Sys2Proof.Machine.execReportTimeout output s
  | .settleExpiry output => Sys2Proof.Machine.execSettleExpiry output s
  | .relockExpiry output => Sys2Proof.Machine.execRelockExpiry output s

end Sys2Proof.Machine
end

