-- ==== Sys2Proof/Safety.lean ====
section
/-! DEFINITION. What a sound state of the part is: the invariants that the manual's prose states of the whole machine,
each a test that the kernel and the tests can evaluate. Certificates/Slice0/Obligations.lean states that every step
keeps them. -/

namespace Sys2Proof.Machine

/-! ### Capacities (R153, R155, R188) -/

/-- The cell queue holds at most 32 cells, each reply queue at most 16 entries and the fault log at most 8 records. -/
def State.queuesBounded (s : State) : Bool :=
  decide (s.cells.length ≤ Config.cellQueueDepth)
    && channels.all (fun k => decide ((s.lanes.get k).replies.length ≤ Config.replyQueueDepth))
    && decide (s.faults.length ≤ Config.faultLogDepth)

/-! ### Notices (R181, R183, R185, R186) -/

/-- Condition numbers rise strictly along the queue, the first above `lo`. -/
def noticesRiseFrom : Nat → List Notice → Bool
  | _, [] => true
  | lo, n :: rest => decide (lo ≤ n.cond.val) && noticesRiseFrom (n.cond.val + 1) rest

/-- A notice that may wait: its condition is enabled, an event condition's latch is set, and it names the condition's
channel. -/
def State.noticeSound (s : State) (n : Notice) : Bool :=
  s.enabled n.cond && (Cond.isLevel n.cond || s.latches.getLsbD n.cond) && n.channel == Cond.channel n.cond

/-- The notice queue holds at most one notice of a condition, in the order in which they are sent, and none of a
condition that is not enabled or has been cleared. -/
def State.noticesSound (s : State) : Bool := noticesRiseFrom 0 s.notices && s.notices.all s.noticeSound

/-! ### Slots (R76, R77, R79, R83, R87, R88) -/

/-- One slot against the port's frame-in-progress record: FILLING exactly while the port receives into it, reserved only
while READY, empty of lines and damage while EMPTY, and otherwise of a legal size with whole lines below its height. -/
def slotSound (arr : Arrangement) (p : FrameInProgress) (i : SlotNo) (x : Slot) : Bool :=
  (match p with
    | .receiving j f => if i = j then x.state == .filling && x.frame == f else x.state != .filling
    | .none => x.state != .filling
    | .ignoring => x.state != .filling)
  && (!x.reserved || x.state == .ready)
  && (if x.state = .empty then x.lines == [] && x.damaged == 0
      else sourceSizeLegal arr x.width x.height && Assoc.wf x.lines && decide (x.damaged ≤ 65535)
        && x.lines.all fun l => decide (l.1 < x.height) && l.2.length == x.width)

/-- Two different slots are not both SHOWN, not both reserved, and not READY with one frame number. -/
def slotsDistinct (a b : Slot) : Bool :=
  !(a.state == .shown && b.state == .shown) && !(a.reserved && b.reserved)
    && !(a.state == .ready && b.state == .ready && a.frame == b.frame)

/-- The slots of a channel and its port: a port that is not LOCKED has no frame in progress. -/
def State.channelSlotsSound (s : State) (k : Channel) : Bool :=
  let r := s.rings.get k
  let p := s.inputs.get k
  slotNos.all (fun i => slotSound s.straps.arrangement p.progress i (r.slots.get i))
    && slotsDistinct r.slots.s0 r.slots.s1 && slotsDistinct r.slots.s0 r.slots.s2 && slotsDistinct r.slots.s1 r.slots.s2
    && (p.link == .locked || p.progress == .none) && decide (r.quiet ≤ 255)

def State.slotsSound (s : State) : Bool := channels.all s.channelSlotsSound

/-! ### Tile caches (R14 to R16) -/

/-- No two entries of the list relate. -/
def noTwo {α : Type} (clash : α → α → Bool) : List α → Bool
  | [] => true
  | x :: rest => rest.all (fun y => !clash x y) && noTwo clash rest

/-- Two entries that a lookup compares hold one tag, or two entries hold one place in the order of allocation. -/
def entriesClash (a b : Nat × TileEntry) : Bool :=
  (a.2.compared && b.2.compared && a.2.tag == b.2.tag) || a.2.order == b.2.order

/-- A tile cache has at most 64 entries, numbered below 64, no tag is held by two entries that a lookup compares, and
each entry was allocated at a place of its own. -/
def WarpUnit.cacheSound (w : WarpUnit) : Bool :=
  Assoc.wf w.cache && w.cache.all (fun e => decide (e.1 < Config.tileEntries) && decide (e.2.order < w.nextOrder))
    && noTwo entriesClash w.cache

def State.cachesSound (s : State) : Bool := channels.all fun k => (s.warps.get k).cacheSound

/-! ### The page pool (R49, R50, R53) -/

/-- Two page runs overlap. -/
def runsOverlap (a b : Nat × TableRecord) : Bool :=
  decide (a.2.firstPage < b.2.firstPage + b.2.pageCount) && decide (b.2.firstPage < a.2.firstPage + a.2.pageCount)

/-- The directory lists at most 64 records in order; every page run lies in the table pages and no two overlap. -/
def State.pagesSound (s : State) : Bool :=
  let dir := s.tables.directory
  Assoc.wf dir && noTwo runsOverlap dir
    && dir.all fun e => decide (e.1 < Config.directoryRecords) && decide (s.straps.arrangement.linePages ≤ e.2.firstPage)
        && decide (e.2.firstPage + e.2.pageCount ≤ Config.poolPages)

/-! ### The directory (R53, R54, R57, R65, R197, R200) -/

/-- Two instances of one key in one bank. -/
def sameInstance (a b : Nat × TableRecord) : Bool := a.2.key == b.2.key && a.2.bank == b.2.bank

/-- The keys of the pending swap; none where no swap is pending. -/
def State.swapKeys (s : State) : List Key :=
  match s.tables.swap with
  | some p => p.keys
  | none => []

/-- The records that an operation is filling: the default fill's, and a LOAD's. -/
def State.fillingRecords (s : State) : List Nat :=
  (match s.tables.fill with
    | some f => [f.record]
    | none => []) ++
  match s.loader.op with
  | some (.load _ _ loads) => loads.map (·.1)
  | _ => []

/-- One record: an instance is FILLING exactly while an operation fills it, locked exactly while it is SEALED and its
key in the pending swap, carries a drop mark only in the LIVE bank, and holds entries of its kind's size. -/
def State.recordSound (s : State) (n : Nat) (r : TableRecord) : Bool :=
  (r.state == .filling) == s.fillingRecords.contains n
    && (!r.locked || (r.state == .sealed && s.swapKeys.contains r.key))
    && (!r.dropMark || r.state == .live)
    && r.contents.all fun e => e.2.bytes.length == r.key.entryBytes

/-- The directory: one instance of a key in each bank, every record sound, every key of a pending swap with its locked
SEALED instance, every record being filled in the directory, the tables of a STORE LIVE, and the store empty while the
start-up load runs. -/
def State.directorySound (s : State) : Bool :=
  let dir := s.tables.directory
  Assoc.wf dir && noTwo sameInstance dir && dir.all (fun e => s.recordSound e.1 e.2)
    && (s.swapKeys.all fun key => dir.any fun e => e.2.key == key && e.2.state == .sealed && e.2.locked)
    && !keyTwice s.swapKeys
    && (s.fillingRecords.all fun n => (Assoc.find dir n).isSome) && noTwo (· == ·) s.fillingRecords
    && (match s.loader.op with
      | some (.store _ _ _ _ ns) => ns.all fun n => match Assoc.find dir n with
        | some r => r.state == .live
        | none => false
      | some (.startup _) => dir == [] && s.tables.swap == none && s.tables.fill == none
      | _ => true)

/-! ### Settings and the raster in force (R120, R125, R160) -/

/-- A raster of the arrangement. -/
def rasterLegal (arr : Arrangement) (w h p : Nat) : Bool :=
  decide (640 ≤ w) && decide (w ≤ arr.maxWidth) && w % 16 == 0 && decide (480 ≤ h) && decide (h ≤ arr.maxHeight) && h % 8 == 0
    && decide (arr.minPeriod ≤ p) && decide (p ≤ 100000)

/-- A number within a range. -/
def within (lo hi n : Nat) : Bool := decide (lo ≤ n) && decide (n ≤ hi)

/-- Every setting holds a legal value, and the raster in force is a raster of the arrangement. (The upper end of
muster_offset is that of the raster_height stored when it was written, at most half the largest height.) -/
def State.settingsSound (s : State) : Bool :=
  let st := s.settings
  let arr := s.straps.arrangement
  rasterLegal arr st.rasterWidth st.rasterHeight st.framePeriodUs && rasterLegal arr s.timer.width s.timer.height s.timer.periodUs
    && within 16 (arr.maxHeight / 2) st.musterOffset && within 2 8 st.ringLength && within 1 255 st.coherenceLimit
    && within 1 255 st.ringLossLimit && within 1 255 st.inputTimeout && within 0 255 st.damageLimit
    && within 0 10000 st.settleMs && within 0 10000 st.relockMs && within 1 120 st.lossConfirm && within 1 600 st.returnConfirm

/-- Whether a setting may hold a value: the legal values of R160 and R125. -/
def settingAdmits (arr : Arrangement) (st : Settings) (id : SettingId) (v : Nat) : Bool :=
  match id with
  | .channelEnable => decide (v < 16)
  | .rasterWidth => within 640 arr.maxWidth v && v % 16 == 0
  | .rasterHeight => within 480 arr.maxHeight v && v % 8 == 0
  | .framePeriodUs => within arr.minPeriod 100000 v
  | .musterOffset => within 16 (st.rasterHeight / 2) v
  | .ringLength => within 2 8 v
  | .coherenceLimit => within 1 255 v
  | .ringLossLimit => within 1 255 v
  | .inputTimeout => within 1 255 v
  | .damageLimit => within 0 255 v
  | .settleMs => within 0 10000 v
  | .relockMs => within 0 10000 v
  | .lossConfirm => within 1 120 v
  | .returnConfirm => within 1 600 v
  | .inactivePolicy => decide (v < 2)
  | .dither => decide (v < 2)
  | .outputMode => decide (v < 4)
  | .flatLevel =>
    decide (v % 65536 < 1024) && decide (v / 65536 % 65536 < 1024) && decide (v / 4294967296 < 1024)
  | .noticeLink => decide (v < 4)
  | .noticeEnable => decide (v < 2 ^ 45)

/-! ### Presentation (R5, R25, R34, R47, R120, R129, R130) -/

/-- The walk of a frame is within the raster, and a pixel that waits is one of the line. -/
def walkInside (t : RasterTimer) (w : Walk) : Bool :=
  decide (w.line < t.height) && decide (w.col ≤ t.width) && (w.waiting.isNone || decide (w.col < t.width))

/-- A channel's units against its port: lines are handed only for a channel of the arrangement whose port is ACTIVE; the
warp unit walks, and the light unit holds pixels, only in a walked frame. -/
def State.channelPresents (s : State) (k : Channel) : Bool :=
  let l := s.lights.get k
  (l.form == .noLines || (s.hasChannel k && (s.outputs.get k).state == .active))
    && (match (s.warps.get k).walk with
      | some w => l.form == .walked && walkInside s.timer w
      | none => true)
    && (l.held == [] || l.form == .walked)

/-- A countdown runs exactly in SETTLING and RETRAIN, and a port in ABSENT has no lock record (R129, R132). -/
def OutputPort.sound (p : OutputPort) : Bool :=
  (p.expires.isSome == (p.state == .settling || p.state == .retrain)) && (p.state != .absent || p.lock == .none)

/-- The outputs: every port is sound, every channel presents as its port allows, and the next deadline is of a line of
the raster. -/
def State.outputsSound (s : State) : Bool :=
  channels.all (fun k => s.channelPresents k && (s.outputs.get k).sound)
    && (match s.timer.phase with
      | .activeLines v => decide (v < s.timer.height)
      | .blanking => true)

/-! ### Channels that the arrangement lacks (R72, R137, R138, R149, R187) -/

/-- A channel that does not exist holds nothing: EMPTY slots, an ABSENT port that is not watched, no walk and no line,
sets 0, its confirmed presence bit present, and no condition but INPUT_DOWN. -/
def State.channelInert (s : State) (k : Channel) : Bool :=
  slotNos.all (fun i => ((s.rings.get k).slots.get i).state == .empty)
    && (s.inputs.get k).progress == .none && (s.outputs.get k).state == .absent && (s.outputs.get k).lock == .none
    && (s.warps.get k).walk == none && (s.warps.get k).cache == [] && (s.lights.get k).form == .noLines
    && (s.lights.get k).held == [] && s.loss.chosen.get k == 0 && s.loss.selected.get k == 0 && !s.loss.setMissing.get k
    && s.loss.confirmed.get k && s.loss.count.get k == 0 && !s.tables.unfit.get k && s.coh.channelShown.get k == none
    && Cond.all.all fun c => Cond.channel c != some k || !s.latches.getLsbD c

def State.absentInert (s : State) : Bool := channels.all fun k => s.hasChannel k || s.channelInert k

/-! ### All of them -/

/-- The sound states of the part. -/
def State.sound (s : State) : Bool :=
  s.queuesBounded && s.noticesSound && s.slotsSound && s.cachesSound && s.pagesSound && s.directorySound && s.settingsSound
    && s.outputsSound && s.absentInert && Memory.wf s.flash

/-! ### Queuing a notice, as the statements name it (R183 to R185) -/

/-- `ns` is the notice queue after an event condition has been raised whose notice would be `n`: where the latch was clear,
the condition is enabled and no notice of it waits, `n` stands in its place, behind the notices of lower conditions; else
the queue is as it was. -/
def State.queuesNotice (s : State) (n : Notice) (ns : List Notice) : Prop :=
  if s.latches.getLsbD n.cond = false ∧ s.enabled n.cond = true ∧ ∀ m ∈ s.notices, m.cond ≠ n.cond then
    ∃ before behind : List Notice, s.notices = before ++ behind ∧ ns = before ++ n :: behind
      ∧ (∀ m ∈ before, m.cond < n.cond) ∧ ∀ m, behind.head? = some m → n.cond < m.cond
  else ns = s.notices

/-- The notice queue of `t` after that of `s`, where the notices of the conditions `withdrawn` leave it and the conditions
`queued` fall due for one: a condition with a notice waiting takes no second one, and a new notice carries its condition's
channel and the frame number shown when it is queued. The queue stays in the order of the condition numbers. -/
def State.noticesFollow (s t : State) (withdrawn queued : Cond → Prop) : Prop :=
  noticesRiseFrom 0 s.notices = true →
    noticesRiseFrom 0 t.notices = true
    ∧ ∀ n : Notice, n ∈ t.notices ↔ (n ∈ s.notices ∧ ¬withdrawn n.cond)
        ∨ (queued n.cond ∧ (∀ m ∈ s.notices, m.cond ≠ n.cond) ∧ n.channel = Cond.channel n.cond
            ∧ n.frame = match n.channel with
              | none => t.coh.shown
              | some k => t.coh.channelShown.get k)

/-! ### Recording faults, as the statements name it (R188) -/

/-- The fault log, overflow flag, latches and notice queue after the faults `fs` have been found in turn: the log takes them
while it holds fewer than 8, the first one taken raises FAULT_LOGGED, and one that finds the log full sets the overflow
flag. -/
def State.logsFaults (s : State) (fs log : List FaultRecord) (overflow : Bool) (latches : BitVec 45) (ns : List Notice) : Prop :=
  log = s.faults ++ fs.take (8 - s.faults.length)
  ∧ (overflow = true ↔ s.overflow = true ∨ (fs ≠ [] ∧ 8 < s.faults.length + fs.length))
  ∧ if fs ≠ [] ∧ s.faults.length < 8 then
      latches = s.latches ||| BitVec.twoPow 45 Cond.faultLogged ∧ s.queuesNotice ⟨Cond.faultLogged, none, s.coh.shown⟩ ns
    else latches = s.latches ∧ ns = s.notices

/-! ### The reset values, as the statements name them (R164, R192) -/

/-- Every block of `t` at its pin-reset value with the start-up load begun, the straps, the fault log and the flash apart. On
a master or solo part the first frame has begun at `now` (R123): it has taken the frame parameters of a store without
tables, counted every output down once and made every channel unfit. -/
def State.blocksAtReset (t : State) (now : Nat) : Prop :=
  t.settings = Settings.reset ∧ t.coh = Coherence.reset ∧ t.cells = [] ∧ t.resetWait = none
  ∧ t.latches = 0 ∧ t.notices = []
  ∧ t.tables.directory = [] ∧ t.tables.swap = none ∧ t.tables.fill = none ∧ t.tables.fillDue = []
  ∧ t.loader = ⟨some (.startup .header), none, .none⟩ ∧ t.loss.applied = BitVec.allOnes 32
  ∧ (∀ k : Channel,
      let framed : Prop := t.straps.role ≠ .follower ∧ t.hasChannel k = true
      t.inputs.get k = ⟨.down, .none⟩ ∧ (t.rings.get k).quiet = 255 ∧ (t.rings.get k).reject = .none
      ∧ (∀ i : SlotNo, let x := (t.rings.get k).slots.get i
          x.state = .empty ∧ x.lines = [] ∧ x.damaged = 0 ∧ x.reserved = false)
      ∧ (t.lights.get k).params = (if framed then
          some ⟨.video, none, none, matrixOf none, true, ⟨512, 512, 512⟩, none⟩ else none)
      ∧ (t.lights.get k).form = .noLines ∧ (t.lights.get k).held = [] ∧ (t.lights.get k).buffers = []
      ∧ (t.lights.get k).handed = none
      ∧ t.loss.count.get k = (if framed then 1 else 0) ∧ t.loss.setMissing.get k = false
      ∧ (t.tables.unfit.get k = true ↔ framed)
      ∧ (t.warps.get k).edgeMark = false ∧ (t.warps.get k).failed = [] ∧ (t.warps.get k).mesh = none
      ∧ (t.outputs.get k).state = .absent ∧ (t.outputs.get k).lock = .none ∧ (t.outputs.get k).expires = none
      ∧ t.modes.get k = .video ∧ t.loss.confirmed.get k = true ∧ t.loss.chosen.get k = 0 ∧ t.loss.selected.get k = 0
      ∧ (t.warps.get k).cache = [] ∧ (t.warps.get k).walk = none
      ∧ (t.lanes.get k).replies = [] ∧ (t.lanes.get k).sending = none)
  ∧ (t.timer.width = 1920 ∧ t.timer.height = 1200 ∧ t.timer.periodUs = 16667 ∧ t.timer.start = now)
  ∧ (if t.straps.role = .follower then t.timer.phase = .blanking else t.timer.phase = .activeLines 0)

/-! ### Serving a cell, as the statements name it (R154, R155) -/

/-- Whether a command is the serving of a cell of this kind. -/
def servesCell (i : Instr) (c : Cell) : Bool :=
  match i with
  | .identify => c.carries .identify
  | .status => c.carries .status
  | .set => c.carries .set
  | .get => c.carries .get
  | .clear => c.carries .clear
  | .faultRead => c.carries .faultRead
  | .restartOutput => c.carries .restartOutput
  | .resetFull => c.carries .reset && c.payload != [1]
  | .resetPipeline => c.carries .reset && c.payload != [0]
  | .badCommand => (commandOf c.command).isNone
  | .tableOpen => c.carries .tableOpen
  | .tableWrite => c.carries .tableWrite
  | .tableRead _ => c.carries .tableRead
  | .tableSeal => c.carries .tableSeal
  | .tableDropStaged => c.carries .tableDrop && !dropNames 0 c.payload
  | .tableDropLive => c.carries .tableDrop && !dropNames 1 c.payload
  | .tableSwap => c.carries .tableSwap
  | .tableList => c.carries .tableList
  | .store => c.carries .store
  | .load => c.carries .load
  | _ => false

/-- The storage cells that a command finds bad. -/
def upsetsOf (i : Instr) : List Upset :=
  match i with
  | .tableRead us => us
  | _ => []

/-- The oldest cell is `c`, the engine is not waiting to reset, and the cell's reply has room. -/
def State.served (s : State) (c : Cell) (rest : List Cell) : Prop :=
  s.resetWait = none ∧ s.cells = c :: rest ∧ c.discard = false
    ∧ (s.lanes.get c.link).replies.length < Config.replyQueueDepth

/-- The state with the oldest cell served and its reply placed, and nothing else changed. -/
def State.replied (s : State) (c : Cell) (rest : List Cell) (st : Status) (payload : Bytes) (resets : Bool) : State :=
  let l := s.lanes.get c.link
  { s with cells := rest
           lanes := s.lanes.set c.link { l with replies := l.replies ++ [.reply c.tag st payload resets] } }

end Sys2Proof.Machine
end

