-- ==== Sys2Proof/Certificates/Slice0/Obligations.lean ====
section
/-! DEFINITION. The statements about the model, for the provers. Each says in its title what it states; OBLIGATIONS.json
gives the rules. The tier 3 statements say that every step keeps an invariant of Safety.lean. -/

open Sys2Proof Sys2Proof.Machine

/-! ### The machine as a whole -/

/-- One step carries out the command at the front of the queue on the state with the queue's rest; on an empty queue one
period of REFCLK passes (the model's choice, assumption log 4). -/
def Obligations.StepRunsFrontCommand : Prop :=
  (∀ (c : Instr) (rest : List Instr) (s : State), s.pending = c :: rest → step s = exec c { s with pending := rest })
    ∧ ∀ s : State, s.pending = [] → step s = .next { s with now := s.now + 1 }

/-- Every command completes in every state, and none touches the queue of commands. Where the event of a command cannot
occur in the state it meets, that it completes by leaving the state as it is is the model's choice (assumption log 9). -/
def Obligations.EveryCommandCompletes : Prop :=
  ∀ (i : Instr) (s : State), ∃ t : State, exec i s = .next t ∧ t.pending = s.pending

/-- The state after reset is sound: every invariant below holds of it. -/
def Obligations.ResetIsSound : Prop := State.reset.sound = true

/-! ### Invariants that every step keeps -/

/-- Cell queue at most 32, reply queues at most 16, fault log at most 8 (R153, R155, R188). -/
def Obligations.QueuesStayBounded : Prop :=
  ∀ s t : State, s.queuesBounded = true → step s = .next t → t.queuesBounded = true

/-- The notice queue: one notice of a condition at most, lowest number first, only of enabled conditions, and of event
conditions only while latched (R183, R185, R186). -/
def Obligations.NoticesStaySound : Prop :=
  ∀ s t : State, s.noticesSound = true → step s = .next t → t.noticesSound = true

/-- The slot rings: at most one SHOWN and one reserved slot in a channel, a FILLING slot exactly while its port receives,
no two READY slots with one frame, lines within the frame (R76, R77, R79, R83, R87, R88). -/
def Obligations.SlotsStaySound : Prop :=
  ∀ s t : State, s.slotsSound = true → step s = .next t → t.slotsSound = true

/-- The tile caches: at most 64 entries, no tag held twice by entries that a lookup compares, no place in the order of
allocation given twice (R14 to R16). -/
def Obligations.CachesStaySound : Prop :=
  ∀ s t : State, s.cachesSound = true → step s = .next t → t.cachesSound = true

/-- The pool: page runs lie in the table pages of the arrangement and never overlap (R49, R50, R53). -/
def Obligations.PageRunsStayDisjoint : Prop :=
  ∀ s t : State, s.pagesSound = true → step s = .next t → t.pagesSound = true

/-- The directory: one instance of a key in each bank; FILLING exactly while an operation fills it; locked exactly the
SEALED instances of the pending swap; drop marks in the LIVE bank alone (R53, R54, R65, R67, R200). -/
def Obligations.DirectoryStaysSound : Prop :=
  ∀ s t : State, s.directorySound = true → step s = .next t → t.directorySound = true

/-- Every setting keeps a legal value, and the raster in force stays a raster of the arrangement (R125, R126, R160). -/
def Obligations.SettingsStayLegal : Prop :=
  ∀ s t : State, s.settingsSound = true → step s = .next t → t.settingsSound = true

/-- Lines are handed only for an ACTIVE port of a channel of the arrangement, walks and held pixels exist only in a walked
frame and within the raster, a countdown runs exactly in SETTLING and RETRAIN (R5, R25, R34, R47, R129). -/
def Obligations.OutputsStaySound : Prop :=
  ∀ s t : State, s.settingsSound = true → s.outputsSound = true → step s = .next t → t.outputsSound = true

/-- In arrangement C, channels 1 and 3 stay inert: no slot, port, walk, line, set or event condition of theirs ever
changes from its reset value (R72, R137, R138, R149, R187). -/
def Obligations.AbsentChannelsStayInert : Prop :=
  ∀ s t : State, s.absentInert = true → step s = .next t → t.absentInert = true

/-- The flash keeps its canonical form: addresses rising, within 16 MiB, no entry that reads as erased (R194). -/
def Obligations.FlashStaysCanonical : Prop :=
  ∀ s t : State, Memory.wf s.flash = true → step s = .next t → Memory.wf t.flash = true

/-! ### Start-up and resets -/

/-- PIN_RESET: the straps as R192 takes them and every block at its pin-reset value with the start-up load begun; on a
master or solo part the first frame is begun too (R123), which takes the frame parameters of a store without tables,
counts every output down once and makes every channel unfit. The flash is as it was where no STORE ran. That the image
state is NONE after the reset, and that the warp and light units hold no MESH, walk, pixel or line, is the model's choice
(assumption log 2). -/
def Obligations.PinResetLeavesResetValues : Prop :=
  ∀ (arr role : BitVec 2) (pos : BitVec 3) (done : Nat) (s : State),
    ∃ t : State, exec (.pinReset arr role pos done) s = .next t
      ∧ t.straps =
          { arrSampled := arr, roleSampled := role, posSampled := pos,
            arrangement := if arr = 1 then .b else if arr = 2 then .c else .a,
            role := if role = 1 then .master else if role = 2 ∧ pos ≠ 0 then .follower else .solo,
            position := if role = 1 then 0 else pos,
            fault := decide (arr = 3 ∨ role = 3 ∨ (role = 1 ∧ pos ≠ 0) ∨ (role = 2 ∧ pos = 0)) }
      ∧ t.blocksAtReset s.now ∧ t.faults = [] ∧ t.overflow = false
      ∧ (s.loader.storing = false → t.flash = s.flash)

/-- RESET FULL: its OK reply is placed and the engine waits; the reset takes effect only once that reply has been sent or
discarded, and then leaves every block at its pin-reset value, the first frame of a master or solo part begun with it (R123), while
the strap record, the fault log and, where no STORE ran, the flash are kept. A cell with its discard mark leaves no reply,
and its wait is over at once. That the effect is a step of its own is the model's choice (assumption log 21), and so are the
image state NONE after it and the units that hold no MESH, walk, pixel or line (log 2). -/
def Obligations.FullResetWaitsThenActs : Prop :=
  (∀ (s : State) (c : Cell) (rest : List Cell), s.served c rest → c.carries .reset = true → c.payload = [0] →
    exec .resetFull s = .next (({ s with resetWait := some ⟨c.link, false⟩ } : State).replied c rest .ok [] true))
  ∧ (∀ (s : State) (c : Cell) (rest : List Cell), s.resetWait = none → s.cells = c :: rest → c.discard = true →
    c.carries .reset = true → c.payload = [0] →
    exec .resetFull s = .next { s with cells := rest, resetWait := some ⟨c.link, true⟩ })
  ∧ (∀ (s : State) (k : Channel) (done : Nat), s.resetWait = some ⟨k, false⟩ → exec (.resetFullEffect done) s = .next s)
  ∧ ∀ (s : State) (k : Channel) (done : Nat), s.resetWait = some ⟨k, true⟩ →
    ∃ t : State, exec (.resetFullEffect done) s = .next t
      ∧ t.straps = s.straps ∧ t.blocksAtReset s.now
      ∧ (s.loader.storing = false → t.flash = s.flash ∧ t.faults = s.faults ∧ t.overflow = s.overflow)

/-- RESET PIPELINE: slots, frames in progress, quiet counts, coherence, tile caches, walks and the pending swap are
cleared; a walked frame goes on with code 0; tables, settings, ports, loss selector, latches, log and loader are kept. The
notices that wait are kept, and a channel that the recomputation makes unfit queues the notice of TABLES_UNFIT where that is
enabled and none waits, with no frame number, since none is shown after the reset. That an emptied slot keeps its frame
number and size is the model's choice (assumption log 2). -/
def Obligations.PipelineResetClears : Prop :=
  ∀ (s : State) (c : Cell) (rest : List Cell), s.served c rest → c.carries .reset = true → c.payload = [1] →
    ∃ (inputs : Quad InputPort) (rings : Quad SlotRing) (warps : Quad WarpUnit) (lights : Quad LightUnit)
      (dir : Assoc TableRecord) (unfit : Quad Bool) (ns : List Notice),
      let t : State :=
        { s with
          inputs := inputs
          rings := rings
          coh := Coherence.reset
          warps := warps
          lights := lights
          tables := { s.tables with directory := dir, swap := none, unfit := unfit }
          notices := ns }
      exec .resetPipeline s = .next (t.replied c rest .ok [] false)
      ∧ (∀ k : Channel,
          inputs.get k = ⟨(s.inputs.get k).link, .none⟩
          ∧ (rings.get k).quiet = 255 ∧ (rings.get k).reject = (s.rings.get k).reject
          ∧ (∀ i : SlotNo, (rings.get k).slots.get i = { (s.rings.get k).slots.get i with
              state := .empty, lines := [], damaged := 0, reserved := false })
          ∧ warps.get k = { s.warps.get k with cache := [], failed := [], edgeMark := false, walk := none }
          ∧ (lights.get k).params = (s.lights.get k).params ∧ (lights.get k).held = []
          ∧ (lights.get k).form = (if (s.lights.get k).form = .walked then .zeroed else (s.lights.get k).form)
          ∧ unfit.get k = t.channelUnfit k)
      ∧ s.noticesFollow t (fun _ => False) (fun c => s.enabled c = true
          ∧ ∃ k : Channel, c = Cond.tablesUnfit k ∧ s.tables.unfit.get k = false ∧ unfit.get k = true)
      ∧ ∀ n : Nat, Assoc.find dir n = (Assoc.find s.tables.directory n).map fun r => { r with locked := false }

/-- The start-up load: no magic ends it with image state NONE; a bad image is recorded and ends it with BAD; with a good one
the settings records are applied in order, each as a SET is, when the second read begins (the moment is the model's choice,
assumption log 36). At its end each table of the image that the arrangement uses is created LIVE, in image order, in the
lowest free record and the first-fit run, with its key, its dimensions and the entries of the image; it is skipped where
no record or no run remains, or where its key is LIVE already (the model's choice, log 29). Records of before stand. That an
entry of the image with a value out of range is brought into range as a TABLE WRITE in FULL mode would bring it is the
model's deduction (log 13). -/
def Obligations.StartupLoadRuns : Prop :=
  (∀ s : State, s.loader.op = some (.startup .header) →
    exec .startupHeaderReadDone s =
      .next (if Memory.readBytes s.flash 0 4 = [0xC4, 0x12, 0xDA, 0x7E] then
          { s with loader := { s.loader with op := some (.startup .check) } }
        else { s with loader := { s.loader with op := none, image := .none } }))
  ∧ (∀ s : State, s.loader.op = some (.startup .check) →
    (imageGood s.flash = true → ∃ ns : List Notice,
      exec .imageCheckReadDone s = .next
        { s with
          loader := { s.loader with op := some (.startup .apply), image := .good }
          settings := (settingsRecords s.flash).foldl (fun st rec =>
            let put (id : SettingId) (k : Channel) : Settings := st.store id k (id.legal s.straps.arrangement st (field rec 2 8))
            match settingOf (byteAt rec 0), channelOf (byteAt rec 1) with
            | some id, some k => if id.perChannel = true ∧ s.hasChannel k = false then st else put id k
            | some id, none => if id.perChannel = true then st else put id 0
            | none, _ => st) s.settings
          notices := ns }
      ∧ ((∀ rec ∈ settingsRecords s.flash, byteAt rec 0 ≠ SettingId.code .noticeEnable) → ns = s.notices))
    ∧ (imageGood s.flash = false → exec .imageCheckReadDone s = .next
        (({ s with loader := { s.loader with op := none, image := .bad } } : State).recordFault
          ⟨.imageCheck, none, none, .absent⟩)))
  ∧ ∀ s : State, s.loader.op = some (.startup .apply) →
    ∃ dir : Assoc TableRecord,
      exec .startupLoadDone s = .next
        { s with loader := { s.loader with op := none }, tables := { s.tables with directory := dir } }
      ∧ (∀ (n : Nat) (r : TableRecord), Assoc.find s.tables.directory n = some r → Assoc.find dir n = some r)
      ∧ (imageTables s.flash = none → dir = s.tables.directory)
      ∧ ∀ ts : List ImageTable, imageTables s.flash = some ts →
        let used := ts.filter fun x => !s.keyAbsent x.key
        ∃ after : Nat → Assoc TableRecord, after 0 = s.tables.directory ∧ after used.length = dir
          ∧ ∀ (i : Nat) (x : ImageTable), used[i]? = some x →
            let d := after i
            let isLive : Prop := ∃ e ∈ d, e.2.key = x.key ∧ e.2.state = .live
            let record (n : Nat) : Prop := n < 64 ∧ Assoc.find d n = none ∧ ∀ m, m < n → Assoc.find d m ≠ none
            let run (p : Nat) : Prop := s.straps.arrangement.linePages ≤ p ∧ p + x.key.pages x.dims ≤ 512
              ∧ ∀ q, p ≤ q → q < p + x.key.pages x.dims → pageUsed d q = false
            (isLive → after (i + 1) = d)
            ∧ (¬isLive → ∀ n p : Nat, record n → run p → (∀ p', p' < p → ¬run p') → ∃ r : TableRecord,
                after (i + 1) = Assoc.insert d n r
                ∧ r.key = x.key ∧ r.state = .live ∧ r.dims = x.dims ∧ r.firstPage = p ∧ r.pageCount = x.key.pages x.dims
                ∧ r.locked = false ∧ r.dropMark = false
                ∧ ∀ j, j < x.key.entryCount x.dims → r.read j = (x.key.entryOfBytes j
                    (Memory.readBytes s.flash (14 + x.offset + j * x.key.entryBytes) x.key.entryBytes)).1)
            ∧ (¬isLive → ((∀ n, ¬record n) ∨ ∀ p, ¬run p) → after (i + 1) = d)

/-! ### Input ports -/

/-- A carrier takes a DOWN port to TRAINING and the end of training takes it to LOCKED; in every other state these events
change nothing, and neither does a record of unknown kind. -/
def Obligations.LinkStatesFollowEvents : Prop :=
  (∀ (s : State) (k : Channel),
    exec (.inputCarrierDetected k) s = .next (if (s.inputs.get k).link = .down then
      { s with inputs := s.inputs.set k { s.inputs.get k with link := .training } } else s))
  ∧ (∀ (s : State) (k : Channel),
    exec (.inputTrainingDone k) s = .next (if (s.inputs.get k).link = .training then
      { s with inputs := s.inputs.set k { s.inputs.get k with link := .locked } } else s))
  ∧ ∀ (s : State) (k : Channel) (record : Bytes), exec (.recordUnknown k record) s = .next s

/-- INPUT_LINK_LOST: the port DOWN with no frame in progress, a FILLING slot EMPTY with reason LINK_LOST and FRAME_REJECT,
the link's replies and waiting completions gone, its cells marked, and everything of other links as it was. A RESET FULL
that waits for a reply of the link is marked as answered; that its effect is a step of its own after this one is the
model's choice (assumption log 21), and so is that the slot emptied keeps its frame number and size (log 2). Where they are
enabled and no notice of them waits, FRAME_REJECT newly latched and INPUT_DOWN of a port that was LOCKED queue their notice,
and no other condition does. -/
def Obligations.LinkLossDropsFrameAndReplies : Prop :=
  ∀ (s : State) (k : Channel), (s.inputs.get k).link ≠ .down →
    ∃ (rings : Quad SlotRing) (latches : BitVec 45) (ns : List Notice) (imageDue : Option Completion)
      (wait : Option ResetWait),
      let t : State :=
        { s with
          inputs := s.inputs.set k ⟨.down, .none⟩
          lanes := s.lanes.set k { s.lanes.get k with replies := [], sending := none }
          cells := s.cells.map (fun c => if c.link = k then { c with discard := true } else c)
          rings := rings
          latches := latches
          notices := ns
          tables := { s.tables with fillDue := s.tables.fillDue.filter fun c => decide (c.link ≠ k) }
          loader := { s.loader with due := imageDue }
          resetWait := wait }
      exec (.inputLinkLost k) s = .next t
      ∧ s.noticesFollow t (fun _ => False) (fun c => s.enabled c = true
          ∧ ((c = Cond.inputDown k ∧ (s.inputs.get k).link = .locked)
            ∨ (c = Cond.frameReject k ∧ s.latches.getLsbD c = false ∧ ∃ i f, (s.inputs.get k).progress = .receiving i f)))
      ∧ (match (s.inputs.get k).progress with
        | .receiving i _ =>
          let x := (s.rings.get k).slots.get i
          rings = s.rings.set k { s.rings.get k with
            slots := (s.rings.get k).slots.set i { x with state := .empty, lines := [], damaged := 0, reserved := false }
            reject := .linkLost }
          ∧ latches = s.latches ||| BitVec.twoPow 45 (Cond.frameReject k)
        | _ => rings = s.rings ∧ latches = s.latches)
      ∧ (∀ c, imageDue = some c ↔ s.loader.due = some c ∧ c.link ≠ k)
      ∧ (∀ w, s.resetWait = some w → wait = some ⟨w.link, w.answered || decide (w.link = k)⟩)
      ∧ (s.resetWait = none → wait = none)

/-- FRAME_OPEN on a LOCKED port. A frame in progress is abandoned with reason TRUNCATED and FRAME_REJECT. A legal size then
takes the slot just abandoned, or else the lowest-numbered EMPTY slot, or else the READY slot without a reserved mark that
holds the oldest frame, whose frame is discarded with FRAME_DROP; the slot is FILLING with the record's number and size. A
size out of range leaves the port IGNORING with reason SIZE and FRAME_REJECT. A condition raised queues its notice in its
place, with the channel and the channel's shown number, where it is enabled, was not latched and has no notice waiting. (Which
READY slot is taken where the wrapping order makes none the oldest: the free value of assumption log 3. That a slot
emptied keeps its frame number and size: the model's choice, log 2.) -/
def Obligations.FrameOpenTakesSlot : Prop :=
  ∀ (s : State) (k : Channel) (f : FrameNo) (w h : Nat), w < 65536 → h < 65536 → s.hasChannel k = true →
    (s.inputs.get k).link = .locked →
    let p := (s.inputs.get k).progress
    let r := s.rings.get k
    let legal := 16 ≤ w ∧ w ≤ s.straps.arrangement.maxSourceWidth ∧ 8 ≤ h ∧ h ≤ s.straps.arrangement.maxSourceHeight
    let idle : Prop := ∀ i g, p ≠ .receiving i g
    let taken (i : SlotNo) : Trio Slot := r.slots.set i ⟨.filling, f, w, h, [], 0, false⟩
    let leaves (q : FrameInProgress) (ring : SlotRing) (latches : BitVec 45) (ns : List Notice) : Prop :=
      exec (.frameOpen k (frameOpenBytes ⟨f, w, h⟩)) s = .next
        { s with inputs := s.inputs.set k ⟨.locked, q⟩, rings := s.rings.set k ring, latches := latches, notices := ns,
                 free := s.free + 1 }
    let raises (c : Cond) (q : FrameInProgress) (ring : SlotRing) : Prop := ∃ ns : List Notice,
      leaves q ring (s.latches ||| BitVec.twoPow 45 c) ns ∧ s.queuesNotice ⟨c, some k, s.coh.channelShown.get k⟩ ns
    (∀ i : SlotNo, idle → legal → (r.slots.get i).state = .empty → (∀ j : SlotNo, j < i → (r.slots.get j).state ≠ .empty) →
      leaves (.receiving i f) { r with slots := taken i } s.latches s.notices)
    ∧ (let open_ (i : SlotNo) : Prop := (r.slots.get i).state = .ready ∧ (r.slots.get i).reserved = false
      idle → legal → (∀ i : SlotNo, (r.slots.get i).state ≠ .empty) → (∃ i, open_ i) →
      ∃ i : SlotNo, open_ i ∧ raises (Cond.frameDrop k) (.receiving i f) { r with slots := taken i }
        ∧ ∀ j : SlotNo, open_ j → (∀ m, open_ m → m ≠ j → olderSlot r.slots j m = true) → i = j)
    ∧ (∀ (i : SlotNo) (g : FrameNo), p = .receiving i g → legal →
      raises (Cond.frameReject k) (.receiving i f) { r with slots := taken i, reject := .truncated })
    ∧ (idle → ¬legal → raises (Cond.frameReject k) .ignoring { r with reject := .size })
    ∧ ∀ (i : SlotNo) (g : FrameNo), p = .receiving i g → ¬legal →
      raises (Cond.frameReject k) .ignoring { r with
        slots := r.slots.set i { r.slots.get i with state := .empty, lines := [], damaged := 0, reserved := false }
        reject := .size }

/-- LINE into a FILLING slot: a payload of 4·Ws bytes with a good check is stored as the line's pixels and, where the line
was not yet received with a bad check, counts no damage; a payload of another length or a line beyond Hs is damage. -/
def Obligations.LineIsRecorded : Prop :=
  ∀ (s : State) (k : Channel) (i : SlotNo) (f : FrameNo) (v : Nat) (payload : Bytes) (check : Nat),
    s.hasChannel k = true → (s.inputs.get k) = ⟨.locked, .receiving i f⟩ → v < 65536 → payload.length < 65536 → check < 65536 →
    let x := (s.rings.get k).slots.get i
    let y : Slot :=
      if payload.length = 4 * x.width ∧ v < x.height then
        { x with
          lines := Assoc.insert x.lines v (pixelsOf x.width payload)
          damaged := if check = (crc16 payload).toNat ∨ (Assoc.find x.lines v).isSome then x.damaged
            else min (x.damaged + 1) 65535 }
      else { x with damaged := min (x.damaged + 1) 65535 }
    exec (.line k (lineBytes ⟨v, payload, check⟩)) s = .next
      { s with rings := s.rings.set k { s.rings.get k with slots := (s.rings.get k).slots.set i y } }

/-- FRAME_CLOSE of the frame being received: READY with the quiet count 0 where damaged and missing lines do not exceed
damage_limit; EMPTY with reason DAMAGED where they do. Another READY slot that holds the same frame is emptied with
FRAME_DROP, and its reserved mark passes to the slot just closed. A close of another frame number abandons the frame with
reason TRUNCATED. A rejected frame raises FRAME_REJECT, and each condition raised queues its notice. That an emptied slot
keeps its frame number and size is the model's choice (assumption log 2). -/
def Obligations.FrameCloseJudgesFrame : Prop :=
  ∀ (s : State) (k : Channel) (i : SlotNo) (f g : FrameNo), s.hasChannel k = true →
    s.inputs.get k = ⟨.locked, .receiving i f⟩ →
    let r := s.rings.get k
    let x := r.slots.get i
    let total := x.damaged + (x.height - x.lines.length)
    let gone (y : Slot) : Slot := { y with state := .empty, lines := [], damaged := 0, reserved := false }
    let left (why : RejectReason) : Prop := ∃ ns : List Notice,
      exec (.frameClose k (frameCloseBytes g)) s = .next
        { s with
          inputs := s.inputs.set k ⟨.locked, .none⟩
          rings := s.rings.set k { r with slots := r.slots.set i (gone x), reject := why }
          latches := s.latches ||| BitVec.twoPow 45 (Cond.frameReject k)
          notices := ns }
      ∧ s.queuesNotice ⟨Cond.frameReject k, some k, s.coh.channelShown.get k⟩ ns
    (g ≠ f → left .truncated)
    ∧ (g = f → s.settings.damageLimit < total → left .damaged)
    ∧ (g = f → total ≤ s.settings.damageLimit →
        (∀ j : SlotNo, (r.slots.get j).state = .ready → (r.slots.get j).frame ≠ x.frame) →
        exec (.frameClose k (frameCloseBytes g)) s = .next
          { s with
            inputs := s.inputs.set k ⟨.locked, .none⟩
            rings := s.rings.set k { r with slots := r.slots.set i { x with state := .ready }, quiet := 0 } })
    ∧ (g = f → total ≤ s.settings.damageLimit → s.slotsSound = true →
        ∀ j : SlotNo, (r.slots.get j).state = .ready → (r.slots.get j).frame = x.frame →
        ∃ ns : List Notice, exec (.frameClose k (frameCloseBytes g)) s = .next
          { s with
            inputs := s.inputs.set k ⟨.locked, .none⟩
            rings := s.rings.set k { r with
              slots := (r.slots.set j (gone (r.slots.get j))).set i
                { x with state := .ready, reserved := (r.slots.get j).reserved }
              quiet := 0 }
            latches := s.latches ||| BitVec.twoPow 45 (Cond.frameDrop k)
            notices := ns }
        ∧ s.queuesNotice ⟨Cond.frameDrop k, some k, s.coh.channelShown.get k⟩ ns)

/-- CELL at a LOCKED port: a good cell joins the queue while it holds fewer than 32; a full queue or a cell that fails its
form or check raises CELL_DROP, changes no queue of cells, and queues the notice of CELL_DROP, with no channel and the
part's shown frame number, where that condition is enabled, was not latched and has no notice waiting. -/
def Obligations.CellJoinsQueueOrDrops : Prop :=
  (∀ (s : State) (k : Channel) (tag command : Byte) (payload : Bytes), (s.inputs.get k).link = .locked →
    payload.length ≤ 1035 →
    (s.cells.length < 32 → exec (.cell k (cellBytes ⟨tag, command, payload⟩)) s = .next
      { s with cells := s.cells ++ [⟨k, tag, command, payload, false⟩] })
    ∧ (32 ≤ s.cells.length → ∃ ns : List Notice, exec (.cell k (cellBytes ⟨tag, command, payload⟩)) s = .next
      { s with latches := s.latches ||| BitVec.twoPow 45 Cond.cellDrop, notices := ns }
      ∧ s.queuesNotice ⟨Cond.cellDrop, none, s.coh.shown⟩ ns))
  ∧ ∀ (s : State) (k : Channel) (body : Bytes), (s.inputs.get k).link = .locked → parseCell (0x14 :: body) = none →
    ∃ ns : List Notice, exec (.cell k (0x14 :: body)) s = .next
      { s with latches := s.latches ||| BitVec.twoPow 45 Cond.cellDrop, notices := ns }
      ∧ s.queuesNotice ⟨Cond.cellDrop, none, s.coh.shown⟩ ns

/-! ### The management engine -/

/-- Every cell served gives exactly one reply, with the cell's tag, in the reply queue of its link; a cell with its
discard mark is served and its reply discarded. An unknown identifier is answered BAD_COMMAND with an empty payload and
nothing else changes. -/
def Obligations.ServedCellGivesOneReply : Prop :=
  ∀ (i : Instr) (s : State) (c : Cell) (rest : List Cell), s.resetWait = none → s.cells = c :: rest → servesCell i c = true →
    (c.discard = false → (s.lanes.get c.link).replies.length < 16 →
      ∃ (t : State) (st : Status) (payload : Bytes) (resets : Bool), exec i s = .next t ∧ t.cells = rest
        ∧ t.lanes = s.lanes.set c.link
            { s.lanes.get c.link with replies := (s.lanes.get c.link).replies ++ [.reply c.tag st payload resets] })
    ∧ (c.discard = true → ∃ t : State, exec i s = .next t ∧ t.cells = rest ∧ t.lanes = s.lanes)
    ∧ (i = .badCommand → c.discard = false → (s.lanes.get c.link).replies.length < 16 →
      exec i s = .next (s.replied c rest .badCommand [] false))

/-- A full reply queue halts serving for every link: while the oldest cell has no discard mark and its link's queue holds
16 entries, or a RESET FULL waits, no cell is served and nothing changes. The one exception is the model's choice (assumption log
27): the storage that a TABLE READ names as found bad goes bad even where it is not served. -/
def Obligations.FullReplyQueueHaltsServing : Prop :=
  ∀ (i : Instr) (s : State) (c d : Cell) (rest : List Cell), s.cells = c :: rest → servesCell i d = true →
    (s.resetWait ≠ none ∨ (c.discard = false ∧ 16 ≤ (s.lanes.get c.link).replies.length)) →
    exec i s = .next (s.upsets (upsetsOf i))

/-- IDENTIFY replies with the identity record, field by field at its offset, and changes nothing. -/
def Obligations.IdentifyReply : Prop :=
  ∀ (s : State) (c : Cell) (rest : List Cell), s.served c rest → c.carries .identify = true → c.payload = [] →
    ∃ p : Bytes, exec .identify s = .next (s.replied c rest .ok p false) ∧ p.length = 30
      ∧ slice p 0 8 = [0x4D, 0x61, 0x74, 0x68, 0x69, 0x72, 0x6F, 0x00]
      ∧ slice p 8 8 = [0x43, 0x44, 0x41, 0x2D, 0x34, 0x31, 0x32, 0x00]
      ∧ byteAt p 16 = 0x42 ∧ byteAt p 17 = s.straps.arrSampled.toNat ∧ byteAt p 18 = s.straps.roleSampled.toNat
      ∧ byteAt p 19 = s.straps.posSampled.toNat
      ∧ byteAt p 20 = (match s.straps.arrangement with | .a => 0 | .b => 1 | .c => 2)
      ∧ byteAt p 21 = (match s.straps.role with | .solo => 0 | .master => 1 | .follower => 2)
      ∧ byteAt p 22 = s.straps.position.toNat ∧ byteAt p 23 = (if s.straps.fault then 1 else 0)
      ∧ field p 24 2 = 512 ∧ field p 26 2 = (if s.straps.arrangement = .c then 128 else 64)
      ∧ field p 28 2 = (if s.straps.arrangement = .c then 384 else 448)

/-- STATUS replies with the 207 bytes of the status record, every group at its offset, and changes nothing. A countdown is
given in milliseconds rounded up, FFFFh for none (rounding: the model's choice, assumption log 6); the entries of a reply
queue are those placed, without the one reserved for the STATUS reply itself (log 11); an EMPTY slot gives the frame number
its record last held (log 2). -/
def Obligations.StatusReplyLayout : Prop :=
  ∀ (s : State) (c : Cell) (rest : List Cell), s.served c rest → c.carries .status = true → c.payload = [] →
    s.swapKeys.length ≤ 25 →
    let follower : Prop := s.straps.role = .follower
    ∃ p : Bytes, exec .status s = .next (s.replied c rest .ok p false) ∧ p.length = 207
      ∧ (∀ k : Channel,
          slice p (3 * k) 3 = [(s.inputs.get k).link.code, (s.inputs.get k).progress.code, (s.rings.get k).reject.code]
          ∧ (∀ i : SlotNo, let x := (s.rings.get k).slots.get i
              slice p (12 + 14 * k + 4 * i) 2 = [x.state.code, if x.reserved then 1 else 0]
              ∧ field p (12 + 14 * k + 4 * i + 2) 2 = x.frame.toNat)
          ∧ byteAt p (12 + 14 * k + 12) = (s.rings.get k).quiet % 256
          ∧ byteAt p (12 + 14 * k + 13) = (if s.active k then 1 else 0)
          ∧ (byteAt p 70).testBit (3 + k) = (s.coh.channelShown.get k).isSome
          ∧ field p (73 + 2 * k) 2 = (match s.coh.channelShown.get k with | some f => f.toNat | none => 0)
          ∧ slice p (85 + 4 * k) 2 = [(s.outputs.get k).state.code, (s.outputs.get k).lock.code]
          ∧ field p (85 + 4 * k + 2) 2 = (match (s.outputs.get k).expires with
              | some e => ((e - s.now + 99999) / 100000) % 65536
              | none => 65535)
          ∧ (byteAt p 101).testBit k = s.loss.confirmed.get k
          ∧ byteAt p (106 + k) = (s.loss.chosen.get k).val ∧ byteAt p (110 + k) = (s.loss.selected.get k).val
          ∧ (byteAt p 114).testBit k = s.loss.setMissing.get k ∧ (byteAt p 197).testBit k = s.tables.unfit.get k
          ∧ byteAt p (200 + k) = (s.lanes.get k).replies.length % 256
          ∧ (byteAt p 206).testBit k = s.summary k)
      ∧ slice p 68 2 = [roleCode s.straps.role, s.coh.mode.code]
      ∧ (byteAt p 70).testBit 0 = s.coh.ringLost ∧ (byteAt p 70).testBit 1 = s.coh.syncLost
      ∧ (byteAt p 70).testBit 2 = s.coh.shown.isSome ∧ byteAt p 70 < 128
      ∧ field p 71 2 = (match s.coh.shown with | some f => f.toNat | none => 0)
      ∧ byteAt p 81 = (if follower then 0 else s.coh.repeatCount % 256)
      ∧ byteAt p 82 = (if s.straps.role = .master then s.coh.seq.toNat else 0)
      ∧ byteAt p 83 = (if follower then s.coh.missCount % 256 else 0)
      ∧ byteAt p 84 = (if follower then s.coh.ownStarts % 256 else 0)
      ∧ byteAt p 101 < 16 ∧ field p 102 4 = s.loss.applied.toNat ∧ byteAt p 114 < 16
      ∧ slice p 115 3 = (match s.tables.fill with
          | none => [0xFF, 0xFF, 0xFF]
          | some f => match Assoc.find s.tables.directory f.record with
            | some r => r.key.bytes
            | none => [0xFF, 0xFF, 0xFF])
      ∧ (s.tables.swap = none → byteAt p 118 = 0 ∧ field p 119 2 = 0 ∧ byteAt p 121 = 0)
      ∧ (∀ w : PendingSwap, s.tables.swap = some w →
          (byteAt p 118).testBit 0 = true ∧ (byteAt p 118).testBit 1 = w.target.isSome
          ∧ (byteAt p 118).testBit 2 = w.deferred ∧ byteAt p 118 < 8
          ∧ field p 119 2 = (match w.target with | some f => f.toNat | none => 0) ∧ byteAt p 121 = w.keys.length)
      ∧ (∀ (i : Nat) (key : Key), s.swapKeys[i]? = some key → slice p (122 + 3 * i) 3 = key.bytes)
      ∧ (∀ a : Nat, 122 + 3 * s.swapKeys.length ≤ a → a < 197 → byteAt p a = 0xFF)
      ∧ byteAt p 197 < 16 ∧ byteAt p 198 = s.loader.code.toNat ∧ byteAt p 199 = rest.length % 256
      ∧ byteAt p 204 = s.faults.length % 256 ∧ byteAt p 205 = (if s.overflow then 1 else 0) ∧ byteAt p 206 < 16

/-- SET stores the value sent where the setting admits it, and else the legal value of R160 and R125: the nearer end of the
range, for a raster width or height brought down to the multiple of 16 or 8, bits that name nothing cleared, BLACK, on,
FLAT_BLENDED, 3, and each flat code above 1023 as 1023. Every other setting is left as it is. The reply is CLAMPED when
the value stored differs from the value sent, also where only bits 48 to 63 of a flat_level differ (the model's reading,
assumption log 14). A SET of notice_enable withdraws the notices of the conditions whose enable it removes and queues one of
every pending condition whose enable it grants; no other SET touches the notices. GET returns the value stored. For a channel that the arrangement lacks both are refused UNAVAILABLE. -/
def Obligations.SetStoresAndGetReturns : Prop :=
  ∀ (s : State) (c : Cell) (rest : List Cell) (id : SettingId) (k : Channel) (v : Nat), s.served c rest → v < 2 ^ 64 →
    s.settingsSound = true →
    let name := oneByte id.code ++ oneByte k
    let arr := s.straps.arrangement
    let nearest (lo hi : Nat) : Nat := if v < lo then lo else if hi < v then hi else v
    let flat (i : Nat) : Nat := if v / 2 ^ (16 * i) % 65536 ≤ 1023 then v / 2 ^ (16 * i) % 65536 else 1023
    let want : Nat := match id with
      | .channelEnable => v % 16
      | .rasterWidth => nearest 640 arr.maxWidth - nearest 640 arr.maxWidth % 16
      | .rasterHeight => nearest 480 arr.maxHeight - nearest 480 arr.maxHeight % 8
      | .framePeriodUs => nearest arr.minPeriod 100000
      | .musterOffset => nearest 16 (s.settings.rasterHeight / 2)
      | .ringLength => nearest 2 8
      | .coherenceLimit => nearest 1 255
      | .ringLossLimit => nearest 1 255
      | .inputTimeout => nearest 1 255
      | .damageLimit => nearest 0 255
      | .settleMs => nearest 0 10000
      | .relockMs => nearest 0 10000
      | .lossConfirm => nearest 1 120
      | .returnConfirm => nearest 1 600
      | .inactivePolicy => if v = 0 then 0 else 1
      | .dither => if v = 0 then 0 else 1
      | .outputMode => if v ≤ 3 then v else 3
      | .flatLevel => flat 0 + 2 ^ 16 * flat 1 + 2 ^ 32 * flat 2
      | .noticeLink => if v ≤ 3 then v else 3
      | .noticeEnable => v % 2 ^ 45
    let there : Prop := id.perChannel = true → s.hasChannel k = true
    (there → c.carries .set = true → c.payload = name ++ toLe 8 v →
      ∃ (st : Settings) (ns : List Notice),
        exec .set s = .next (({ s with settings := st, notices := ns } : State).replied c rest
          (if want = v then .ok else .clamped) (name ++ toLe 8 want) false)
        ∧ st.value id k = want
        ∧ settingAdmits arr s.settings id want = true
        ∧ (settingAdmits arr s.settings id v = true → want = v)
        ∧ (∀ (id' : SettingId) (k' : Channel), (id' ≠ id ∨ (id.perChannel = true ∧ k' ≠ k)) →
            st.value id' k' = s.settings.value id' k')
        ∧ (id ≠ .noticeEnable → ns = s.notices)
        ∧ (id = .noticeEnable → s.noticesFollow { s with settings := st, notices := ns }
            (fun n => s.enabled n = true ∧ want.testBit n = false)
            (fun n => s.enabled n = false ∧ want.testBit n = true ∧ s.isPending n = true)))
    ∧ (there → c.carries .get = true → c.payload = name →
      exec .get s = .next (s.replied c rest .ok (name ++ toLe 8 (s.settings.value id k)) false))
    ∧ (¬there → (c.carries .set = true → c.payload = name ++ toLe 8 v →
        exec .set s = .next (s.replied c rest .unavailable [] false))
      ∧ (c.carries .get = true → c.payload = name → exec .get s = .next (s.replied c rest .unavailable [] false)))

/-- CLEAR: the reply carries the pending set as it was; the latch of each event condition named is cleared and its notice
withdrawn; level conditions, other latches and other notices are as they were. -/
def Obligations.ClearClearsNamedEvents : Prop :=
  ∀ (s : State) (c : Cell) (rest : List Cell), s.served c rest → c.carries .clear = true → c.payload.length = 6 →
    let named (d : Cond) : Bool := (field c.payload 0 6).testBit d && !Cond.isLevel d
    ∃ (p : Bytes) (latches : BitVec 45),
      exec .clear s = .next (({ s with latches := latches, notices := s.notices.filter fun n => !named n.cond } : State).replied c rest
        .ok p false)
      ∧ p.length = 6 ∧ (∀ d : Cond, (field p 0 6).testBit d = s.isPending d) ∧ field p 0 6 < 2 ^ 45
      ∧ ∀ d : Cond, latches.getLsbD d = (s.latches.getLsbD d && !named d)

/-- FAULT READ removes and returns the oldest record with the overflow flag as it stood, clears the flag when the log
becomes empty, and on an empty log returns no record. -/
def Obligations.FaultReadRemovesOldest : Prop :=
  ∀ (s : State) (c : Cell) (rest : List Cell), s.served c rest → c.carries .faultRead = true → c.payload = [] →
    let o : Byte := if s.overflow then 1 else 0
    (s.faults = [] → exec .faultRead s = .next (s.replied c rest .ok [o, 0] false))
    ∧ (∀ (f : FaultRecord), s.faults = [f] →
        exec .faultRead s = .next (({ s with faults := [], overflow := false } : State).replied c rest .ok ([o, 1] ++ f.bytes) false))
    ∧ ∀ (f g : FaultRecord) (fs : List FaultRecord), s.faults = f :: g :: fs →
        exec .faultRead s = .next (({ s with faults := g :: fs } : State).replied c rest .ok ([o, 1] ++ f.bytes) false)

/-- RESTART OUTPUT: a port that is not ABSENT goes to SETTLING with its countdown loaded with settle_ms, its lock record
kept, and no condition raised; an ABSENT port is refused with STATE and a channel the arrangement lacks with UNAVAILABLE. -/
def Obligations.RestartOutputSettles : Prop :=
  ∀ (s : State) (c : Cell) (rest : List Cell) (k : Channel), s.served c rest → c.carries .restartOutput = true →
    c.payload = oneByte k →
    (s.hasChannel k = false → exec .restartOutput s = .next (s.replied c rest .unavailable [] false))
    ∧ (s.hasChannel k = true → (s.outputs.get k).state = .absent →
        exec .restartOutput s = .next (s.replied c rest .state [] false))
    ∧ (s.hasChannel k = true → (s.outputs.get k).state ≠ .absent → 0 < s.settings.settleMs →
        ∃ (w : Quad WarpUnit) (l : Quad LightUnit),
          exec .restartOutput s = .next (({ s with
            outputs := s.outputs.set k { s.outputs.get k with
              state := .settling, expires := some (s.now + s.settings.settleMs * 100000) }
            warps := w
            lights := l } : State).replied c rest .ok [] false)
          ∧ ((s.outputs.get k).state ≠ .active → w = s.warps ∧ l = s.lights)
          ∧ ((s.outputs.get k).state = .active → (w.get k).walk = none ∧ (l.get k).form = .noLines)
          ∧ ∀ j : Channel, j ≠ k → w.get j = s.warps.get j ∧ l.get j = s.lights.get j)

/-! ### The table store -/

/-- TABLE OPEN accepted, no fill running: the lowest free record and the first free run hold a staged FILLING instance, the
fill begins at its first page, and the reply is ACCEPTED. That the instance reads as its defaults (no contents, none bad)
before its pages are filled is the model's choice (assumption log 23). -/
def Obligations.OpenCreatesFilling : Prop :=
  ∀ (s : State) (c : Cell) (rest : List Cell) (key : Key) (d : Dims) (n p : Nat), s.served c rest →
    c.carries .tableOpen = true → d.spacing < 256 → d.cols < 65536 → d.rows < 65536 →
    c.payload = key.bytes ++ oneByte d.spacing ++ toLe 2 d.cols ++ toLe 2 d.rows →
    s.keyAbsent key = false → s.loader.starting = false → s.loader.loading = false →
    findTable s.tables.directory key .staged = none → key.dimsLegal d = true → s.tables.fill = none →
    let arr := s.straps.arrangement
    let dir := s.tables.directory
    let pages := key.pages (key.dimsKept d)
    (n < 64 ∧ Assoc.find dir n = none ∧ ∀ m, m < n → Assoc.find dir m ≠ none) →
    (arr.linePages ≤ p ∧ p + pages ≤ 512 ∧ (∀ q, p ≤ q → q < p + pages → pageUsed dir q = false)
      ∧ ∀ p', arr.linePages ≤ p' → p' < p → ∃ q, p' ≤ q ∧ q < p' + pages ∧ pageUsed dir q = true) →
    exec .tableOpen s = .next (({ s with tables := { s.tables with
        directory := Assoc.insert dir n
          { key := key, state := .filling, firstPage := p, pageCount := pages, dims := key.dimsKept d, locked := false,
            dropMark := false, contents := [], bad := [] }
        fill := some ⟨n, 0, c.tag, c.link⟩ } } : State).replied c rest .accepted [] false)

/-- DEFAULT_FILL_PAGE_DONE: every entry whose bytes begin in the page reads as its default with good parity, the others as
before; after the last page the instance is OPEN, the fill is over and its completion joins those that wait, unless its link is DOWN. -/
def Obligations.FillPageWritesDefaults : Prop :=
  ∀ (s : State) (f : FillOp) (r : TableRecord), s.tables.fill = some f → Assoc.find s.tables.directory f.record = some r →
    ∃ (r' : TableRecord) (fill : Option FillOp) (due : List Completion),
      exec .defaultFillPageDone s = .next { s with tables := { s.tables with
        directory := Assoc.insert s.tables.directory f.record r', fill := fill, fillDue := due } }
      ∧ (∀ i : Nat, r'.read i = if r.pageOf i = r.firstPage + f.nextPage then r.default i else r.read i)
      ∧ (∀ i : Nat, r.pageOf i = r.firstPage + f.nextPage → i ∉ r'.bad)
      ∧ (f.nextPage + 1 < r.pageCount → r'.state = r.state ∧ fill = some { f with nextPage := f.nextPage + 1 }
          ∧ due = s.tables.fillDue)
      ∧ (r.pageCount ≤ f.nextPage + 1 → r'.state = .open ∧ fill = none
          ∧ due = s.tables.fillDue ++ if (s.inputs.get f.link).link = .down then [] else [⟨f.link, f.tag, .ok⟩])

/-- TABLE WRITE, in FULL mode or of one field in FIELD mode, to an OPEN unlocked instance: each entry named holds
afterwards its payload entry, or its stored entry with the field taken from the payload, brought into range; every other
entry is as before, and the reply is CLAMPED exactly when a value was clamped. An entry whose parity fails reads as its
default until a write of all its fields (the model's reading, log 5). -/
def Obligations.WriteStoresEntries : Prop :=
  ∀ (s : State) (c : Cell) (rest : List Cell) (key : Key) (mode : Bool) (fieldByte : Byte) (named : Option FieldName)
      (start count n : Nat) (data : Bytes) (r : TableRecord),
    s.served c rest → c.carries .tableWrite = true → start < 2 ^ 32 → data.length ≤ 1024 →
    named = (if mode then key.fieldOf fieldByte.toNat else none) → (mode = true → named ≠ none) →
    c.payload = key.bytes ++ [if mode then 1 else 0, fieldByte] ++ toLe 4 start ++ toLe 2 count ++ data →
    s.keyAbsent key = false → s.loader.starting = false → findTable s.tables.directory key .staged = some (n, r) →
    let size := match named with
      | none => key.entryBytes
      | some f => f.bytes
    r.state = .open → r.locked = false → 1 ≤ count → start + count ≤ r.entryCount → data.length = count * size →
    let sent (i : Nat) : Entry × Bool :=
      let b := slice data (i * size) size
      match named with
      | none => key.entryOfBytes (start + i) b
      | some f => ((Assoc.find r.contents (start + i)).getD (r.default (start + i))).withField f (start + i) b
    ∃ (r' : TableRecord) (st : Status),
      exec .tableWrite s = .next
        (({ s with tables := { s.tables with directory := Assoc.insert s.tables.directory n r' } } : State).replied c rest st [] false)
      ∧ (∀ i : Nat, i < count → (named = none ∨ named = some .value ∨ start + i ∉ r.bad) → r'.read (start + i) = (sent i).1)
      ∧ (∀ i : Nat, i < start ∨ start + count ≤ i → r'.read i = r.read i)
      ∧ { r' with contents := r.contents, bad := r.bad } = r
      ∧ (st = .clamped ↔ ∃ i, i < count ∧ (sent i).2 = true) ∧ (st = .clamped ∨ st = .ok)

/-- TABLE READ, in FULL mode or of one field in FIELD mode, of an instance that is not FILLING: the reply carries the
entries or fields named, in order, in the form a WRITE takes, an entry whose parity fails as its default; with good parity
nothing else changes. -/
def Obligations.ReadReturnsEntries : Prop :=
  ∀ (s : State) (c : Cell) (rest : List Cell) (key : Key) (bank : Bank) (mode : Bool) (fieldByte : Byte)
      (named : Option FieldName) (start count n : Nat) (r : TableRecord),
    s.served c rest → c.carries .tableRead = true → start < 2 ^ 32 →
    named = (if mode then key.fieldOf fieldByte.toNat else none) → (mode = true → named ≠ none) →
    c.payload = key.bytes ++ [bank.code, if mode then 1 else 0, fieldByte] ++ toLe 4 start ++ toLe 2 count →
    s.keyAbsent key = false → s.loader.starting = false → findTable s.tables.directory key bank = some (n, r) →
    let size := match named with
      | none => key.entryBytes
      | some f => f.bytes
    r.state ≠ .filling → 1 ≤ count → start + count ≤ r.entryCount → count * size ≤ 1024 →
    let p : Bytes := (List.range' start count).flatMap fun i => match named with
      | none => (r.read i).bytes
      | some f => (r.read i).fieldBytes f
    exec (.tableRead []) s = .next ((s.recordFaults (r.parityFaults none (List.range' start count))).replied c rest .ok p false)
    ∧ (r.bad = [] → exec (.tableRead []) s = .next (s.replied c rest .ok p false))

/-- SEAL makes an OPEN unlocked instance SEALED; DROP of the staged bank removes an OPEN or SEALED unlocked instance at
once; DROP of the LIVE bank, with no STORE running, leaves the instance LIVE with its drop mark. -/
def Obligations.SealAndDropActOnState : Prop :=
  ∀ (s : State) (c : Cell) (rest : List Cell) (key : Key) (n : Nat) (r : TableRecord), s.served c rest →
    s.keyAbsent key = false → s.loader.starting = false → s.loader.loading = false →
    let with_ (dir : Assoc TableRecord) : State := { s with tables := { s.tables with directory := dir } }
    (c.carries .tableSeal = true → c.payload = key.bytes → findTable s.tables.directory key .staged = some (n, r) →
      r.state = .open → r.locked = false →
      exec .tableSeal s = .next
        ((with_ (Assoc.insert s.tables.directory n { r with state := .sealed })).replied c rest .ok [] false))
    ∧ (c.carries .tableDrop = true → c.payload = key.bytes ++ [1] →
      findTable s.tables.directory key .staged = some (n, r) → (r.state = .open ∨ r.state = .sealed) → r.locked = false →
      exec .tableDropStaged s = .next ((with_ (Assoc.erase s.tables.directory n)).replied c rest .ok [] false))
    ∧ (c.carries .tableDrop = true → c.payload = key.bytes ++ [0] → findTable s.tables.directory key .live = some (n, r) →
      s.loader.storing = false →
      exec .tableDropLive s = .next
        ((with_ (Assoc.insert s.tables.directory n { r with dropMark := true })).replied c rest .ok [] false))

/-- TABLE SWAP with none pending, of a list of SEALED keys or of ALL_SEALED, which stands for the keys of all SEALED
instances: each named staged instance takes its locked mark, and the pending swap holds the keys and the target, not
deferred. ALL_SEALED with no SEALED instance is refused STATE. (The keys of ALL_SEALED in record order: the model's choice,
assumption log 15.) -/
def Obligations.SwapLocksSealed : Prop :=
  ∀ (s : State) (c : Cell) (rest : List Cell) (target : Option FrameNo), s.served c rest →
    c.carries .tableSwap = true → s.loader.starting = false → s.loader.loading = false → s.tables.swap = none →
    let payload (all : Bool) (keys : List Key) : Bytes :=
      [(if target.isSome then 1 else 0) + (if all then 2 else 0)] ++ toLe 2 ((target.getD 0).toNat) ++ oneByte keys.length
        ++ keys.flatMap Key.bytes
    let swaps (keys : List Key) : Prop := ∃ dir : Assoc TableRecord,
      exec .tableSwap s = .next
        (({ s with tables := { s.tables with directory := dir, swap := some ⟨keys, target, false⟩ } } : State).replied
          c rest .ok [] false)
      ∧ ∀ n : Nat, Assoc.find dir n = (Assoc.find s.tables.directory n).map fun r =>
          if r.state = .sealed ∧ r.key ∈ keys then { r with locked := true } else r
    (∀ keys : List Key, 1 ≤ keys.length → keys.length ≤ 25 → keyTwice keys = false →
      (∀ key ∈ keys, s.keyAbsent key = false ∧ ∃ e ∈ s.tables.directory, e.2.key = key ∧ e.2.state = .sealed) →
      c.payload = payload false keys → swaps keys)
    ∧ (c.payload = payload true [] →
      let keys : List Key := (s.tables.directory.filter fun e => e.2.state == .sealed).map fun e => e.2.key
      (keys ≠ [] → swaps keys) ∧ (keys = [] → exec .tableSwap s = .next (s.replied c rest .state [] false)))

/-- TABLE LIST replies with the summary and up to 48 records from the start number: 93 + 16·r bytes, with the page counts, the
largest free run and its first page, the record counts, the key of the instance being filled, the pending swap, and each
record in its place, field by field. Nothing changes but the model's free-value counter, which names one of several
longest runs (assumption log 3). -/
def Obligations.ListReportsDirectory : Prop :=
  ∀ (s : State) (c : Cell) (rest : List Cell) (start : Nat), s.served c rest → c.carries .tableList = true → start ≤ 63 →
    c.payload = oneByte start → s.loader.starting = false → s.swapKeys.length ≤ 25 → s.tables.directory.length ≤ 64 →
    let dir := s.tables.directory
    let above := dir.filter fun e => decide (start ≤ e.1)
    let r := min 48 above.length
    let free (q : Nat) : Prop := s.straps.arrangement.linePages ≤ q ∧ q < 512 ∧ pageUsed dir q = false
    let run (q n : Nat) : Prop := ∀ i, i < n → free (q + i)
    ∃ p : Bytes, exec .tableList s = .next (({ s with free := s.free + 1 } : State).replied c rest .ok p false)
      ∧ p.length = 93 + 16 * r ∧ field p 0 2 = (if s.straps.arrangement = .c then 384 else 448)
      ∧ field p 2 2 = freePages s.straps.arrangement dir
      ∧ (let n := field p 4 2
        let q := field p 6 2
        (n = 0 ↔ ∀ a, ¬free a) ∧ (n = 0 → q = 0xFFFF) ∧ (0 < n → run q n) ∧ ∀ q' n' : Nat, run q' n' → n' ≤ n)
      ∧ byteAt p 8 = dir.length ∧ byteAt p 9 = r ∧ byteAt p 10 = (if 48 < above.length then 1 else 0)
      ∧ (s.tables.fill = none → slice p 11 3 = [0xFF, 0xFF, 0xFF])
      ∧ (∀ (f : FillOp) (x : TableRecord), s.tables.fill = some f → Assoc.find dir f.record = some x → slice p 11 3 = x.key.bytes)
      ∧ (s.tables.swap = none → slice p 14 4 = [0, 0, 0, 0] ∧ slice p 18 75 = List.replicate 75 0xFF)
      ∧ (∀ w : PendingSwap, s.tables.swap = some w →
          byteAt p 14 = 1 + (if w.target.isSome then 2 else 0) + (if w.deferred then 4 else 0)
          ∧ slice p 15 2 = toLe 2 (w.target.getD 0).toNat ∧ byteAt p 17 = w.keys.length
          ∧ (∀ (i : Nat) (key : Key), w.keys[i]? = some key → slice p (18 + 3 * i) 3 = key.bytes)
          ∧ ∀ i : Nat, 3 * w.keys.length ≤ i → i < 75 → byteAt p (18 + i) = 255)
      ∧ ∀ (i n : Nat) (x : TableRecord), i < r → above[i]? = some (n, x) →
          let at_ := 93 + 16 * i
          let d := x.dims.getD ⟨0, 0, 0⟩
          slice p at_ 1 = toLe 1 n ∧ slice p (at_ + 1) 3 = x.key.bytes
          ∧ byteAt p (at_ + 4) = (if x.state = .live then 0 else 1)
          ∧ byteAt p (at_ + 5) = (match x.state with
              | .filling => 0
              | .open => 1
              | .sealed => 2
              | .live => 3)
          ∧ byteAt p (at_ + 6) = (if x.locked then 1 else 0) + (if x.dropMark then 2 else 0)
          ∧ slice p (at_ + 7) 1 = toLe 1 d.spacing
          ∧ slice p (at_ + 8) 2 = toLe 2 x.firstPage ∧ slice p (at_ + 10) 2 = toLe 2 x.pageCount
          ∧ slice p (at_ + 12) 2 = toLe 2 d.cols ∧ slice p (at_ + 14) 2 = toLe 2 d.rows

/-- A completion that waits takes a free entry of its link's reply queue, is discarded when the link is DOWN, and waits on
when the queue is full; in the first two cases it waits no more. Any one of the completions of ended fills may be the one
taken (the model's choice, assumption log 12), and the image loader's record is free with its completion. -/
def Obligations.CompletionTakesFreeEntry : Prop :=
  ∀ (s : State) (d : Completion),
    let l := s.lanes.get d.link
    let down := (s.inputs.get d.link).link = .down
    let placed : Quad ReverseLane := s.lanes.set d.link { l with replies := l.replies ++ [.completion d.tag d.status] }
    (∀ n : Nat, s.tables.fillDue[n]? = some d →
      let others : TableStore := { s.tables with fillDue := s.tables.fillDue.take n ++ s.tables.fillDue.drop (n + 1) }
      exec (.completionEnqueue (.fill n)) s = .next
        (if down then { s with tables := others }
         else if l.replies.length < 16 then { s with tables := others, lanes := placed } else s))
    ∧ (s.loader.due = some d → exec (.completionEnqueue .image) s = .next
      (if down then { s with loader := { s.loader with due := none } }
       else if l.replies.length < 16 then { s with loader := { s.loader with due := none }, lanes := placed } else s))

/-- The table changes of every frame start, made by the timer, a pulse or the follower itself. With no STORE running, a swap
takes effect when it is deferred, has no target, or the mode after the decision is LOOSE, or the shown frame number after
it has reached the target: each key's old LIVE instance is gone, its staged one is LIVE and unlocked, SWAP_DONE is raised,
and SWAP_LATE where the swap was deferred or LOOSE made a targeted one due. Marked LIVE instances are gone in any case, and
every other record stands. While a STORE runs, a due swap takes its deferred mark and nothing else changes. -/
def Obligations.SwapPromotesAtFrameStart : Prop :=
  ∀ (s : State) (i : Instr), s.directorySound = true →
    ((i = .frameStart [] ∧ s.straps.role ≠ .follower) ∨ ((i = .syncPulse [] ∨ i = .ownStart []) ∧ s.straps.role = .follower)) →
    ∃ t : State, exec i s = .next t ∧
      let due (w : PendingSwap) : Prop := w.target = none ∨ t.coh.mode = .loose
        ∨ ∃ f g, w.target = some f ∧ t.coh.shown = some g ∧ (g = f ∨ newer g f = true)
      let find (n : Nat) : Option TableRecord := Assoc.find s.tables.directory n
      let same (c : Cond) : Prop := t.latches.getLsbD c = s.latches.getLsbD c
      (∀ n : Nat, find n = none → Assoc.find t.tables.directory n = none)
      ∧ (s.loader.storing = true → t.tables.directory = s.tables.directory ∧ same Cond.swapDone ∧ same Cond.swapLate
          ∧ (s.tables.swap = none → t.tables.swap = none)
          ∧ ∀ w, s.tables.swap = some w → ∃ d : Bool, t.tables.swap = some { w with deferred := d }
              ∧ (d = true ↔ w.deferred = true ∨ due w))
      ∧ (s.loader.storing = false → ∀ w, s.tables.swap = some w → (w.deferred = true ∨ due w) →
          t.tables.swap = none ∧ t.latches.getLsbD Cond.swapDone = true
          ∧ (t.latches.getLsbD Cond.swapLate = true ↔
              s.latches.getLsbD Cond.swapLate = true ∨ w.deferred = true ∨ (w.target ≠ none ∧ t.coh.mode = .loose))
          ∧ ∀ (n : Nat) (r : TableRecord), find n = some r → Assoc.find t.tables.directory n =
              if r.state = .live then (if r.key ∈ w.keys ∨ r.dropMark = true then none else some r)
              else if r.key ∈ w.keys then some { r with state := .live, locked := false } else some r)
      ∧ (s.loader.storing = false → (∀ w, s.tables.swap = some w → ¬(w.deferred = true ∨ due w)) →
          t.tables.swap = s.tables.swap ∧ same Cond.swapDone ∧ same Cond.swapLate
          ∧ ∀ (n : Nat) (r : TableRecord), find n = some r → Assoc.find t.tables.directory n =
              if r.state = .live ∧ r.dropMark = true then none else some r)

/-! ### The calibration image -/

/-- STORE and LOAD with an image operation running or its completion waiting are refused BUSY. STORE: the settings copied,
exactly the LIVE instances without a drop mark taken, the image state BAD and phase 1 begun. LOAD of a good image: for each
of its tables in the arrangement, in image order, a staged FILLING instance with the image's key and dimensions in the
lowest free record and the first-fit run, each allocation counting the ones before it; NO_SPACE where a record or a run is
wanting, STATE where one of the keys has a staged instance; with no image NO_TABLE, with a bad one NO_TABLE and IMAGE_CHECK,
and where the form read is not correct the image state becomes BAD with them. A refused LOAD creates nothing. That an
instance reads as its defaults before its data is written is the model's choice (assumption log 23), and that a completion
that waits keeps the loader busy its reading (log 12). -/
def Obligations.StoreAndLoadBegin : Prop :=
  ∀ (s : State) (c : Cell) (rest : List Cell), s.served c rest → c.payload = [] →
    let refused (i : Instr) (st : Status) : Prop := exec i s = .next (s.replied c rest st [] false)
    let free : Prop := s.loader.op = none ∧ s.loader.due = none
    let spoilt (t : State) : Prop :=
      exec .load s = .next ((t.recordFault ⟨.imageCheck, none, none, .absent⟩).replied c rest .noTable [] false)
    (c.carries .store = true → ¬free → refused .store .busy)
    ∧ (c.carries .store = true → free → s.directorySound = true → (∀ e ∈ s.tables.directory, s.keyAbsent e.2.key = false) →
      ∃ ns : List Nat,
        exec .store s = .next (({ s with loader :=
          ⟨some (.store c.link c.tag .p1 s.settings ns), none, .bad⟩ } : State).replied c rest .accepted [] false)
        ∧ ∀ n : Nat, n ∈ ns ↔ ∃ r, Assoc.find s.tables.directory n = some r ∧ r.state = .live ∧ r.dropMark = false)
    ∧ (c.carries .load = true →
      (¬free → refused .load .busy)
      ∧ (free → s.loader.image = .none → refused .load .noTable)
      ∧ (free → s.loader.image = .bad → spoilt s)
      ∧ (free → s.loader.image = .good → imageTables s.flash = none →
          spoilt { s with loader := { s.loader with image := .bad } })
      ∧ ∀ ts : List ImageTable, free → s.loader.image = .good → imageTables s.flash = some ts →
        let used := ts.filter fun t => !s.keyAbsent t.key
        let staged (x : ImageTable) : Prop := ∃ e ∈ s.tables.directory, e.2.key = x.key ∧ e.2.state ≠ .live
        let record (d : Assoc TableRecord) (n : Nat) : Prop := n < 64 ∧ Assoc.find d n = none ∧ ∀ m, m < n → Assoc.find d m ≠ none
        let run (d : Assoc TableRecord) (x : ImageTable) (p : Nat) : Prop :=
          s.straps.arrangement.linePages ≤ p ∧ p + x.key.pages x.dims ≤ 512
            ∧ ∀ q, p ≤ q → q < p + x.key.pages x.dims → pageUsed d q = false
        let fit (d : Assoc TableRecord) (x : ImageTable) (p : Nat) : Prop := run d x p ∧ ∀ p', p' < p → ¬run d x p'
        let made (x : ImageTable) (p : Nat) : TableRecord := ⟨x.key, .filling, p, x.key.pages x.dims, x.dims, false, false, [], []⟩
        ((∃ x ∈ used, staged x) → refused .load .state)
        ∧ ∀ (dirs : Nat → Assoc TableRecord) (records pages : Nat → Nat), (∀ x ∈ used, ¬staged x) →
          dirs 0 = s.tables.directory →
          let allocates (i : Nat) : Prop := ∀ x, used[i]? = some x → record (dirs i) (records i) ∧ fit (dirs i) x (pages i)
            ∧ dirs (i + 1) = Assoc.insert (dirs i) (records i) (made x (pages i))
          ((∀ i, i < used.length → allocates i) →
            exec .load s = .next (({ s with
              tables := { s.tables with directory := dirs used.length }
              loader := ⟨some (.load c.link c.tag ((List.range used.length).map records |>.zip (used.map (·.offset)))), none, .good⟩ } :
                State).replied c rest .accepted [] false)
            ∧ ∀ n r, Assoc.find s.tables.directory n = some r → Assoc.find (dirs used.length) n = some r)
          ∧ ∀ (i : Nat) (x : ImageTable), (∀ j, j < i → allocates j) → used[i]? = some x →
              ((∀ n, ¬record (dirs i) n) ∨ ∀ p, ¬run (dirs i) x p) → refused .load .noSpace)

/-- The phases of a STORE: phase 1 leaves the magic alone in an erased header sector, phase 2 erases the other sectors of
the image and no other byte, phase 3 programs the settings and directory records and after them the entries of every
table, an entry whose parity fails as its default and recorded as POOL_PARITY, and phase 4 leaves the body length, a correct
CRC-32 and the counts of settings and directory records in the header, the image GOOD and COMPLETE OK due. A failed flash
operation ends the STORE with FLASH_WRITE recorded, after the POOL_PARITY records of what the phase had read, the image BAD
and COMPLETE FAILED due. The order of the settings
records, the bytes 0 where the layout ignores a byte, and the sectors taken as the image region are the model's choice
(assumption log 7). -/
def Obligations.StorePhasesEndGood : Prop :=
  ∀ (s : State) (link : Channel) (tag : Byte) (st : Settings) (ns : List Nat),
    let running (p : StorePhase) : ImageOp := .store link tag p st ns
    let due (x : CompletionStatus) : Option Completion :=
      if (s.inputs.get link).link = .down then none else some ⟨link, tag, x⟩
    (s.loader.op = some (running .p1) → ∃ m : Assoc Byte,
      exec (.storePhaseDone []) s = .next { s with flash := m, loader := { s.loader with op := some (running .p2) } }
      ∧ Memory.readBytes m 0 4 = [0xC4, 0x12, 0xDA, 0x7E]
      ∧ ∀ a : Nat, 4 ≤ a → Memory.read m a = if a < 65536 then 0xFF else Memory.read s.flash a)
    ∧ (s.loader.op = some (running .p2) → ∃ m : Assoc Byte,
      exec (.storePhaseDone []) s = .next { s with flash := m, loader := { s.loader with op := some (running .p3) } }
      ∧ ∀ a : Nat, Memory.read m a =
          if 65536 ≤ a ∧ a / 65536 ≤ (13 + imageLength st (recordsIn s.tables.directory ns)) / 65536 then 0xFF
          else Memory.read s.flash a)
    ∧ (s.loader.op = some (running .p3) →
      let rs := recordsIn s.tables.directory ns
      ∃ (m : Assoc Byte) (gs : List FaultRecord) (o : Bool) (l : BitVec 45) (qs : List Notice),
      exec (.storePhaseDone []) s = .next
        { s with flash := m, loader := { s.loader with op := some (running .p4) }, faults := gs, overflow := o, latches := l,
                 notices := qs }
      ∧ ((∀ r ∈ rs, r.bad = []) → gs = s.faults ∧ o = s.overflow ∧ l = s.latches ∧ qs = s.notices)
      ∧ (s.directorySound = true →
          s.logsFaults (rs.flatMap fun r => r.parityFaults none (List.range r.entryCount)) gs o l qs)
      ∧ (14 + (imageHead st rs).length ≤ Config.flashBytes →
          Memory.readBytes m 14 (imageHead st rs).length = imageHead st rs)
      ∧ (14 + imageLength st rs ≤ Config.flashBytes → s.directorySound = true →
          ∀ (before after : List TableRecord) (r : TableRecord) (i : Nat), rs = before ++ r :: after → i < r.entryCount →
            Memory.readBytes m
              (14 + (imageHead st rs).length + (before.map fun x => x.entryCount * x.key.entryBytes).sum + i * r.key.entryBytes)
              r.key.entryBytes = (r.read i).bytes)
      ∧ ∀ a : Nat, a < 14 → Memory.read m a = Memory.read s.flash a)
    ∧ (s.loader.op = some (running .p4) → imageLength st (recordsIn s.tables.directory ns) < 2 ^ 32 →
      headerBytes + imageLength st (recordsIn s.tables.directory ns) ≤ Config.flashBytes → ∃ m : Assoc Byte,
      exec (.storePhaseDone []) s = .next { s with flash := m, loader := ⟨none, due .ok, .good⟩ }
      ∧ Memory.readBytes m 12 2 = [32, BitVec.ofNat 8 (recordsIn s.tables.directory ns).length]
      ∧ crcCorrect m = true ∧ bodyLength m = imageLength st (recordsIn s.tables.directory ns)
      ∧ ∀ a : Nat, a < 4 ∨ 14 ≤ a → Memory.read m a = Memory.read s.flash a)
    ∧ ∀ (p : StorePhase) (done : Nat), s.loader.op = some (running p) →
      ∃ (m : Assoc Byte) (gs : List FaultRecord) (o : Bool) (l : BitVec 45) (qs : List Notice),
      exec (.flashWriteFailed done) s = .next
        { s with flash := m, loader := ⟨none, due .failed, .bad⟩, faults := gs, overflow := o, latches := l, notices := qs }
      ∧ ∃ fs : List FaultRecord, s.logsFaults (fs ++ [⟨.flashWrite, none, none, .absent⟩]) gs o l qs ∧ (p ≠ .p3 → fs = [])
        ∧ ∀ f ∈ fs, ∃ r ∈ recordsIn s.tables.directory ns, ∃ i ∈ r.bad,
            f = ⟨.poolParity, r.key.channel, none, .page (r.pageOf i)⟩

/-- LOAD_READ_DONE: with a correct CRC every instance of the LOAD is SEALED with the entries of the image; with a wrong one
every instance is removed, IMAGE_CHECK is recorded and the image state is BAD. Other records stand. That an entry of the
image with a value out of range is stored as a TABLE WRITE in FULL mode would store it is the model's deduction (assumption
log 13). -/
def Obligations.LoadReadSealsOrRemoves : Prop :=
  ∀ (s : State) (link : Channel) (tag : Byte) (loads : List (Nat × Nat)), s.loader.op = some (.load link tag loads) →
    (loads.map (·.1)).Nodup →
    let due (x : CompletionStatus) : Option Completion :=
      if (s.inputs.get link).link = .down then none else some ⟨link, tag, x⟩
    (crcCorrect s.flash = true → ∃ dir : Assoc TableRecord,
      exec .loadReadDone s = .next { s with tables := { s.tables with directory := dir },
                                            loader := ⟨none, due .ok, s.loader.image⟩ }
      ∧ (∀ n : Nat, n ∉ loads.map (·.1) → Assoc.find dir n = Assoc.find s.tables.directory n)
      ∧ ∀ (n off : Nat) (r : TableRecord), (n, off) ∈ loads → Assoc.find s.tables.directory n = some r →
          ∃ r', Assoc.find dir n = some r' ∧ r'.state = .sealed ∧ r'.key = r.key ∧ r'.dims = r.dims
            ∧ r'.firstPage = r.firstPage ∧ r'.pageCount = r.pageCount
            ∧ ∀ i, i < r.entryCount → r'.read i = (r.key.entryOfBytes i
                (Memory.readBytes s.flash (14 + off + i * r.key.entryBytes) r.key.entryBytes)).1)
    ∧ (crcCorrect s.flash = false → ∃ dir : Assoc TableRecord,
      exec .loadReadDone s = .next (({ s with
        tables := { s.tables with directory := dir }
        loader := ⟨none, due .failed, .bad⟩ } : State).recordFault ⟨.imageCheck, none, none, .absent⟩)
      ∧ ∀ n : Nat, Assoc.find dir n = if n ∈ loads.map (·.1) then none else Assoc.find s.tables.directory n)

/-! ### Reverse lanes -/

/-- A free lane of a LOCKED port begins the lowest-numbered notice where it is the notice link, and else its oldest reply
or completion, which leaves its queue; the end of a sending frees the lane and, where the message was the reply of a RESET
FULL, lets the reset take effect. -/
def Obligations.ReverseLaneSendsInOrder : Prop :=
  ∀ (s : State) (k : Channel),
    let l := s.lanes.get k
    ((s.inputs.get k).link = .locked → l.sending = none →
      (∀ (n : Notice) (ns : List Notice), s.settings.noticeLink = k → s.notices = n :: ns →
        exec (.reverseLaneSend k) s = .next
          { s with notices := ns, lanes := s.lanes.set k { l with sending := some ⟨n.message, false⟩ } })
      ∧ (∀ (e : QueueEntry) (es : List QueueEntry), (s.settings.noticeLink ≠ k ∨ s.notices = []) → l.replies = e :: es →
        exec (.reverseLaneSend k) s = .next
          { s with lanes := s.lanes.set k { l with replies := es, sending := some ⟨e.message, e.isReset⟩ } }))
    ∧ ∀ m : Sending, l.sending = some m →
      exec (.reverseSendEnd k) s = .next
        { s with
          lanes := s.lanes.set k { l with sending := none, sent := l.sent ++ [m.message] }
          resetWait := if m.resets then s.resetWait.map fun w => { w with answered := true } else s.resetWait }

/-! ### The raster timer -/

/-- A frame start, made by the timer on a master or solo part, by a pulse or by the follower itself, begins a frame on the
stored raster. The timer: first deadline to come, muster line placed, muster done clear. The outputs: modes taken, every
driven port through a raster change to SETTLING, a frame-start mark on every driven lane. The loss selector: each filter
moved on the port as it stood, the applied vector as handed or with the part's own bits, PRESENCE_CHANGED on a change of it,
chosen and selected sets, SET_MISSING. The table store: unfit exactly where the LIVE MESH or the BLEND in use does not fit.
The channel: MESH and parameters taken, the form by the first condition that holds, the walk begun, tiles of another slot
than the one SHOWN given up or cancelled. Reserved marks clear, quiet counts advance, and the counts of pulses and own
starts go as their rules give. (The clock is brought to the moment the frame start is due: the model's choice, assumption
log 4. Which 1⅛ frame period that is in whole periods: log 20.) -/
def Obligations.FrameStartsBeginFrame : Prop :=
  ∀ s : State,
    let st := s.settings
    let changed : Prop := st.rasterWidth ≠ s.timer.width ∨ st.rasterHeight ≠ s.timer.height ∨ st.framePeriodUs ≠ s.timer.periodUs
    let handed : Option Vec32 := s.coh.pending.bind fun p => p.vector
    let begun (at_ : Nat) (own : Bool) (t : State) : Prop :=
      let dir := t.tables.directory
      let taken (key : Key) : Option Nat := if s.loader.starting then none else (findTable dir key .live).map (·.1)
      let fits (r : TableRecord) : Prop := ∃ d, r.dims = some d ∧ d.cols = (st.rasterWidth + d.spacing - 1) / d.spacing + 1
        ∧ d.rows = (st.rasterHeight + d.spacing - 1) / d.spacing + 1
      t.now = at_ ∧ t.settings = st
      ∧ t.timer = { width := st.rasterWidth, height := st.rasterHeight, periodUs := st.framePeriodUs, start := at_,
                    phase := .activeLines 0,
                    musterLine := st.rasterHeight - clampNat 16 (st.rasterHeight / 2) st.musterOffset - 1,
                    musterDone := false, begun := true, ownLast := own }
      ∧ t.coh.pending = none ∧ t.coh.musterMark = false
      ∧ t.pending = s.pending ∧ t.straps = s.straps ∧ t.inputs = s.inputs ∧ t.cells = s.cells ∧ t.resetWait = s.resetWait
      ∧ t.lanes = s.lanes ∧ t.loader = s.loader ∧ t.flash = s.flash ∧ t.ringOut = s.ringOut
      ∧ t.tables.fill = s.tables.fill ∧ t.tables.fillDue = s.tables.fillDue
      ∧ (∀ j : Channel, t.loss.applied.getLsbD (s.straps.firstBit + j) = (match handed with
          | some v => v.getLsbD (s.straps.firstBit + j)
          | none => t.loss.confirmed.get j))
      ∧ (∀ n : Nat, n < s.straps.firstBit ∨ s.straps.firstBit + 4 ≤ n → n < 32 →
          t.loss.applied.getLsbD n = (handed.getD s.loss.applied).getLsbD n)
      ∧ (t.latches.getLsbD Cond.presenceChanged = true ↔
          s.latches.getLsbD Cond.presenceChanged = true ∨ t.loss.applied ≠ s.loss.applied)
      ∧ (∀ k : Channel, (∀ i : SlotNo, ((t.rings.get k).slots.get i).reserved = false)
          ∧ (t.rings.get k).quiet = min ((s.rings.get k).quiet + 1) 255)
      ∧ ∀ k : Channel, s.hasChannel k = true →
          let p := s.outputs.get k
          let w := s.warps.get k
          let u := t.warps.get k
          let l := t.lights.get k
          let mode := st.outputMode.get k
          let mark : List LaneItem := if p.state.drives then [.frameStart] else []
          let limit := if s.loss.confirmed.get k then st.lossConfirm else st.returnConfirm
          let shown := shownSlot (t.rings.get k).slots
          t.modes.get k = mode
          ∧ (¬(changed ∧ p.state.drives = true) → t.outputs.get k = { p with lane := p.lane ++ mark })
          ∧ (changed → p.state.drives = true → 0 < st.settleMs → t.outputs.get k =
              { p with state := .settling, expires := some (at_ + st.settleMs * 100000), lane := p.lane ++ mark })
          ∧ (s.loss.confirmed.get k = p.state.up → t.loss.confirmed.get k = p.state.up ∧ t.loss.count.get k = 0)
          ∧ (s.loss.confirmed.get k ≠ p.state.up → limit ≤ s.loss.count.get k + 1 →
              t.loss.confirmed.get k = p.state.up ∧ t.loss.count.get k = 0)
          ∧ (s.loss.confirmed.get k ≠ p.state.up → s.loss.count.get k + 1 < limit →
              t.loss.confirmed.get k = s.loss.confirmed.get k ∧ t.loss.count.get k = s.loss.count.get k + 1)
          ∧ t.loss.chosen.get k =
              chooseSet (if s.loader.starting then none else (findTable dir .lossmap .live).map (·.2)) t.loss.applied k
          ∧ (let gone : Prop := t.loss.chosen.get k ≠ 0 ∧ findTable dir (.blend k (t.loss.chosen.get k)) .live = none
            t.loss.selected.get k = (if gone then 0 else t.loss.chosen.get k) ∧ (t.loss.setMissing.get k = true ↔ gone))
          ∧ (t.tables.unfit.get k = true ↔ s.loader.starting = true
              ∨ (∀ n m, findTable dir (.mesh k) .live = some (n, m) → ¬fits m)
              ∨ ∃ n b, findTable dir (.blend k (t.loss.selected.get k)) .live = some (n, b) ∧ ¬fits b)
          ∧ l.params = some
              { mode := mode, tone := taken (.tone k), blend := taken (.blend k (t.loss.selected.get k)),
                matrix := matrixOf (t.record (taken (.tone k))), dither := st.dither.get k, flatCodes := st.flatLevel.get k,
                flatSample := if mode = .flatBlended then
                  some ((st.flatLevel.get k).map (decode (t.record (taken (.tone k))))) else none }
          ∧ l.form = (if (t.outputs.get k).state ≠ .active then .noLines else if t.tables.unfit.get k then .dark
              else match mode with
                | .black => .dark
                | .flat => .flat
                | .flatBlended => .walked
                | .video => if shown = none then .dark else .walked)
          ∧ l.held = [] ∧ l.buffers = [] ∧ l.handed = none
          ∧ u.mesh = taken (.mesh k) ∧ u.edgeMark = false
          ∧ u.walk = (if l.form = .walked then some ⟨0, 0, false, none⟩ else none) ∧ (l.form = .walked → u.failed = [])
          ∧ (w.cacheSound = true → ∀ n : Nat, Assoc.find u.cache n = (match Assoc.find w.cache n with
              | some (.valid tag o data tb db) => if shown = some tag.slot then some (.valid tag o data tb db) else none
              | some (.filling tag o i c tb) => some (.filling tag o i (c || decide (shown ≠ some tag.slot)) tb)
              | none => none))
    (s.straps.role ≠ .follower → ∃ t : State, exec (.frameStart []) s = .next t
      ∧ begun (max s.now s.timer.nextStart) false t
      ∧ t.syncPulses = s.syncPulses + if s.straps.role = .master then 1 else 0)
    ∧ (s.straps.role = .follower →
      (∃ t : State, exec (.syncPulse []) s = .next t ∧ begun s.now false t ∧ t.coh.ownStarts = 0 ∧ t.coh.syncLost = false)
      ∧ ∃ t : State, exec (.ownStart []) s = .next t ∧ begun (max s.now s.timer.ownStartDue) true t
        ∧ t.coh.ownStarts = min (s.coh.ownStarts + 1) 255
        ∧ t.coh.syncLost = (s.coh.syncLost || decide (2 ≤ min (s.coh.ownStarts + 1) 255)))

/-- Every frame start applies the pending outcome, or REPEAT where none is pending. SHOW F shows F on every active channel
that holds it READY; a channel without it keeps its SHOWN slot and raises FRAME_HELD unless that holds F. REPEAT keeps the
SHOWN slot, LOOSE shows the newest READY frame, and an inactive channel keeps its SHOWN slot under HOLD and gives it up
under BLACK. Then every READY slot older than the frame SHOWN is emptied with FRAME_DROP, and the shown numbers are
recorded. The mode and the part's shown frame number follow the outcome. On a follower a frame start with the muster mark
set and no SHOW taken is a miss, the ring_loss_limit-th of which sets RING_LOST and LOOSE; on a master the SHOW sent becomes
the SHOW applied, and one that has not returned by then sets RING_LOST. (That a slot emptied keeps its frame number and size:
the model's choice, assumption log 2.) -/
def Obligations.FrameStartShowsNamedFrame : Prop :=
  ∀ (s : State) (i : Instr), s.slotsSound = true →
    ((i = .frameStart [] ∧ s.straps.role ≠ .follower) ∨ ((i = .syncPulse [] ∨ i = .ownStart []) ∧ s.straps.role = .follower)) →
    let o : RoundOutcome := match s.coh.pending with
      | some p => p.outcome
      | none => .repeat
    let took : Bool := (s.coh.pending.bind fun p => p.vector).isSome
    let follows : CoherenceMode := if o = .loose then .loose else .coherent
    let miss : Prop := took = false ∧ s.coh.musterMark = true
    let count : Nat := if took then 0 else if s.coh.musterMark = true then min (s.coh.missCount + 1) 255 else s.coh.missCount
    let lost : Prop := miss ∧ s.coh.ringLost = false ∧ s.settings.ringLossLimit ≤ count
    ∃ t : State, exec i s = .next t
      ∧ t.coh.shown = (match o with | .show f => some f | _ => s.coh.shown)
      ∧ t.coh.pending = none ∧ t.coh.musterMark = false ∧ t.coh.repeatCount = s.coh.repeatCount ∧ t.coh.seq = s.coh.seq
      ∧ t.coh.floor = s.coh.floor
      ∧ (s.straps.role ≠ .follower → t.coh.mode = (if s.coh.pending = none then s.coh.mode else follows)
          ∧ t.coh.round = s.coh.round ∧ t.coh.missCount = s.coh.missCount)
      ∧ (s.straps.role = .solo → t.coh.ringLost = s.coh.ringLost)
      ∧ (s.straps.role = .master → t.coh.showApplied = s.coh.showSent ∧ t.coh.showSent = none
          ∧ (t.coh.ringLost = true ↔ s.coh.ringLost = true ∨ ∃ r, s.coh.showApplied = some r ∧ r.returned = false))
      ∧ (s.straps.role = .follower → t.coh.round = none ∧ t.coh.missCount = count
          ∧ (t.coh.ringLost = true ↔ s.coh.ringLost = true ∨ lost)
          ∧ (took = true → t.coh.mode = follows)
          ∧ (took = false → (lost ∨ ∃ p, s.coh.pending = some p ∧ p.outcome = .loose) → t.coh.mode = .loose)
          ∧ (s.coh.pending = none → ¬lost → t.coh.mode = s.coh.mode))
      ∧ ∀ k : Channel, s.hasChannel k = true →
          let r := s.rings.get k
          let ready (j : SlotNo) : Prop := (r.slots.get j).state = .ready
          let held (f : FrameNo) : Prop := ∃ j, ready j ∧ (r.slots.get j).frame = f
          ∃ now : Option SlotNo, (t.rings.get k).reject = r.reject
            ∧ t.coh.channelShown.get k = now.map (fun j => (r.slots.get j).frame)
            ∧ (s.active k = true → match o with
                | .show f => (∀ j, ready j → (r.slots.get j).frame = f → now = some j) ∧ (¬held f → now = shownSlot r.slots)
                | .repeat => now = shownSlot r.slots
                | .loose => ((∀ j, ¬ready j) → now = shownSlot r.slots) ∧ ((∃ j, ready j) → ∃ j, now = some j ∧ ready j)
                    ∧ ∀ j, ready j → (∀ m, ready m → m ≠ j → olderSlot r.slots m j = true) → now = some j)
            ∧ (s.active k = false → now = if s.settings.inactivePolicy.get k = .black then none else shownSlot r.slots)
            ∧ (let dropped (j : SlotNo) : Prop := ready j ∧ now ≠ some j
                ∧ ∃ m, now = some m ∧ newer (r.slots.get m).frame (r.slots.get j).frame = true
              (∀ j : SlotNo, let x := r.slots.get j
                (now = some j → (t.rings.get k).slots.get j = { x with state := .shown, reserved := false })
                ∧ (now ≠ some j → (x.state = .shown ∨ dropped j) → (t.rings.get k).slots.get j =
                    { x with state := .empty, lines := [], damaged := 0, reserved := false })
                ∧ (now ≠ some j → x.state ≠ .shown → ¬dropped j → (t.rings.get k).slots.get j = { x with reserved := false }))
              ∧ (t.latches.getLsbD (Cond.frameDrop k) = true ↔ s.latches.getLsbD (Cond.frameDrop k) = true ∨ ∃ j, dropped j))
            ∧ (t.latches.getLsbD (Cond.frameHeld k) = true ↔ s.latches.getLsbD (Cond.frameHeld k) = true
                ∨ (s.active k = true ∧ ∃ f, o = .show f ∧ ¬held f
                    ∧ ∀ j, (r.slots.get j).state = .shown → (r.slots.get j).frame ≠ f))

/-- A line deadline: each forward lane that is driven carries one line, that of its frame's form on an ACTIVE port, with
the code written or else the code handed on the line before in each column, and code 0 otherwise; the line handed is kept
for the substitutes of the next. SOURCE_LATE is raised exactly for the walked channels with a column not written, and a walk
not past the line has its line ended. At the muster line, once in a frame, a master opens a round with its newest common
frame or the returned floor, a solo part decides its round at once, and a follower sets its muster mark, with a local LOOSE
while RING_LOST. After the last line a master closes a round still open as not ready. The timer goes on to the next line.
(The clock is brought to the moment the deadline falls at: the model's choice, assumption log 4; all ones as the base of a
vector without a SHOW applied: log 18; flag bits that carry nothing as 0: log 35.) -/
def Obligations.DeadlineHandsLine : Prop :=
  ∀ (s : State) (v : Nat), s.timer.phase = .activeLines v →
    let muster : Prop := v = s.timer.musterLine ∧ s.timer.musterDone = false
    let last : Prop := s.timer.height ≤ v + 1
    let count := min (s.coh.repeatCount + 1) 255
    let failed : RoundOutcome := if s.settings.coherenceLimit ≤ count then .loose else .repeat
    let own (x base : Vec32) : Prop := ∀ n : Nat, n < 32 → x.getLsbD n =
      if s.straps.firstBit ≤ n ∧ n < s.straps.firstBit + 4 then (confirmedNibble s.loss.confirmed).testBit (n - s.straps.firstBit)
      else base.getLsbD n
    ∃ t : State, exec .lineDeadline s = .next t
      ∧ t.now = max s.now (s.timer.start + s.timer.deadline v)
      ∧ t.timer = { s.timer with phase := if v + 1 < s.timer.height then .activeLines (v + 1) else .blanking,
                                 musterDone := s.timer.musterDone || decide (v = s.timer.musterLine) }
      ∧ t.pending = s.pending ∧ t.straps = s.straps ∧ t.inputs = s.inputs ∧ t.modes = s.modes ∧ t.loss = s.loss
      ∧ t.tables = s.tables ∧ t.cells = s.cells ∧ t.resetWait = s.resetWait ∧ t.lanes = s.lanes ∧ t.settings = s.settings
      ∧ t.faults = s.faults ∧ t.overflow = s.overflow ∧ t.loader = s.loader ∧ t.flash = s.flash
      ∧ t.syncPulses = s.syncPulses
      ∧ (¬(muster ∧ s.straps.role ≠ .follower) → t.rings = s.rings)
      ∧ (muster → s.straps.role = .master → t.rings =
          (s.reserve (match s.newestCommon with | some f => some f | none => s.coh.floor)).rings)
      ∧ (muster → s.straps.role = .solo → t.rings = (s.reserve s.newestCommon).rings)
      ∧ (s.straps.role = .follower → t.ringOut = s.ringOut ∧ t.coh =
          if muster then { s.coh with musterMark := true, pending := if s.coh.ringLost then some ⟨.loose, none⟩ else s.coh.pending }
          else s.coh)
      ∧ (s.straps.role = .solo → t.ringOut = s.ringOut ∧ t.coh =
          if muster then
            if s.readyFor s.newestCommon then
              { s.coh with musterMark := true, repeatCount := 0,
                           pending := s.newestCommon.map fun f => ⟨.show f, none⟩ }
            else { s.coh with musterMark := true, repeatCount := count, pending := some ⟨failed, none⟩ }
          else s.coh)
      ∧ (s.straps.role = .master → ∃ (c : Coherence) (opened closed : List Bytes), t.ringOut = s.ringOut ++ opened ++ closed
          ∧ (¬muster → c = s.coh ∧ opened = [])
          ∧ (muster → ∃ m : MusterToken, opened = [musterBytes m]
              ∧ c = { s.coh with musterMark := true, seq := s.coh.seq + 1, round := some ⟨s.coh.seq + 1, m.proposal⟩, floor := none }
              ∧ m.seq = s.coh.seq + 1 ∧ m.proposal = (match s.newestCommon with | some f => some f | none => s.coh.floor)
              ∧ m.floor = s.newestCommon ∧ m.allReady = s.readyFor m.proposal ∧ m.hop = 0 ∧ own m.vector (BitVec.allOnes 32))
          ∧ (¬(last ∧ c.round ≠ none) → t.coh = c ∧ closed = [])
          ∧ ∀ r : Round, last → c.round = some r → ∃ x : ShowToken, closed = [showBytes x]
              ∧ t.coh = { c with repeatCount := count, round := none, pending := some ⟨failed, some x.vector⟩,
                                 showSent := some ⟨r.seq, x.vector, false⟩ }
              ∧ x.seq = r.seq ∧ x.echo = r.proposal ∧ x.outcome = some failed
              ∧ own x.vector (match s.coh.showApplied with | some y => y.vector | none => BitVec.allOnes 32))
      ∧ (∀ c : Cond, (∀ k, c ≠ Cond.sourceLate k) → t.latches.getLsbD c = s.latches.getLsbD c)
      ∧ ∀ k : Channel,
          let p := s.outputs.get k
          let l := s.lights.get k
          let zero : List Pixel := List.replicate s.timer.width Pixel.zero
          t.warps.get k = { s.warps.get k with walk := (s.warps.get k).walk.map fun x =>
              if x.line ≤ v then { x with line := v, ended := true, waiting := none } else x }
          ∧ t.latches.getLsbD (Cond.sourceLate k) =
              (s.latches.getLsbD (Cond.sourceLate k) || (l.form == .walked && !l.lineComputed s.timer.width v))
          ∧ (l.form = .noLines → t.lights.get k = l)
          ∧ ∃ codes : List Pixel, codes.length = s.timer.width
              ∧ (l.form ≠ .noLines → t.lights.get k =
                  { l with handed := some ⟨v, codes⟩, buffers := l.buffers.filter fun b => decide (v < b.line) })
              ∧ t.outputs.get k = (if p.state = .active then { p with lane := p.lane ++ [.line v codes] }
                  else if p.state = .settling ∨ p.state = .retrain then { p with lane := p.lane ++ [.line v zero] } else p)
              ∧ (l.form = .noLines ∨ l.form = .dark ∨ l.form = .zeroed → codes = zero)
              ∧ (∀ q : FrameParameters, l.form = .flat → l.params = some q → codes = List.replicate s.timer.width q.flatCodes)
              ∧ (l.form = .walked → ∀ u : Nat, u < s.timer.width → codes[u]? = some ((l.written v u).getD (match l.handed with
                  | some h => if h.line + 1 = v then h.codes.getD u Pixel.zero else Pixel.zero
                  | none => Pixel.zero)))

/-! ### The Sky Ring -/

/-- The newest common frame is the common frame number that is newer than every other one, two that are neither older nor
newer being ordered by their slots in the lowest-numbered active channel, and there is none exactly where no channel is
active or no number is common. (Where three are each newer than another in a circle, it is one of them: the free value of
assumption log 3.) A follower handles a MUSTER: forwarded with its hop count one higher, all_ready cleared where it is not ready, the floor
lowered to its newest common frame, its own presence bits written, and the READY slots of the proposal reserved. -/
def Obligations.MusterGathersReadiness : Prop :=
  (∀ s : State,
    let holds (k : Channel) (i : SlotNo) (f : FrameNo) : Prop :=
      ((s.rings.get k).slots.get i).state = .ready ∧ ((s.rings.get k).slots.get i).frame = f
    let common (f : FrameNo) : Prop := ∀ k : Channel, s.active k = true → ∃ i, holds k i f
    (∀ f : FrameNo, s.newestCommon = some f → (∃ k, s.active k = true) ∧ common f)
    ∧ (s.newestCommon = none ↔ (∀ k, s.active k = false) ∨ ∀ f, ¬common f)
    ∧ ∀ (k : Channel) (i : SlotNo) (f : FrameNo), s.active k = true → (∀ j, j < k → s.active j = false) → holds k i f →
      common f → (∀ (j : SlotNo) (g : FrameNo), j ≠ i → holds k j g → common g →
        newer f g = true ∨ (newer g f = false ∧ j < i)) → s.newestCommon = some f)
  ∧ ∀ (s : State) (token : Bytes) (m : MusterToken), s.straps.role = .follower → parseMuster token = some m →
    ∃ (rings : Quad SlotRing) (out : MusterToken),
      exec (.musterHandle token) s = .next
        { s with
          rings := rings
          coh := { s.coh with round := some ⟨m.seq, m.proposal⟩ }
          ringOut := s.ringOut ++ [musterBytes out]
          free := s.free + 1 }
      ∧ out.seq = m.seq ∧ out.proposal = m.proposal
      ∧ out.hop.toNat = min (m.hop.toNat + 1) 255 ∧ out.allReady = (m.allReady && s.readyFor m.proposal)
      ∧ out.floor = (match s.newestCommon with
          | none => m.floor
          | some f => match m.floor with
            | none => some f
            | some g => if newer g f then some f else some g)
      ∧ (∀ n : Nat, n < 32 → out.vector.getLsbD n =
          if s.straps.firstBit ≤ n ∧ n < s.straps.firstBit + 4 then
            (confirmedNibble s.loss.confirmed).testBit (n - s.straps.firstBit)
          else m.vector.getLsbD n)
      ∧ ∀ k : Channel, (rings.get k).quiet = (s.rings.get k).quiet ∧ (rings.get k).reject = (s.rings.get k).reject
        ∧ ∀ i : SlotNo, let x := (s.rings.get k).slots.get i
          (rings.get k).slots.get i = if s.hasChannel k then
            { x with reserved := decide ((m.proposal.bind (readyHolding (s.rings.get k).slots)) = some i) } else x

/-- A MUSTER at its master: stale, it changes nothing; else it closes the round. With the right hop count its floor is kept
and all_ready with a proposal F gives SHOW F and repeat count 0; otherwise the round repeats, or is LOOSE from the
coherence_limit-th on, and a wrong hop count is recorded as RING_FORMAT. The SHOW is sent and recorded. That all_ready set with the proposal
NONE closes the round as not ready is the model's deduction (assumption log 17). -/
def Obligations.MusterReturnClosesRound : Prop :=
  ∀ (s : State) (token : Bytes) (m : MusterToken), s.straps.role = .master → parseMuster token = some m →
    ((∀ r, s.coh.round = some r → r.seq ≠ m.seq) → exec (.musterReturn token) s = .next s)
    ∧ ∀ r : Round, s.coh.round = some r → r.seq = m.seq →
      let right := m.hop.toNat = s.settings.ringLength - 1
      let count := min (s.coh.repeatCount + 1) 255
      let o : RoundOutcome := if right ∧ m.allReady = true then
          (match r.proposal with
            | some f => .show f
            | none => if s.settings.coherenceLimit ≤ count then .loose else .repeat)
        else if s.settings.coherenceLimit ≤ count then .loose else .repeat
      let found : State := if right then s else s.recordFault ⟨.ringFormat, none, s.coh.shown, .seq m.seq⟩
      ∃ sent : ShowToken,
        exec (.musterReturn token) s = .next
          { found with
            coh := { s.coh with
              round := none, floor := if right then m.floor else s.coh.floor,
              pending := some ⟨o, some m.vector⟩, showSent := some ⟨r.seq, m.vector, false⟩,
              repeatCount := if o.frame.isSome then 0 else count }
            ringOut := s.ringOut ++ [showBytes sent]
            free := s.free + 2 }
        ∧ sent.seq = r.seq ∧ sent.vector = m.vector ∧ sent.echo = r.proposal ∧ sent.outcome = some o

/-- A follower forwards every good SHOW as it came, and takes it only after its own muster point and the MUSTER of the same
seq and proposal: it is then the pending outcome and ends RING_LOST. At the master a SHOW that matches a record sets its
returned mark and ends RING_LOST, and any other changes nothing. -/
def Obligations.ShowIsTakenOrReturned : Prop :=
  (∀ (s : State) (token : Bytes) (m : ShowToken) (o : RoundOutcome), s.straps.role = .follower → parseShow token = some m →
    m.outcome = some o →
    let taken := s.coh.musterMark = true ∧ s.coh.round = some ⟨m.seq, m.echo⟩
    exec (.showHandle token) s = .next
      { s with
        ringOut := s.ringOut ++ [token]
        coh := if taken then { s.coh with pending := some ⟨o, some m.vector⟩, ringLost := false,
                                          missCount := if s.coh.ringLost then 0 else s.coh.missCount }
          else s.coh })
  ∧ ∀ (s : State) (token : Bytes) (m : ShowToken), s.straps.role = .master → parseShow token = some m →
    let mark (r : Option ShowRecord) : Option ShowRecord :=
      r.map fun x => if x.seq = m.seq then { x with returned := true } else x
    let hit := (∃ x, s.coh.showSent = some x ∧ x.seq = m.seq) ∨ ∃ x, s.coh.showApplied = some x ∧ x.seq = m.seq
    (hit → exec (.showReturn token) s = .next { s with
      coh := { s.coh with showSent := mark s.coh.showSent, showApplied := mark s.coh.showApplied, ringLost := false } })
    ∧ (¬hit → exec (.showReturn token) s = .next s)

/-! ### Warp and light units -/

/-- The unit begins the next line when its line has ended and, from line 4 on, the deadline four lines before has passed.
A pixel with an invalid corner is handed as black; in FLAT_BLENDED mode an inside pixel is handed as the flat sample. A
lookup of a tag changes nothing where an entry holds it; a miss allocates the lowest-numbered INVALID entry, or else the
VALID one allocated longest ago, and issues a fill; with all 64 FILLING it waits. In VIDEO mode an inside pixel is clamped,
the first edge pixel of a frame raises SOURCE_EDGE, and a pixel that needs a tile of the failed-tile set is handed as black
without a lookup. Any other gives up the entries whose tag fails, with TAG_PARITY, looks its tags up in order, and waits
while one is being read; with all VALID it is handed as the bilinear sample of its four neighbours, unless the data of a
tile fails: that entry is given up with DATA_PARITY, its tile is read again, and the pixel waits (several failing tiles in
turn: the model's choice, assumption log 33). -/
def Obligations.WarpPixelHandsPixel : Prop :=
  (∀ (w : WarpUnit) (now : Nat) (t : Tag), w.cacheSound = true →
    let hit : Prop := ∃ e ∈ w.cache, e.2.compared = true ∧ e.2.tag = t
    let filled (n : Nat) : WarpUnit := { w with
      cache := Assoc.insert w.cache n (.filling t w.nextOrder now false false), nextOrder := w.nextOrder + 1 }
    (hit → w.lookupTag now t = (w, true))
    ∧ (¬hit → ∀ n : Nat, n < 64 → Assoc.find w.cache n = none → (∀ m, m < n → Assoc.find w.cache m ≠ none) →
        w.lookupTag now t = (filled n, true))
    ∧ (¬hit → (∀ m, m < 64 → Assoc.find w.cache m ≠ none) →
        (∀ (n : Nat) (e : TileEntry), (n, e) ∈ w.cache → e.isValid = true →
          (∀ f ∈ w.cache, f.2.isValid = true → e.order ≤ f.2.order) → w.lookupTag now t = (filled n, true))
        ∧ ((∀ f ∈ w.cache, f.2.isValid = false) → w.lookupTag now t = (w, false))))
  ∧ ∀ (s : State) (k : Channel) (walk : Walk), (s.warps.get k).walk = some walk →
    let w := s.warps.get k
    let l := s.lights.get k
    let past : Walk := { walk with col := walk.col + 1, waiting := none }
    let handed (how : Handed) : LightUnit := { l with held := l.held ++ [⟨walk.col, walk.line, how⟩] }
    let hand (how : Handed) : State :=
      { s with warps := s.warps.set k { w with walk := some past }, lights := s.lights.set k (handed how) }
    (walk.line + 1 < s.timer.height → (walk.ended = true ∨ l.lineComputed s.timer.width walk.line = true) →
      (walk.line + 1 < 4 ∨ s.timer.passed (walk.line - 3) = true) →
      exec (.warpLineBegin k) s = .next { s with
        warps := s.warps.set k { w with failed := [], walk := some ⟨walk.line + 1, 0, false, none⟩ } })
    ∧ ∀ (m : TableRecord) (q : FrameParameters), walk.ended = false → walk.waiting = none → walk.col < s.timer.width →
      s.record w.mesh = some m → l.params = some q → m.bad = [] →
      ((∃ c ∈ m.cornerReads walk.col walk.line, (m.read c).pointValid = false) →
        exec (.warpPixel k []) s = .next (hand .black))
      ∧ ((∀ c ∈ m.cornerReads walk.col walk.line, (m.read c).pointValid = true) → (∀ f : Rgb Nat, q.flatSample = some f →
          exec (.warpPixel k []) s = .next (hand (.sample f)))
        ∧ ∀ (slot : SlotNo) (x : Slot), q.flatSample = none → s.slotsSound = true → shownSlot (s.rings.get k).slots = some slot →
          (s.rings.get k).slots.get slot = x → (∀ r, s.toneInUse k = some r → r.bad = []) →
          let px := m.interpolate walk.col walk.line Entry.pointX
          let py := m.interpolate walk.col walk.line Entry.pointY
          let inX : Prop := 0 ≤ px ∧ px ≤ 64 * ((x.width : Int) - 1)
          let inY : Prop := 0 ≤ py ∧ py ≤ 64 * ((x.height : Int) - 1)
          let cx := clampSource x.width px
          let cy := clampSource x.height py
          let ns := neighbours x.width x.height cx cy
          let ts := distinct (ns.map (tagOf slot))
          let marked : WarpUnit := { w with edgeMark := w.edgeMark || decide (¬(inX ∧ inY)) }
          let fault (c : FaultClass) (at_ : FaultLocation) : FaultRecord := ⟨c, some k, s.shownFrame k, at_⟩
          let ends (u : WarpUnit) (v : LightUnit) (fs : List FaultRecord) : Prop :=
            let f := s.recordFaults fs
            ∃ (b : BitVec 45) (qs : List Notice),
              exec (.warpPixel k []) s = .next { s with
                warps := s.warps.set k u, lights := s.lights.set k v, faults := f.faults, overflow := f.overflow,
                latches := b, notices := qs }
              ∧ ∀ c : Cond, b.getLsbD c =
                  (f.latches.getLsbD c || decide (c = Cond.sourceEdge k ∧ ¬(inX ∧ inY) ∧ w.edgeMark = false))
          let waits (u : WarpUnit) (todo : List Tag) (fs : List FaultRecord) : Prop :=
            ends { u with walk := some { walk with waiting := some ⟨cx, cy, todo⟩ } } l fs
          ((cx : Int) = if px < 0 then 0 else min px (64 * ((x.width : Int) - 1)))
          ∧ ((cy : Int) = if py < 0 then 0 else min py (64 * ((x.height : Int) - 1)))
          ∧ ((∃ t ∈ ts, t ∈ w.failed) → ends { marked with walk := some past } (handed .black) [])
          ∧ ((∀ t ∈ ts, t ∉ w.failed) →
            let bad (e : Nat × TileEntry) : Bool := e.2.compared && e.2.tagBad
            let tagFaults := (w.cache.filter bad).map fun _ => fault .tagParity .absent
            let looked := WarpUnit.lookupTags { marked with cache := w.cache.filter fun e => !bad e } s.now ts
            let c := looked.1.cache
            let dataBad (t : Tag) : Bool := c.any fun e => e.2.compared && (e.2.tag == t && e.2.dataBad)
            (looked.2 ≠ [] ∨ (∃ t ∈ ts, standsFilling c t = true) → waits looked.1 looked.2 tagFaults)
            ∧ (looked.2 = [] → (∀ t ∈ ts, standsValid c t = true) → w.cacheSound = true →
              ((∀ t ∈ ts, dataBad t = false) →
                let at_ (j : Nat) : Pixel := cachedPixel c slot (ns.getD j (0, 0))
                ends { looked.1 with walk := some past }
                  (handed (.sample (Sys2Proof.Machine.samplePixel (s.toneInUse k) cx cy (at_ 0) (at_ 1) (at_ 2) (at_ 3)))) tagFaults)
              ∧ ((∃ t ∈ ts, dataBad t = true) →
                let again (u : WarpUnit) (t : Tag) : WarpUnit :=
                  (WarpUnit.lookupTag { u with cache := u.cache.filter fun e => !(e.2.compared && e.2.tag == t) } s.now t).1
                waits ((ts.filter dataBad).foldl again looked.1) []
                  (tagFaults ++ (ts.filter dataBad).map fun t => fault .dataParity (.tile t.col t.row))))))

/-- A DRAM read that completes makes its entry VALID with the tile's pixels, or INVALID where it was cancelled; 20 µs after
its issue it times out instead: INVALID, FILL_TIMEOUT recorded, and its tag, unless cancelled, in the failed-tile set, but
only while a line is in progress (the model's deduction, assumption log 26). A read that no entry owns changes nothing. A
pixel that waited for its last tile is handed as its sample once the read has completed, and as black once it has timed
out. (The clock is brought to the moment of the timeout: the model's choice, log 4.) -/
def Obligations.TileFillsEnd : Prop :=
  ∀ (s : State) (k : Channel) (read : Nat),
    let w := s.warps.get k
    let l := s.lights.get k
    (ownerOf w.cache read = none →
      exec (.tileFillComplete k read []) s = .next s ∧ exec (.tileFillTimeout k read []) s = .next s)
    ∧ ∀ (n : Nat) (tag : Tag) (issued : Nat) (cancelled bad : Bool), w.cacheSound = true →
      Assoc.find w.cache n = some (.filling tag read issued cancelled bad) →
      ∃ (cache dropped : Assoc TileEntry) (failed : List Tag),
        (∀ j : Nat, j ≠ n → Assoc.find cache j = Assoc.find w.cache j ∧ Assoc.find dropped j = Assoc.find w.cache j)
        ∧ Assoc.find dropped n = none
        ∧ (cancelled = true → Assoc.find cache n = none)
        ∧ (cancelled = false → ∃ data, Assoc.find cache n = some (.valid tag read data bad false)
            ∧ ∀ a b : Nat, a < 16 → b < 8 → tilePixel data (tag.col * 16 + a) (tag.row * 8 + b) =
                ((s.rings.get k).slots.get tag.slot).pixelAt (tag.col * 16 + a) (tag.row * 8 + b))
        ∧ (cancelled = false ∧ (∃ x, w.walk = some x ∧ x.ended = false) → failed = w.failed ++ [tag])
        ∧ (¬(cancelled = false ∧ ∃ x, w.walk = some x ∧ x.ended = false) → failed = w.failed)
        ∧ (let timedOut (x : State) : State := ({ x with now := max s.now (issued + 2000) } : State).recordFault
            ⟨.fillTimeout, some k, s.shownFrame k, .tile tag.col tag.row⟩
          ((∀ x, w.walk = some x → x.waiting = none ∨ x.ended = true) →
            exec (.tileFillComplete k read []) s = .next { s with warps := s.warps.set k { w with cache := cache } }
            ∧ exec (.tileFillTimeout k read []) s = .next
                (timedOut { s with warps := s.warps.set k { w with cache := dropped, failed := failed } }))
          ∧ ∀ (walk : Walk) (p : WaitingPixel) (slot : SlotNo), w.walk = some walk → walk.waiting = some p → walk.ended = false →
            shownSlot (s.rings.get k).slots = some slot → (∀ r, s.toneInUse k = some r → r.bad = []) →
            let x := (s.rings.get k).slots.get slot
            let ns := neighbours x.width x.height p.x p.y
            let past : Option Walk := some { walk with col := walk.col + 1, waiting := none }
            let handed (how : Handed) : Quad LightUnit := s.lights.set k { l with held := l.held ++ [⟨walk.col, walk.line, how⟩] }
            let at_ (j : Nat) : Pixel := cachedPixel cache slot (ns.getD j (0, 0))
            (p.todo = [] → (∀ ab ∈ ns, tagOf slot ab ∉ w.failed ∧ standsValid cache (tagOf slot ab) = true
                ∧ ∀ e ∈ cache, e.2.tag = tagOf slot ab → e.2.dataBad = false) →
              exec (.tileFillComplete k read []) s = .next { s with
                warps := s.warps.set k { w with cache := cache, walk := past }
                lights := handed (.sample
                  (Sys2Proof.Machine.samplePixel (s.toneInUse k) p.x p.y (at_ 0) (at_ 1) (at_ 2) (at_ 3))) })
            ∧ (cancelled = false → (∃ ab ∈ ns, tagOf slot ab = tag) →
              exec (.tileFillTimeout k read []) s = .next (timedOut { s with
                warps := s.warps.set k { w with cache := dropped, failed := failed, walk := past }
                lights := handed .black })))

/-- The light unit writes the codes of the first pixel it holds at its column and line: 0 for a black pixel, and the code of
stages 4 to 6 for a sample; after its line's deadline the codes are discarded. No other code changes. -/
def Obligations.LightPixelWritesCode : Prop :=
  ∀ (s : State) (k : Channel) (q : FrameParameters) (p : HeldPixel) (rest : List HeldPixel),
    (s.lights.get k).params = some q → (s.lights.get k).held = p :: rest →
    (∀ r, s.toneInUse k = some r → r.bad = []) → (∀ r, s.blendInUse k = some r → r.bad = []) →
    let l := s.lights.get k
    let code (row : Rgb Int) (ls : Rgb Nat) : Code :=
      let o := lifted (weighted (matrixRow row ls) (blendWeight (s.blendInUse k) p.u p.v)) (blendLift (s.blendInUse k) p.u p.v)
      outputCode (encode (s.toneInUse k) o) (if q.dither then ditherPattern p.u p.v else 32)
    ∃ b : List LineBuffer,
      exec (.lightPixelWrite k []) s = .next { s with lights := s.lights.set k { l with held := rest, buffers := b } }
      ∧ (s.timer.passed p.v = true → b = l.buffers)
      ∧ (s.timer.passed p.v = false →
          (({ l with buffers := b } : LightUnit).written p.v p.u = some (match p.as with
            | .black => Pixel.zero
            | .sample ls => ⟨code q.matrix.r ls, code q.matrix.g ls, code q.matrix.b ls⟩))
          ∧ ∀ v u : Nat, (v, u) ≠ (p.v, p.u) → ({ l with buffers := b } : LightUnit).written v u = l.written v u)

/-! ### Output ports -/

/-- The output port's transitions with settle_ms and relock_ms above 0: the first report takes ABSENT to SETTLING, the
settle expiry to ACTIVE with OUTPUT_CHANGE, a lock lost to RETRAIN, a lock regained back to ACTIVE, the relock expiry to
FAILED with OUTPUT_CHANGE, presence lost to ABSENT with OUTPUT_CHANGE from ACTIVE alone. OUTPUT_CHANGE queues its notice, with
the channel and the channel's shown number, where it is enabled, was not latched and has no notice waiting; nothing else
does. -/
def Obligations.OutputPortTransitions : Prop :=
  ∀ (s : State) (k : Channel), s.hasChannel k = true → 0 < s.settings.settleMs → 0 < s.settings.relockMs →
    let p := s.outputs.get k
    let settle := s.settings.settleMs * 100000
    let relock := s.settings.relockMs * 100000
    let moves (i : Instr) (at_ : Nat) (q : OutputPort) (change : Bool) : Prop :=
      ∃ (w : Quad WarpUnit) (l : Quad LightUnit) (ns : List Notice),
        exec i s = .next
          { s with
            now := at_
            outputs := s.outputs.set k q
            latches := if change then s.latches ||| BitVec.twoPow 45 (Cond.outputChange k) else s.latches
            warps := w
            lights := l
            notices := ns }
        ∧ (if change then s.queuesNotice ⟨Cond.outputChange k, some k, s.coh.channelShown.get k⟩ ns else ns = s.notices)
        ∧ (p.state ≠ .active → w = s.warps ∧ l = s.lights)
        ∧ (p.state = .active → q.state ≠ .active → (w.get k).walk = none ∧ (l.get k).form = .noLines ∧ (l.get k).held = [])
        ∧ ∀ j : Channel, j ≠ k → w.get j = s.warps.get j ∧ l.get j = s.lights.get j
    let gone : OutputPort := { p with state := .absent, lock := .none, expires := none, lastReport := none }
    (∀ locked : Bool, p.state = .absent → p.lock = .none → moves (.statusReport k locked) s.now
      { p with state := .settling, lock := if locked then .locked else .notLocked, expires := some (s.now + settle),
               lastReport := some s.now } false)
    ∧ (p.state = .active → p.lock = .locked → moves (.statusReport k false) s.now
      { p with state := .retrain, lock := .notLocked, expires := some (s.now + relock), lastReport := some s.now } false)
    ∧ (p.state = .retrain → p.lock = .notLocked → moves (.statusReport k true) s.now
      { p with state := .active, lock := .locked, expires := none, lastReport := some s.now } false)
    ∧ (∀ e : Nat, p.state = .settling → p.lock = .locked → p.expires = some e → moves (.settleExpiry k) (max s.now e)
      { p with state := .active, expires := none } true)
    ∧ (∀ e : Nat, p.state = .settling → p.lock = .notLocked → p.expires = some e → moves (.settleExpiry k) (max s.now e)
      { p with state := .retrain, expires := some (max s.now e + relock) } true)
    ∧ (∀ e : Nat, p.state = .retrain → p.expires = some e → moves (.relockExpiry k) (max s.now e)
      { p with state := .failed, expires := none } true)
    ∧ moves (.reverseCarrierLost k) s.now gone (p.state == .active)
    ∧ (∀ r : Nat, p.lastReport = some r → moves (.reportTimeout k) (max s.now (r + 800000)) gone (p.state == .active))

/-! ### Arithmetic of the stitching computation -/

/-- Stage 1 stays between the smallest and largest of the four corner values, stage 2 within the source frame, and stage 3
between the smallest and largest of the four decoded neighbours. -/
def Obligations.SamplingStaysBetweenNeighbours : Prop :=
  (∀ (spacing u v : Nat) (a b c d lo hi : Int), 0 < spacing →
    lo ≤ a → lo ≤ b → lo ≤ c → lo ≤ d → a ≤ hi → b ≤ hi → c ≤ hi → d ≤ hi →
    lo ≤ (gridCell spacing u v).interpolate spacing a b c d ∧ (gridCell spacing u v).interpolate spacing a b c d ≤ hi)
  ∧ (∀ (n : Nat) (x : Int), 1 ≤ n → clampSource n x ≤ 64 * (n - 1) ∧ neighbour0 (clampSource n x) < n
      ∧ neighbour1 n (clampSource n x) < n ∧ (clampChanges n x = false ↔ 0 ≤ x ∧ x ≤ 64 * ((n : Int) - 1)))
  ∧ ∀ x y a b c d lo hi : Nat, lo ≤ a → lo ≤ b → lo ≤ c → lo ≤ d → a ≤ hi → b ≤ hi → c ≤ hi → d ≤ hi →
    lo ≤ bilinear x y a b c d ∧ bilinear x y a b c d ≤ hi

/-- A = (C·w + 16384) / 32768 stays within 0..65535, is C for w = 32768 and 0 for w = 0. -/
def Obligations.WeightingKeepsRange : Prop :=
  ∀ c w : Nat, c ≤ 65535 → w ≤ 32768 →
    weighted c w = (c * w + 16384) / 32768 ∧ weighted c w ≤ 65535 ∧ weighted c 32768 = c ∧ weighted c 0 = 0

/-- B = (A·(65535 − ℓ) + 32767) / 65535 and O = B + ℓ: O lies within ℓ..65535, A = 0 gives ℓ and A = 65535 gives 65535. -/
def Obligations.LiftKeepsRange : Prop :=
  ∀ a l : Nat, a ≤ 65535 → l ≤ 16383 →
    lifted a l = (a * (65535 - l) + 32767) / 65535 + l ∧ (a * (65535 - l) + 32767) / 65535 ≤ 65535 - l
      ∧ l ≤ lifted a l ∧ lifted a l ≤ 65535 ∧ lifted 0 l = l ∧ lifted 65535 l = 65535

/-- Stages 4 to 6 of any sample give components within 0..65535 after the matrix, with the default matrix the sample
itself, an E′ between the two curve entries it lies between, and a code of the quotient by 64. -/
def Obligations.EncodeStaysBetweenEntries : Prop :=
  (∀ (m : Rgb Int) (l : Rgb Nat), matrixRow m l ≤ 65535)
  ∧ (∀ l : Rgb Nat, l.r ≤ 65535 → l.g ≤ 65535 → l.b ≤ 65535 → matrixApply (matrixOf none) l = l)
  ∧ (∀ (tone : Option TableRecord) (o : Nat), o ≤ 65535 →
      let e (i : Nat) : Int := toneRead tone (1024 + i)
      (o / 16 < 4095 → min (e (o / 16)) (e (o / 16 + 1)) ≤ encode tone o ∧ encode tone o ≤ max (e (o / 16)) (e (o / 16 + 1)))
      ∧ (o / 16 = 4095 → encode tone o = e 4095))
  ∧ ∀ (e : Int) (d : Nat), 0 ≤ e → e ≤ 65472 → d ≤ 60 → ((outputCode e d).toNat : Int) = (e + d) / 64

/-! ### Deadlines and blend sets -/

/-- On every raster of an arrangement the deadlines rise strictly, the last one is the frame end at seven eighths of the
period, and the muster point falls on a line before it. -/
def Obligations.DeadlinesRise : Prop :=
  ∀ (arr : Arrangement) (t : RasterTimer), rasterLegal arr t.width t.height t.periodUs = true →
    (∀ v w : Nat, v < w → w < t.height → t.deadline v < t.deadline w)
    ∧ t.deadline (t.height - 1) = 7 * t.period / 8 ∧ t.deadline (t.height - 1) < t.period
    ∧ ∀ offset : Nat, musterLineOf t.height offset + 17 ≤ t.height ∧ t.height / 2 - 1 ≤ musterLineOf t.height offset

/-- The set chosen against a vector with an absent bit is that of the first LOSSMAP rule, in order, whose mask is not empty
and names no present projector, and 0 where none matches; a full vector chooses 0. -/
def Obligations.FirstMatchingRuleChooses : Prop :=
  ∀ (m : TableRecord) (v : Vec32) (k : Channel), v ≠ BitVec.allOnes 32 →
    (∀ i : Nat, i < 16 → (m.read i).ruleMask ≠ 0 → (m.read i).ruleMask &&& v = 0 →
      (∀ j : Nat, j < i → (m.read j).ruleMask = 0 ∨ (m.read j).ruleMask &&& v ≠ 0) →
      chooseSet (some m) v k = (m.read i).ruleSet k)
    ∧ ((∀ i : Nat, i < 16 → (m.read i).ruleMask = 0 ∨ (m.read i).ruleMask &&& v ≠ 0) → chooseSet (some m) v k = 0)
    ∧ chooseSet (some m) (BitVec.allOnes 32) k = 0 ∧ chooseSet none v k = 0
end

