-- ==== Sys2Proof/Laws/Assoc.lean ====
section
/-! SUPPORT. The laws of the finite maps and of the flash: a read after a write gives the value written, every other key
reads as before, and every operation keeps the canonical form. -/

namespace Sys2Proof.Machine

namespace Assoc

variable {α : Type}

/-! ### Reads after writes -/

@[simp] theorem find_nil (k : Nat) : find ([] : Assoc α) k = none := rfl

theorem find_cons (j : Nat) (x : α) (m : Assoc α) (k : Nat) : find ((j, x) :: m) k = if j = k then some x else find m k := rfl

@[simp] theorem find_insert_same (m : Assoc α) (k : Nat) (x : α) : find (insert m k x) k = some x := by
  induction m with
  | nil => simp [insert, find]
  | cons e rest ih =>
    obtain ⟨j, y⟩ := e
    simp only [insert]
    split
    · simp [find]
    · split
      · simp [find]
      · rename_i h
        rw [find, if_neg (Ne.symm h), ih]

@[simp] theorem find_insert_other (m : Assoc α) {k j : Nat} (x : α) (h : j ≠ k) : find (insert m k x) j = find m j := by
  induction m with
  | nil => simp [insert, find, Ne.symm h]
  | cons e rest ih =>
    obtain ⟨i, y⟩ := e
    simp only [insert]
    split
    · simp [find, Ne.symm h]
    · split
      · rename_i hk
        subst hk
        simp [find, Ne.symm h]
      · simp only [find]
        rw [ih]

/-- What a filter that looks at keys alone leaves at a key. -/
theorem find_filter_key (m : Assoc α) (p : Nat → Bool) (k : Nat) :
    find (m.filter fun e => p e.1) k = if p k then find m k else none := by
  induction m with
  | nil => simp
  | cons e rest ih =>
    obtain ⟨j, y⟩ := e
    by_cases hj : p j = true
    · rw [List.filter_cons_of_pos (by simpa using hj)]
      simp only [find, ih]
      by_cases hk : j = k
      · subst hk
        simp [hj]
      · simp [hk]
    · rw [List.filter_cons_of_neg (by simpa using hj), ih]
      by_cases hk : j = k
      · subst hk
        simp [hj]
      · simp [find, hk]

@[simp] theorem find_erase_same (m : Assoc α) (k : Nat) : find (erase m k) k = none := by
  rw [erase, find_filter_key m (fun j => j != k)]
  simp

@[simp] theorem find_erase_other (m : Assoc α) {k j : Nat} (h : j ≠ k) : find (erase m k) j = find m j := by
  rw [erase, find_filter_key m (fun i => i != k)]
  simp [h]

theorem find_modify (m : Assoc α) (k j : Nat) (f : α → α) :
    find (modify m k f) j = if j = k then (find m j).map f else find m j := by
  induction m with
  | nil => simp [modify]
  | cons e rest ih =>
    obtain ⟨i, y⟩ := e
    simp only [modify, List.map_cons] at ih ⊢
    by_cases hi : i = k
    · subst hi
      simp only [if_true]
      by_cases hj : i = j
      · subst hj
        simp [find]
      · simp only [find, if_neg hj]
        rw [ih]
    · simp only [if_neg hi]
      by_cases hj : i = j
      · subst hj
        simp [find, hi]
      · simp only [find, if_neg hj]
        rw [ih]

theorem find_append (a b : Assoc α) (k : Nat) : find (a ++ b) k = (find a k).or (find b k) := by
  induction a with
  | nil => simp
  | cons e rest ih =>
    obtain ⟨j, y⟩ := e
    simp only [List.cons_append, find]
    split
    · simp
    · exact ih

theorem mem_of_find {m : Assoc α} {k : Nat} {x : α} (h : find m k = some x) : (k, x) ∈ m := by
  induction m with
  | nil => simp at h
  | cons e rest ih =>
    obtain ⟨j, y⟩ := e
    rw [find] at h
    split at h
    · rename_i hj
      subst hj
      simp_all
    · exact List.mem_cons_of_mem _ (ih h)

/-! ### The canonical form -/

theorem risingFrom_mono {m : Assoc α} {a b : Nat} (hab : a ≤ b) (h : risingFrom b m = true) : risingFrom a m = true := by
  cases m with
  | nil => rfl
  | cons e rest =>
    obtain ⟨k, x⟩ := e
    simp only [risingFrom, Bool.and_eq_true, decide_eq_true_eq] at h ⊢
    exact ⟨le_trans hab h.1, h.2⟩

theorem le_of_risingFrom {m : Assoc α} {lo : Nat} (h : risingFrom lo m = true) {e : Nat × α} (he : e ∈ m) : lo ≤ e.1 := by
  induction m generalizing lo with
  | nil => simp at he
  | cons d rest ih =>
    obtain ⟨k, x⟩ := d
    simp only [risingFrom, Bool.and_eq_true, decide_eq_true_eq] at h
    rcases List.mem_cons.1 he with rfl | hr
    · exact h.1
    · have := ih h.2 hr
      omega

/-- In a canonical map every pair listed is what its key reads as. -/
theorem find_of_mem {m : Assoc α} {lo : Nat} (h : risingFrom lo m = true) {e : Nat × α} (he : e ∈ m) :
    find m e.1 = some e.2 := by
  induction m generalizing lo with
  | nil => simp at he
  | cons d rest ih =>
    obtain ⟨k, x⟩ := d
    simp only [risingFrom, Bool.and_eq_true, decide_eq_true_eq] at h
    rcases List.mem_cons.1 he with rfl | hr
    · simp [find]
    · have hlt := le_of_risingFrom h.2 hr
      rw [find, if_neg (by omega)]
      exact ih h.2 hr

theorem risingFrom_filter {m : Assoc α} {lo : Nat} (p : Nat × α → Bool) (h : risingFrom lo m = true) :
    risingFrom lo (m.filter p) = true := by
  induction m generalizing lo with
  | nil => rfl
  | cons d rest ih =>
    obtain ⟨k, x⟩ := d
    simp only [risingFrom, Bool.and_eq_true, decide_eq_true_eq] at h
    rw [List.filter_cons]
    split
    · simp only [risingFrom, Bool.and_eq_true, decide_eq_true_eq]
      exact ⟨h.1, ih h.2⟩
    · exact risingFrom_mono (by omega) (ih h.2)

theorem wf_filter {m : Assoc α} (p : Nat × α → Bool) (h : wf m = true) : wf (m.filter p) = true := risingFrom_filter p h

theorem risingFrom_insert {m : Assoc α} {lo k : Nat} {x : α} (hk : lo ≤ k) (h : risingFrom lo m = true) :
    risingFrom lo (insert m k x) = true := by
  induction m generalizing lo with
  | nil => simp [insert, risingFrom, hk]
  | cons d rest ih =>
    obtain ⟨j, y⟩ := d
    simp only [risingFrom, Bool.and_eq_true, decide_eq_true_eq] at h
    simp only [insert]
    split
    · simp only [risingFrom, Bool.and_eq_true, decide_eq_true_eq]
      exact ⟨hk, by omega, h.2⟩
    · split
      · rename_i hj
        subst hj
        simp only [risingFrom, Bool.and_eq_true, decide_eq_true_eq]
        exact ⟨h.1, h.2⟩
      · simp only [risingFrom, Bool.and_eq_true, decide_eq_true_eq]
        exact ⟨h.1, ih (by omega) h.2⟩

theorem wf_insert {m : Assoc α} (k : Nat) (x : α) (h : wf m = true) : wf (insert m k x) = true :=
  risingFrom_insert (Nat.zero_le k) h

theorem wf_erase {m : Assoc α} (k : Nat) (h : wf m = true) : wf (erase m k) = true := wf_filter _ h

/-- A change of values alone keeps the form. -/
theorem risingFrom_map {β : Type} {m : Assoc α} {lo : Nat} (f : Nat × α → Nat × β) (hf : ∀ e, (f e).1 = e.1)
    (h : risingFrom lo m = true) : risingFrom lo (m.map f) = true := by
  induction m generalizing lo with
  | nil => rfl
  | cons d rest ih =>
    obtain ⟨k, x⟩ := d
    simp only [risingFrom, Bool.and_eq_true, decide_eq_true_eq] at h
    have hk : (f (k, x)).1 = k := hf (k, x)
    rw [List.map_cons, ← Prod.mk.eta (p := f (k, x)), hk]
    simp only [risingFrom, Bool.and_eq_true, decide_eq_true_eq]
    exact ⟨h.1, ih h.2⟩

theorem wf_modify {m : Assoc α} (k : Nat) (f : α → α) (h : wf m = true) : wf (modify m k f) = true :=
  risingFrom_map _ (fun e => by
    show (if e.1 = k then (e.1, f e.2) else e).1 = e.1
    split <;> rfl) h

/-- A change or removal of entries one by one keeps the form. -/
theorem risingFrom_filterMap {β : Type} {m : Assoc α} {lo : Nat} (f : Nat × α → Option (Nat × β))
    (hf : ∀ e d, f e = some d → d.1 = e.1) (h : risingFrom lo m = true) : risingFrom lo (m.filterMap f) = true := by
  induction m generalizing lo with
  | nil => rfl
  | cons d rest ih =>
    obtain ⟨k, x⟩ := d
    simp only [risingFrom, Bool.and_eq_true, decide_eq_true_eq] at h
    rw [List.filterMap_cons]
    split
    · exact risingFrom_mono (by omega) (ih h.2)
    · rename_i e he
      have hk : e.1 = k := hf _ _ he
      obtain ⟨j, y⟩ := e
      simp only at hk
      subst hk
      simp only [risingFrom, Bool.and_eq_true, decide_eq_true_eq]
      exact ⟨h.1, ih h.2⟩

/-- The lowest free key: it is below the bound, free, and every key below it is taken. -/
theorem lowestFree_spec {m : Assoc α} {bound n : Nat} (h : lowestFree m bound = some n) :
    n < bound ∧ find m n = none ∧ ∀ j, j < n → find m j ≠ none := by
  rw [lowestFree, List.find?_eq_some_iff_append] at h
  obtain ⟨hp, as, bs, hab, hall⟩ := h
  have hlen : as.length = n := by
    have h1 := congrArg (fun l : List Nat => l[as.length]?) hab
    have hlt : as.length < bound := by
      have := congrArg List.length hab
      simp at this
      omega
    simp [List.getElem?_range hlt] at h1
    exact h1
  have hlt : n < bound := by
    have := congrArg List.length hab
    simp at this
    omega
  refine ⟨hlt, by simpa using hp, fun j hj => ?_⟩
  have hmem : j ∈ as := by
    have h1 := congrArg (fun l : List Nat => l[j]?) hab
    simp only [List.getElem?_range (show j < bound by omega)] at h1
    rw [List.getElem?_append_left (by omega)] at h1
    exact List.mem_of_getElem? h1.symm
  have := hall j hmem
  intro hnone
  simp [hnone] at this

end Assoc

/-! ### The flash -/

namespace Memory

theorem risingFrom_append {α : Type} {a b : Assoc α} {lo mid : Nat} (ha : Assoc.risingFrom lo a = true)
    (hmid : ∀ e ∈ a, e.1 < mid) (hlo : lo ≤ mid) (hb : Assoc.risingFrom mid b = true) : Assoc.risingFrom lo (a ++ b) = true := by
  induction a generalizing lo with
  | nil => exact Assoc.risingFrom_mono hlo hb
  | cons d rest ih =>
    obtain ⟨k, x⟩ := d
    simp only [Assoc.risingFrom, Bool.and_eq_true, decide_eq_true_eq] at ha
    simp only [List.cons_append, Assoc.risingFrom, Bool.and_eq_true, decide_eq_true_eq]
    have hk : k < mid := hmid _ (List.mem_cons_self ..)
    exact ⟨ha.1, ih ha.2 (fun e he => hmid e (List.mem_cons_of_mem _ he)) (by omega)⟩

theorem cellsFrom_rising (a : Nat) (bs : Bytes) : Assoc.risingFrom a (cellsFrom a bs) = true := by
  induction bs generalizing a with
  | nil => rfl
  | cons x rest ih =>
    simp only [cellsFrom]
    split
    · exact Assoc.risingFrom_mono (Nat.le_succ a) (ih (a + 1))
    · simp [Assoc.risingFrom, ih (a + 1)]

/-- The pairs of a block lie in the block and the flash, and none reads as erased. -/
theorem mem_cellsFrom {a : Nat} {bs : Bytes} {e : Nat × Byte} (h : e ∈ cellsFrom a bs) :
    a ≤ e.1 ∧ e.1 < a + bs.length ∧ e.1 < Config.flashBytes ∧ e.2 ≠ erased ∧ bs[e.1 - a]? = some e.2 := by
  induction bs generalizing a e with
  | nil => simp [cellsFrom] at h
  | cons x rest ih =>
    simp only [cellsFrom] at h
    have step : ∀ {e : Nat × Byte}, e ∈ cellsFrom (a + 1) rest →
        a ≤ e.1 ∧ e.1 < a + (x :: rest).length ∧ e.1 < Config.flashBytes ∧ e.2 ≠ erased ∧ (x :: rest)[e.1 - a]? = some e.2 := by
      intro e he
      obtain ⟨h1, h2, h3, h4, h5⟩ := @ih (a + 1) e he
      refine ⟨by omega, by simp only [List.length_cons]; omega, h3, h4, ?_⟩
      rw [show e.1 - a = (e.1 - (a + 1)) + 1 by omega, List.getElem?_cons_succ]
      exact h5
    split at h
    · exact step h
    · rename_i hx
      simp only [Bool.or_eq_true, decide_eq_true_eq, not_or, not_le] at hx
      rcases List.mem_cons.1 h with rfl | h
      · exact ⟨le_refl _, by simp, hx.2, hx.1, by simp⟩
      · exact step h

/-- Erasing keeps the canonical form. -/
theorem wf_eraseRange {m : Assoc Byte} (a n : Nat) (h : wf m = true) : wf (eraseRange m a n) = true := by
  simp only [wf, Bool.and_eq_true, List.all_eq_true] at h ⊢
  exact ⟨Assoc.wf_filter _ h.1, fun e he => h.2 e (List.mem_filter.1 he).1⟩

/-- Programming keeps the canonical form. -/
theorem wf_writeBytes {m : Assoc Byte} (a : Nat) (bs : Bytes) (h : wf m = true) : wf (writeBytes m a bs) = true := by
  simp only [wf, Bool.and_eq_true, List.all_eq_true] at h ⊢
  refine ⟨?_, ?_⟩
  · rw [writeBytes, List.append_assoc]
    refine risingFrom_append (mid := a) (Assoc.risingFrom_filter _ h.1) ?_ (Nat.zero_le _) ?_
    · intro e he
      simpa using (List.mem_filter.1 he).2
    · refine risingFrom_append (mid := a + bs.length) (cellsFrom_rising a bs) (fun e he => (mem_cellsFrom he).2.1)
        (Nat.le_add_right ..) ?_
      have hr : ∀ l : Assoc Byte, ∀ lo, Assoc.risingFrom lo l = true → (∀ e ∈ l, a + bs.length ≤ e.1) →
          Assoc.risingFrom (a + bs.length) l = true := by
        intro l lo hl hle
        cases l with
        | nil => rfl
        | cons d rest =>
          obtain ⟨k, x⟩ := d
          simp only [Assoc.risingFrom, Bool.and_eq_true, decide_eq_true_eq] at hl ⊢
          exact ⟨hle _ (List.mem_cons_self ..), hl.2⟩
      exact hr _ 0 (Assoc.risingFrom_filter _ h.1) fun e he => by simpa using (List.mem_filter.1 he).2
  · intro e he
    rw [writeBytes, List.mem_append, List.mem_append] at he
    rcases he with (he | he) | he
    · exact h.2 e (List.mem_filter.1 he).1
    · obtain ⟨_, _, h3, h4, _⟩ := mem_cellsFrom he
      simp [h3, h4]
    · exact h.2 e (List.mem_filter.1 he).1

/-- What an erased range reads as, and what every other address reads as. -/
theorem read_eraseRange (m : Assoc Byte) (a n b : Nat) :
    read (eraseRange m a n) b = if a ≤ b ∧ b < a + n then erased else read m b := by
  rw [read, eraseRange, Assoc.find_filter_key m (fun k => decide (k < a) || decide (a + n ≤ k))]
  by_cases h : a ≤ b ∧ b < a + n
  · rw [if_pos h, if_neg (by simp; omega)]
    rfl
  · rw [if_neg h, if_pos (by simp; omega)]
    rfl

theorem find_cellsFrom (bs : Bytes) (a b : Nat) :
    Assoc.find (cellsFrom a bs) b =
      if a ≤ b ∧ b < a + bs.length ∧ b < Config.flashBytes ∧ bs[b - a]? ≠ some erased then bs[b - a]? else none := by
  induction bs generalizing a with
  | nil => simp [cellsFrom]
  | cons x rest ih =>
    have hlen : (x :: rest).length = rest.length + 1 := rfl
    simp only [cellsFrom]
    by_cases hb : b = a
    · subst hb
      have hnone : Assoc.find (cellsFrom (b + 1) rest) b = none := by
        rw [ih, if_neg (by omega)]
      split
      · rename_i hx
        simp only [Bool.or_eq_true, decide_eq_true_eq] at hx
        rw [hnone, if_neg]
        rintro ⟨_, _, h3, h4⟩
        rcases hx with hx | hx
        · exact h4 (by simp [hx])
        · omega
      · rename_i hx
        simp only [Bool.or_eq_true, decide_eq_true_eq, not_or, not_le] at hx
        rw [Assoc.find, if_pos rfl, if_pos]
        · simp
        · exact ⟨le_refl _, by omega, hx.2, by simpa using hx.1⟩
    · have hrest : Assoc.find (cellsFrom (a + 1) rest) b =
          if a ≤ b ∧ b < a + (x :: rest).length ∧ b < Config.flashBytes ∧ (x :: rest)[b - a]? ≠ some erased then
            (x :: rest)[b - a]? else none := by
        rw [ih]
        by_cases hab : a < b
        · rw [show b - a = (b - (a + 1)) + 1 by omega, List.getElem?_cons_succ, hlen]
          exact if_congr ⟨fun h => ⟨by omega, by omega, h.2.2⟩, fun h => ⟨by omega, by omega, h.2.2⟩⟩ rfl rfl
        · rw [if_neg (by omega), if_neg (by omega)]
      split
      · exact hrest
      · rw [Assoc.find, if_neg (Ne.symm hb)]
        exact hrest

/-- What a programmed block reads as within the flash, and what every other address reads as. -/
theorem read_writeBytes (m : Assoc Byte) (a : Nat) (bs : Bytes) (b : Nat) (hb : b < Config.flashBytes) :
    read (writeBytes m a bs) b = if a ≤ b ∧ b < a + bs.length then bs.getD (b - a) erased else read m b := by
  rw [read, writeBytes, Assoc.find_append, Assoc.find_append, find_cellsFrom,
    Assoc.find_filter_key m (fun k => decide (k < a)), Assoc.find_filter_key m (fun k => decide (a + bs.length ≤ k))]
  by_cases h : a ≤ b ∧ b < a + bs.length
  · have hin : b - a < bs.length := by omega
    rw [if_pos h, if_neg (by simp; omega), if_neg (c := decide (a + bs.length ≤ b) = true) (by simp; omega)]
    rw [List.getD_eq_getElem?_getD]
    by_cases he : bs[b - a]? = some erased
    · rw [if_neg (by simp [he]), he]
      rfl
    · rw [if_pos ⟨h.1, h.2, hb, he⟩]
      simp
  · rw [if_neg h, if_neg (c := _ ∧ _) (fun hc => h ⟨hc.1, hc.2.1⟩)]
    by_cases hlt : b < a
    · rw [if_pos (by simpa using hlt), if_neg (by simp; omega)]
      simp [read]
    · rw [if_neg (by simpa using hlt), if_pos (by simp; omega)]
      simp [read]

end Memory

end Sys2Proof.Machine
end

