-- ==== Sys2Proof/Laws/Bytes.lean ====
section
/-! SUPPORT. The laws of byte order: what is carried comes back, and a field of a record is the part put there. -/

namespace Sys2Proof.Machine

@[simp] theorem toLe_length (n v : Nat) : (toLe n v).length = n := by
  induction n generalizing v with
  | zero => rfl
  | succ n ih => simp [toLe, ih]

@[simp] theorem leNat_toLe (n v : Nat) : leNat (toLe n v) = v % 256 ^ n := by
  induction n generalizing v with
  | zero => simp [toLe, leNat, Nat.mod_one]
  | succ n ih =>
    rw [toLe, leNat, ih, BitVec.toNat_ofNat, show 256 ^ (n + 1) = 256 * 256 ^ n by rw [pow_succ, Nat.mul_comm], Nat.mod_mul]

/-- The bytes put after a prefix are read back at the prefix's length. -/
theorem slice_at (a b c : Bytes) {off n : Nat} (ho : off = a.length) (hn : n = b.length) : slice (a ++ b ++ c) off n = b := by
  subst ho hn
  simp [slice]

/-- The bytes put last are read back at the length of what stands before them. -/
theorem slice_last (a b : Bytes) {off n : Nat} (ho : off = a.length) (hn : n = b.length) : slice (a ++ b) off n = b := by
  subst ho hn
  simp [slice]

/-- A slice within the first part of a string. -/
theorem slice_append_left (a b : Bytes) {off n : Nat} (h : off + n ≤ a.length) : slice (a ++ b) off n = slice a off n := by
  rw [slice, slice, List.drop_append_of_le_length (by omega), List.take_append_of_le_length (by simp; omega)]

/-- A slice that begins behind the first part of a string. -/
theorem slice_append_right (a b : Bytes) {off n : Nat} (h : a.length ≤ off) : slice (a ++ b) off n = slice b (off - a.length) n := by
  rw [slice, slice, List.drop_append, List.drop_eq_nil_of_le h, List.nil_append]

theorem field_append_left (a b : Bytes) {off n : Nat} (h : off + n ≤ a.length) : field (a ++ b) off n = field a off n := by
  rw [field, field, slice_append_left a b h]

theorem field_append_right (a b : Bytes) {off n : Nat} (h : a.length ≤ off) : field (a ++ b) off n = field b (off - a.length) n := by
  rw [field, field, slice_append_right a b h]

/-- A number put after a prefix is read back, as far as its bytes carry it. -/
theorem field_toLe_at (a c : Bytes) (v : Nat) {off n : Nat} (ho : off = a.length) : field (a ++ toLe n v ++ c) off n = v % 256 ^ n := by
  rw [field, slice_at a (toLe n v) c ho (by simp), leNat_toLe]

/-- A number put last is read back, as far as its bytes carry it. -/
theorem field_toLe_last (a : Bytes) (v : Nat) {off n : Nat} (ho : off = a.length) : field (a ++ toLe n v) off n = v % 256 ^ n := by
  rw [field, slice_last a (toLe n v) ho (by simp), leNat_toLe]

theorem leNat_lt (b : Bytes) : leNat b < 256 ^ b.length := by
  induction b with
  | nil => simp [leNat]
  | cons x rest ih =>
    have := x.isLt
    rw [leNat, List.length_cons, pow_succ]
    omega

/-- The check carried by a string that ends in it is good. -/
theorem checkGood_append (pre covered : Bytes) {off : Nat} (ho : off = pre.length) :
    checkGood covered (pre ++ checkBytes covered) off = true := by
  have h := (crc16 covered).isLt
  rw [checkGood, checkBytes, field_toLe_last pre _ ho]
  simp only [beq_iff_eq]
  omega

/-! ### Records (R167) -/

theorem parseFrameOpen_bytes (r : FrameOpenRecord) (hw : r.width < 65536) (hh : r.height < 65536) :
    parseFrameOpen (frameOpenBytes r) = some r := by
  obtain ⟨f, w, h⟩ := r
  have hf := f.isLt
  simp only at hw hh
  simp [parseFrameOpen, frameOpenBytes, frameAt, byteAt, field, slice, toLe, leNat]
  refine ⟨?_, by omega, by omega⟩
  apply BitVec.eq_of_toNat_eq
  simp
  omega

theorem parseFrameClose_bytes (f : FrameNo) : parseFrameClose (frameCloseBytes f) = some f := by
  have hf := f.isLt
  simp [parseFrameClose, frameCloseBytes, frameAt, byteAt, field, slice, toLe, leNat]
  apply BitVec.eq_of_toNat_eq
  simp
  omega

theorem parseLine_bytes (r : LineRecord) (hi : r.index < 65536) (hp : r.payload.length < 65536) (hc : r.check < 65536) :
    parseLine (lineBytes r) = some r := by
  obtain ⟨v, p, c⟩ := r
  simp only at hi hp hc
  have e : lineBytes ⟨v, p, c⟩ = [0x12] ++ toLe 2 v ++ (toLe 2 p.length ++ (p ++ toLe 2 c)) := by
    simp [lineBytes]
  have e' : lineBytes ⟨v, p, c⟩ = ([0x12] ++ toLe 2 v) ++ toLe 2 p.length ++ (p ++ toLe 2 c) := by
    simp [lineBytes]
  have e'' : lineBytes ⟨v, p, c⟩ = ([0x12] ++ toLe 2 v ++ toLe 2 p.length) ++ p ++ toLe 2 c := by
    simp [lineBytes]
  have h1 : field (lineBytes ⟨v, p, c⟩) 1 2 = v := by
    rw [e, field_toLe_at _ _ _ (by simp)]
    omega
  have h3 : field (lineBytes ⟨v, p, c⟩) 3 2 = p.length := by
    rw [e', field_toLe_at _ _ _ (by simp)]
    omega
  have h5 : slice (lineBytes ⟨v, p, c⟩) 5 p.length = p := by
    rw [e'', slice_at _ _ _ (by simp) rfl]
  have h6 : field (lineBytes ⟨v, p, c⟩) (5 + p.length) 2 = c := by
    rw [e'', field_toLe_last _ _ (by simp; omega)]
    omega
  have h0 : byteAt (lineBytes ⟨v, p, c⟩) 0 = 0x12 := by
    simp [byteAt, field, slice, lineBytes, leNat]
  have hl : (lineBytes ⟨v, p, c⟩).length = 7 + p.length := by
    simp [lineBytes]
    omega
  rw [parseLine, h0, h3, hl, if_pos (by simp), h1, h5, h6]

theorem isCellRecord_bytes (r : CellRecord) : isCellRecord (cellBytes r) = true := rfl

theorem parseCell_bytes (r : CellRecord) (h : r.payload.length ≤ 1035) : parseCell (cellBytes r) = some r := by
  obtain ⟨t, c, p⟩ := r
  simp only at h
  have ht := t.isLt
  have hc := c.isLt
  have e : cellBytes ⟨t, c, p⟩ = [0x14, t, c] ++ toLe 2 p.length ++ (p ++ checkBytes ([t, c] ++ toLe 2 p.length ++ p)) := by
    simp [cellBytes, withCheck]
  have e' : cellBytes ⟨t, c, p⟩ = ([0x14, t, c] ++ toLe 2 p.length) ++ p ++ checkBytes ([t, c] ++ toLe 2 p.length ++ p) := by
    simp [cellBytes, withCheck]
  have e'' : cellBytes ⟨t, c, p⟩ = [0x14] ++ ([t, c] ++ toLe 2 p.length ++ p) ++ checkBytes ([t, c] ++ toLe 2 p.length ++ p) := by
    simp [cellBytes, withCheck]
  have h3 : field (cellBytes ⟨t, c, p⟩) 3 2 = p.length := by
    rw [e, field_toLe_at _ _ _ (by simp)]
    omega
  have h5 : slice (cellBytes ⟨t, c, p⟩) 5 p.length = p := by
    rw [e', slice_at _ _ _ (by simp) rfl]
  have h1 : slice (cellBytes ⟨t, c, p⟩) 1 (4 + p.length) = [t, c] ++ toLe 2 p.length ++ p := by
    rw [e'', slice_at _ _ _ (by simp) (by simp; omega)]
  have hg : checkGood ([t, c] ++ toLe 2 p.length ++ p) (cellBytes ⟨t, c, p⟩) (5 + p.length) = true := by
    rw [e'']
    exact checkGood_append _ _ (by simp; omega)
  have hl : (cellBytes ⟨t, c, p⟩).length = 7 + p.length := by
    simp [cellBytes, withCheck, checkBytes]
    omega
  have b1 : byteAt (cellBytes ⟨t, c, p⟩) 1 = t.toNat := by simp [byteAt, field, slice, cellBytes, withCheck, leNat]
  have b2 : byteAt (cellBytes ⟨t, c, p⟩) 2 = c.toNat := by simp [byteAt, field, slice, cellBytes, withCheck, leNat]
  simp only [parseCell, h3, h1, hg, hl, h5, b1, b2, isCellRecord_bytes]
  have hm : p.length ≤ Config.maxCellPayload := h
  simp [hm]

/-! ### Keys (R173) -/

theorem keyAt_bytes (key : Key) (pre rest : Bytes) {off : Nat} (ho : off = pre.length) :
    keyAt (pre ++ key.bytes ++ rest) off = some key := by
  subst ho
  have hb : ∀ i, i < 3 → byteAt (pre ++ key.bytes ++ rest) (pre.length + i) = byteAt key.bytes i := by
    intro i hi
    have hl : key.bytes.length = 3 := by cases key <;> rfl
    rw [byteAt, List.append_assoc, field_append_right _ _ (by omega), Nat.add_sub_cancel_left,
      field_append_left _ _ (by omega), byteAt]
  have h0 := hb 0 (by decide)
  have h1 := hb 1 (by decide)
  have h2 := hb 2 (by decide)
  rw [Nat.add_zero] at h0
  rw [keyAt, h0, h1, h2]
  clear hb h0 h1 h2
  cases key with
  | mesh k => revert k; decide
  | blend k m => revert k m; decide
  | tone k => revert k; decide
  | lossmap => decide

end Sys2Proof.Machine
end

