-- ==== Sys2Proof/Laws/State.lean ====
section
/-! SUPPORT. What each named update of the state leaves in each field: one lemma per field per update, so that no proof
unfolds an update. -/

namespace Sys2Proof.Machine

variable (s : State)

/-! ### setInput -/

@[simp] theorem State.setInput_pending (k : Channel) (x : InputPort) : (s.setInput k x).pending = s.pending := rfl
@[simp] theorem State.setInput_now (k : Channel) (x : InputPort) : (s.setInput k x).now = s.now := rfl
@[simp] theorem State.setInput_free (k : Channel) (x : InputPort) : (s.setInput k x).free = s.free := rfl
@[simp] theorem State.setInput_straps (k : Channel) (x : InputPort) : (s.setInput k x).straps = s.straps := rfl
@[simp] theorem State.setInput_inputs (k : Channel) (x : InputPort) : (s.setInput k x).inputs = s.inputs.set k x := rfl
@[simp] theorem State.setInput_rings (k : Channel) (x : InputPort) : (s.setInput k x).rings = s.rings := rfl
@[simp] theorem State.setInput_coh (k : Channel) (x : InputPort) : (s.setInput k x).coh = s.coh := rfl
@[simp] theorem State.setInput_timer (k : Channel) (x : InputPort) : (s.setInput k x).timer = s.timer := rfl
@[simp] theorem State.setInput_warps (k : Channel) (x : InputPort) : (s.setInput k x).warps = s.warps := rfl
@[simp] theorem State.setInput_lights (k : Channel) (x : InputPort) : (s.setInput k x).lights = s.lights := rfl
@[simp] theorem State.setInput_outputs (k : Channel) (x : InputPort) : (s.setInput k x).outputs = s.outputs := rfl
@[simp] theorem State.setInput_modes (k : Channel) (x : InputPort) : (s.setInput k x).modes = s.modes := rfl
@[simp] theorem State.setInput_loss (k : Channel) (x : InputPort) : (s.setInput k x).loss = s.loss := rfl
@[simp] theorem State.setInput_tables (k : Channel) (x : InputPort) : (s.setInput k x).tables = s.tables := rfl
@[simp] theorem State.setInput_cells (k : Channel) (x : InputPort) : (s.setInput k x).cells = s.cells := rfl
@[simp] theorem State.setInput_resetWait (k : Channel) (x : InputPort) : (s.setInput k x).resetWait = s.resetWait := rfl
@[simp] theorem State.setInput_lanes (k : Channel) (x : InputPort) : (s.setInput k x).lanes = s.lanes := rfl
@[simp] theorem State.setInput_settings (k : Channel) (x : InputPort) : (s.setInput k x).settings = s.settings := rfl
@[simp] theorem State.setInput_latches (k : Channel) (x : InputPort) : (s.setInput k x).latches = s.latches := rfl
@[simp] theorem State.setInput_notices (k : Channel) (x : InputPort) : (s.setInput k x).notices = s.notices := rfl
@[simp] theorem State.setInput_faults (k : Channel) (x : InputPort) : (s.setInput k x).faults = s.faults := rfl
@[simp] theorem State.setInput_overflow (k : Channel) (x : InputPort) : (s.setInput k x).overflow = s.overflow := rfl
@[simp] theorem State.setInput_loader (k : Channel) (x : InputPort) : (s.setInput k x).loader = s.loader := rfl
@[simp] theorem State.setInput_flash (k : Channel) (x : InputPort) : (s.setInput k x).flash = s.flash := rfl
@[simp] theorem State.setInput_ringOut (k : Channel) (x : InputPort) : (s.setInput k x).ringOut = s.ringOut := rfl
@[simp] theorem State.setInput_syncPulses (k : Channel) (x : InputPort) : (s.setInput k x).syncPulses = s.syncPulses := rfl

/-! ### setRing -/

@[simp] theorem State.setRing_pending (k : Channel) (x : SlotRing) : (s.setRing k x).pending = s.pending := rfl
@[simp] theorem State.setRing_now (k : Channel) (x : SlotRing) : (s.setRing k x).now = s.now := rfl
@[simp] theorem State.setRing_free (k : Channel) (x : SlotRing) : (s.setRing k x).free = s.free := rfl
@[simp] theorem State.setRing_straps (k : Channel) (x : SlotRing) : (s.setRing k x).straps = s.straps := rfl
@[simp] theorem State.setRing_inputs (k : Channel) (x : SlotRing) : (s.setRing k x).inputs = s.inputs := rfl
@[simp] theorem State.setRing_rings (k : Channel) (x : SlotRing) : (s.setRing k x).rings = s.rings.set k x := rfl
@[simp] theorem State.setRing_coh (k : Channel) (x : SlotRing) : (s.setRing k x).coh = s.coh := rfl
@[simp] theorem State.setRing_timer (k : Channel) (x : SlotRing) : (s.setRing k x).timer = s.timer := rfl
@[simp] theorem State.setRing_warps (k : Channel) (x : SlotRing) : (s.setRing k x).warps = s.warps := rfl
@[simp] theorem State.setRing_lights (k : Channel) (x : SlotRing) : (s.setRing k x).lights = s.lights := rfl
@[simp] theorem State.setRing_outputs (k : Channel) (x : SlotRing) : (s.setRing k x).outputs = s.outputs := rfl
@[simp] theorem State.setRing_modes (k : Channel) (x : SlotRing) : (s.setRing k x).modes = s.modes := rfl
@[simp] theorem State.setRing_loss (k : Channel) (x : SlotRing) : (s.setRing k x).loss = s.loss := rfl
@[simp] theorem State.setRing_tables (k : Channel) (x : SlotRing) : (s.setRing k x).tables = s.tables := rfl
@[simp] theorem State.setRing_cells (k : Channel) (x : SlotRing) : (s.setRing k x).cells = s.cells := rfl
@[simp] theorem State.setRing_resetWait (k : Channel) (x : SlotRing) : (s.setRing k x).resetWait = s.resetWait := rfl
@[simp] theorem State.setRing_lanes (k : Channel) (x : SlotRing) : (s.setRing k x).lanes = s.lanes := rfl
@[simp] theorem State.setRing_settings (k : Channel) (x : SlotRing) : (s.setRing k x).settings = s.settings := rfl
@[simp] theorem State.setRing_latches (k : Channel) (x : SlotRing) : (s.setRing k x).latches = s.latches := rfl
@[simp] theorem State.setRing_notices (k : Channel) (x : SlotRing) : (s.setRing k x).notices = s.notices := rfl
@[simp] theorem State.setRing_faults (k : Channel) (x : SlotRing) : (s.setRing k x).faults = s.faults := rfl
@[simp] theorem State.setRing_overflow (k : Channel) (x : SlotRing) : (s.setRing k x).overflow = s.overflow := rfl
@[simp] theorem State.setRing_loader (k : Channel) (x : SlotRing) : (s.setRing k x).loader = s.loader := rfl
@[simp] theorem State.setRing_flash (k : Channel) (x : SlotRing) : (s.setRing k x).flash = s.flash := rfl
@[simp] theorem State.setRing_ringOut (k : Channel) (x : SlotRing) : (s.setRing k x).ringOut = s.ringOut := rfl
@[simp] theorem State.setRing_syncPulses (k : Channel) (x : SlotRing) : (s.setRing k x).syncPulses = s.syncPulses := rfl

/-! ### setWarp -/

@[simp] theorem State.setWarp_pending (k : Channel) (x : WarpUnit) : (s.setWarp k x).pending = s.pending := rfl
@[simp] theorem State.setWarp_now (k : Channel) (x : WarpUnit) : (s.setWarp k x).now = s.now := rfl
@[simp] theorem State.setWarp_free (k : Channel) (x : WarpUnit) : (s.setWarp k x).free = s.free := rfl
@[simp] theorem State.setWarp_straps (k : Channel) (x : WarpUnit) : (s.setWarp k x).straps = s.straps := rfl
@[simp] theorem State.setWarp_inputs (k : Channel) (x : WarpUnit) : (s.setWarp k x).inputs = s.inputs := rfl
@[simp] theorem State.setWarp_rings (k : Channel) (x : WarpUnit) : (s.setWarp k x).rings = s.rings := rfl
@[simp] theorem State.setWarp_coh (k : Channel) (x : WarpUnit) : (s.setWarp k x).coh = s.coh := rfl
@[simp] theorem State.setWarp_timer (k : Channel) (x : WarpUnit) : (s.setWarp k x).timer = s.timer := rfl
@[simp] theorem State.setWarp_warps (k : Channel) (x : WarpUnit) : (s.setWarp k x).warps = s.warps.set k x := rfl
@[simp] theorem State.setWarp_lights (k : Channel) (x : WarpUnit) : (s.setWarp k x).lights = s.lights := rfl
@[simp] theorem State.setWarp_outputs (k : Channel) (x : WarpUnit) : (s.setWarp k x).outputs = s.outputs := rfl
@[simp] theorem State.setWarp_modes (k : Channel) (x : WarpUnit) : (s.setWarp k x).modes = s.modes := rfl
@[simp] theorem State.setWarp_loss (k : Channel) (x : WarpUnit) : (s.setWarp k x).loss = s.loss := rfl
@[simp] theorem State.setWarp_tables (k : Channel) (x : WarpUnit) : (s.setWarp k x).tables = s.tables := rfl
@[simp] theorem State.setWarp_cells (k : Channel) (x : WarpUnit) : (s.setWarp k x).cells = s.cells := rfl
@[simp] theorem State.setWarp_resetWait (k : Channel) (x : WarpUnit) : (s.setWarp k x).resetWait = s.resetWait := rfl
@[simp] theorem State.setWarp_lanes (k : Channel) (x : WarpUnit) : (s.setWarp k x).lanes = s.lanes := rfl
@[simp] theorem State.setWarp_settings (k : Channel) (x : WarpUnit) : (s.setWarp k x).settings = s.settings := rfl
@[simp] theorem State.setWarp_latches (k : Channel) (x : WarpUnit) : (s.setWarp k x).latches = s.latches := rfl
@[simp] theorem State.setWarp_notices (k : Channel) (x : WarpUnit) : (s.setWarp k x).notices = s.notices := rfl
@[simp] theorem State.setWarp_faults (k : Channel) (x : WarpUnit) : (s.setWarp k x).faults = s.faults := rfl
@[simp] theorem State.setWarp_overflow (k : Channel) (x : WarpUnit) : (s.setWarp k x).overflow = s.overflow := rfl
@[simp] theorem State.setWarp_loader (k : Channel) (x : WarpUnit) : (s.setWarp k x).loader = s.loader := rfl
@[simp] theorem State.setWarp_flash (k : Channel) (x : WarpUnit) : (s.setWarp k x).flash = s.flash := rfl
@[simp] theorem State.setWarp_ringOut (k : Channel) (x : WarpUnit) : (s.setWarp k x).ringOut = s.ringOut := rfl
@[simp] theorem State.setWarp_syncPulses (k : Channel) (x : WarpUnit) : (s.setWarp k x).syncPulses = s.syncPulses := rfl

/-! ### setLight -/

@[simp] theorem State.setLight_pending (k : Channel) (x : LightUnit) : (s.setLight k x).pending = s.pending := rfl
@[simp] theorem State.setLight_now (k : Channel) (x : LightUnit) : (s.setLight k x).now = s.now := rfl
@[simp] theorem State.setLight_free (k : Channel) (x : LightUnit) : (s.setLight k x).free = s.free := rfl
@[simp] theorem State.setLight_straps (k : Channel) (x : LightUnit) : (s.setLight k x).straps = s.straps := rfl
@[simp] theorem State.setLight_inputs (k : Channel) (x : LightUnit) : (s.setLight k x).inputs = s.inputs := rfl
@[simp] theorem State.setLight_rings (k : Channel) (x : LightUnit) : (s.setLight k x).rings = s.rings := rfl
@[simp] theorem State.setLight_coh (k : Channel) (x : LightUnit) : (s.setLight k x).coh = s.coh := rfl
@[simp] theorem State.setLight_timer (k : Channel) (x : LightUnit) : (s.setLight k x).timer = s.timer := rfl
@[simp] theorem State.setLight_warps (k : Channel) (x : LightUnit) : (s.setLight k x).warps = s.warps := rfl
@[simp] theorem State.setLight_lights (k : Channel) (x : LightUnit) : (s.setLight k x).lights = s.lights.set k x := rfl
@[simp] theorem State.setLight_outputs (k : Channel) (x : LightUnit) : (s.setLight k x).outputs = s.outputs := rfl
@[simp] theorem State.setLight_modes (k : Channel) (x : LightUnit) : (s.setLight k x).modes = s.modes := rfl
@[simp] theorem State.setLight_loss (k : Channel) (x : LightUnit) : (s.setLight k x).loss = s.loss := rfl
@[simp] theorem State.setLight_tables (k : Channel) (x : LightUnit) : (s.setLight k x).tables = s.tables := rfl
@[simp] theorem State.setLight_cells (k : Channel) (x : LightUnit) : (s.setLight k x).cells = s.cells := rfl
@[simp] theorem State.setLight_resetWait (k : Channel) (x : LightUnit) : (s.setLight k x).resetWait = s.resetWait := rfl
@[simp] theorem State.setLight_lanes (k : Channel) (x : LightUnit) : (s.setLight k x).lanes = s.lanes := rfl
@[simp] theorem State.setLight_settings (k : Channel) (x : LightUnit) : (s.setLight k x).settings = s.settings := rfl
@[simp] theorem State.setLight_latches (k : Channel) (x : LightUnit) : (s.setLight k x).latches = s.latches := rfl
@[simp] theorem State.setLight_notices (k : Channel) (x : LightUnit) : (s.setLight k x).notices = s.notices := rfl
@[simp] theorem State.setLight_faults (k : Channel) (x : LightUnit) : (s.setLight k x).faults = s.faults := rfl
@[simp] theorem State.setLight_overflow (k : Channel) (x : LightUnit) : (s.setLight k x).overflow = s.overflow := rfl
@[simp] theorem State.setLight_loader (k : Channel) (x : LightUnit) : (s.setLight k x).loader = s.loader := rfl
@[simp] theorem State.setLight_flash (k : Channel) (x : LightUnit) : (s.setLight k x).flash = s.flash := rfl
@[simp] theorem State.setLight_ringOut (k : Channel) (x : LightUnit) : (s.setLight k x).ringOut = s.ringOut := rfl
@[simp] theorem State.setLight_syncPulses (k : Channel) (x : LightUnit) : (s.setLight k x).syncPulses = s.syncPulses := rfl

/-! ### setOutput -/

@[simp] theorem State.setOutput_pending (k : Channel) (x : OutputPort) : (s.setOutput k x).pending = s.pending := rfl
@[simp] theorem State.setOutput_now (k : Channel) (x : OutputPort) : (s.setOutput k x).now = s.now := rfl
@[simp] theorem State.setOutput_free (k : Channel) (x : OutputPort) : (s.setOutput k x).free = s.free := rfl
@[simp] theorem State.setOutput_straps (k : Channel) (x : OutputPort) : (s.setOutput k x).straps = s.straps := rfl
@[simp] theorem State.setOutput_inputs (k : Channel) (x : OutputPort) : (s.setOutput k x).inputs = s.inputs := rfl
@[simp] theorem State.setOutput_rings (k : Channel) (x : OutputPort) : (s.setOutput k x).rings = s.rings := rfl
@[simp] theorem State.setOutput_coh (k : Channel) (x : OutputPort) : (s.setOutput k x).coh = s.coh := rfl
@[simp] theorem State.setOutput_timer (k : Channel) (x : OutputPort) : (s.setOutput k x).timer = s.timer := rfl
@[simp] theorem State.setOutput_warps (k : Channel) (x : OutputPort) : (s.setOutput k x).warps = s.warps := rfl
@[simp] theorem State.setOutput_lights (k : Channel) (x : OutputPort) : (s.setOutput k x).lights = s.lights := rfl
@[simp] theorem State.setOutput_outputs (k : Channel) (x : OutputPort) : (s.setOutput k x).outputs = s.outputs.set k x := rfl
@[simp] theorem State.setOutput_modes (k : Channel) (x : OutputPort) : (s.setOutput k x).modes = s.modes := rfl
@[simp] theorem State.setOutput_loss (k : Channel) (x : OutputPort) : (s.setOutput k x).loss = s.loss := rfl
@[simp] theorem State.setOutput_tables (k : Channel) (x : OutputPort) : (s.setOutput k x).tables = s.tables := rfl
@[simp] theorem State.setOutput_cells (k : Channel) (x : OutputPort) : (s.setOutput k x).cells = s.cells := rfl
@[simp] theorem State.setOutput_resetWait (k : Channel) (x : OutputPort) : (s.setOutput k x).resetWait = s.resetWait := rfl
@[simp] theorem State.setOutput_lanes (k : Channel) (x : OutputPort) : (s.setOutput k x).lanes = s.lanes := rfl
@[simp] theorem State.setOutput_settings (k : Channel) (x : OutputPort) : (s.setOutput k x).settings = s.settings := rfl
@[simp] theorem State.setOutput_latches (k : Channel) (x : OutputPort) : (s.setOutput k x).latches = s.latches := rfl
@[simp] theorem State.setOutput_notices (k : Channel) (x : OutputPort) : (s.setOutput k x).notices = s.notices := rfl
@[simp] theorem State.setOutput_faults (k : Channel) (x : OutputPort) : (s.setOutput k x).faults = s.faults := rfl
@[simp] theorem State.setOutput_overflow (k : Channel) (x : OutputPort) : (s.setOutput k x).overflow = s.overflow := rfl
@[simp] theorem State.setOutput_loader (k : Channel) (x : OutputPort) : (s.setOutput k x).loader = s.loader := rfl
@[simp] theorem State.setOutput_flash (k : Channel) (x : OutputPort) : (s.setOutput k x).flash = s.flash := rfl
@[simp] theorem State.setOutput_ringOut (k : Channel) (x : OutputPort) : (s.setOutput k x).ringOut = s.ringOut := rfl
@[simp] theorem State.setOutput_syncPulses (k : Channel) (x : OutputPort) : (s.setOutput k x).syncPulses = s.syncPulses := rfl

/-! ### setLane -/

@[simp] theorem State.setLane_pending (k : Channel) (x : ReverseLane) : (s.setLane k x).pending = s.pending := rfl
@[simp] theorem State.setLane_now (k : Channel) (x : ReverseLane) : (s.setLane k x).now = s.now := rfl
@[simp] theorem State.setLane_free (k : Channel) (x : ReverseLane) : (s.setLane k x).free = s.free := rfl
@[simp] theorem State.setLane_straps (k : Channel) (x : ReverseLane) : (s.setLane k x).straps = s.straps := rfl
@[simp] theorem State.setLane_inputs (k : Channel) (x : ReverseLane) : (s.setLane k x).inputs = s.inputs := rfl
@[simp] theorem State.setLane_rings (k : Channel) (x : ReverseLane) : (s.setLane k x).rings = s.rings := rfl
@[simp] theorem State.setLane_coh (k : Channel) (x : ReverseLane) : (s.setLane k x).coh = s.coh := rfl
@[simp] theorem State.setLane_timer (k : Channel) (x : ReverseLane) : (s.setLane k x).timer = s.timer := rfl
@[simp] theorem State.setLane_warps (k : Channel) (x : ReverseLane) : (s.setLane k x).warps = s.warps := rfl
@[simp] theorem State.setLane_lights (k : Channel) (x : ReverseLane) : (s.setLane k x).lights = s.lights := rfl
@[simp] theorem State.setLane_outputs (k : Channel) (x : ReverseLane) : (s.setLane k x).outputs = s.outputs := rfl
@[simp] theorem State.setLane_modes (k : Channel) (x : ReverseLane) : (s.setLane k x).modes = s.modes := rfl
@[simp] theorem State.setLane_loss (k : Channel) (x : ReverseLane) : (s.setLane k x).loss = s.loss := rfl
@[simp] theorem State.setLane_tables (k : Channel) (x : ReverseLane) : (s.setLane k x).tables = s.tables := rfl
@[simp] theorem State.setLane_cells (k : Channel) (x : ReverseLane) : (s.setLane k x).cells = s.cells := rfl
@[simp] theorem State.setLane_resetWait (k : Channel) (x : ReverseLane) : (s.setLane k x).resetWait = s.resetWait := rfl
@[simp] theorem State.setLane_lanes (k : Channel) (x : ReverseLane) : (s.setLane k x).lanes = s.lanes.set k x := rfl
@[simp] theorem State.setLane_settings (k : Channel) (x : ReverseLane) : (s.setLane k x).settings = s.settings := rfl
@[simp] theorem State.setLane_latches (k : Channel) (x : ReverseLane) : (s.setLane k x).latches = s.latches := rfl
@[simp] theorem State.setLane_notices (k : Channel) (x : ReverseLane) : (s.setLane k x).notices = s.notices := rfl
@[simp] theorem State.setLane_faults (k : Channel) (x : ReverseLane) : (s.setLane k x).faults = s.faults := rfl
@[simp] theorem State.setLane_overflow (k : Channel) (x : ReverseLane) : (s.setLane k x).overflow = s.overflow := rfl
@[simp] theorem State.setLane_loader (k : Channel) (x : ReverseLane) : (s.setLane k x).loader = s.loader := rfl
@[simp] theorem State.setLane_flash (k : Channel) (x : ReverseLane) : (s.setLane k x).flash = s.flash := rfl
@[simp] theorem State.setLane_ringOut (k : Channel) (x : ReverseLane) : (s.setLane k x).ringOut = s.ringOut := rfl
@[simp] theorem State.setLane_syncPulses (k : Channel) (x : ReverseLane) : (s.setLane k x).syncPulses = s.syncPulses := rfl

/-! ### setTables -/

@[simp] theorem State.setTables_pending (x : TableStore) : (s.setTables x).pending = s.pending := rfl
@[simp] theorem State.setTables_now (x : TableStore) : (s.setTables x).now = s.now := rfl
@[simp] theorem State.setTables_free (x : TableStore) : (s.setTables x).free = s.free := rfl
@[simp] theorem State.setTables_straps (x : TableStore) : (s.setTables x).straps = s.straps := rfl
@[simp] theorem State.setTables_inputs (x : TableStore) : (s.setTables x).inputs = s.inputs := rfl
@[simp] theorem State.setTables_rings (x : TableStore) : (s.setTables x).rings = s.rings := rfl
@[simp] theorem State.setTables_coh (x : TableStore) : (s.setTables x).coh = s.coh := rfl
@[simp] theorem State.setTables_timer (x : TableStore) : (s.setTables x).timer = s.timer := rfl
@[simp] theorem State.setTables_warps (x : TableStore) : (s.setTables x).warps = s.warps := rfl
@[simp] theorem State.setTables_lights (x : TableStore) : (s.setTables x).lights = s.lights := rfl
@[simp] theorem State.setTables_outputs (x : TableStore) : (s.setTables x).outputs = s.outputs := rfl
@[simp] theorem State.setTables_modes (x : TableStore) : (s.setTables x).modes = s.modes := rfl
@[simp] theorem State.setTables_loss (x : TableStore) : (s.setTables x).loss = s.loss := rfl
@[simp] theorem State.setTables_tables (x : TableStore) : (s.setTables x).tables = x := rfl
@[simp] theorem State.setTables_cells (x : TableStore) : (s.setTables x).cells = s.cells := rfl
@[simp] theorem State.setTables_resetWait (x : TableStore) : (s.setTables x).resetWait = s.resetWait := rfl
@[simp] theorem State.setTables_lanes (x : TableStore) : (s.setTables x).lanes = s.lanes := rfl
@[simp] theorem State.setTables_settings (x : TableStore) : (s.setTables x).settings = s.settings := rfl
@[simp] theorem State.setTables_latches (x : TableStore) : (s.setTables x).latches = s.latches := rfl
@[simp] theorem State.setTables_notices (x : TableStore) : (s.setTables x).notices = s.notices := rfl
@[simp] theorem State.setTables_faults (x : TableStore) : (s.setTables x).faults = s.faults := rfl
@[simp] theorem State.setTables_overflow (x : TableStore) : (s.setTables x).overflow = s.overflow := rfl
@[simp] theorem State.setTables_loader (x : TableStore) : (s.setTables x).loader = s.loader := rfl
@[simp] theorem State.setTables_flash (x : TableStore) : (s.setTables x).flash = s.flash := rfl
@[simp] theorem State.setTables_ringOut (x : TableStore) : (s.setTables x).ringOut = s.ringOut := rfl
@[simp] theorem State.setTables_syncPulses (x : TableStore) : (s.setTables x).syncPulses = s.syncPulses := rfl

/-! ### setDirectory -/

@[simp] theorem State.setDirectory_pending (x : Assoc TableRecord) : (s.setDirectory x).pending = s.pending := rfl
@[simp] theorem State.setDirectory_now (x : Assoc TableRecord) : (s.setDirectory x).now = s.now := rfl
@[simp] theorem State.setDirectory_free (x : Assoc TableRecord) : (s.setDirectory x).free = s.free := rfl
@[simp] theorem State.setDirectory_straps (x : Assoc TableRecord) : (s.setDirectory x).straps = s.straps := rfl
@[simp] theorem State.setDirectory_inputs (x : Assoc TableRecord) : (s.setDirectory x).inputs = s.inputs := rfl
@[simp] theorem State.setDirectory_rings (x : Assoc TableRecord) : (s.setDirectory x).rings = s.rings := rfl
@[simp] theorem State.setDirectory_coh (x : Assoc TableRecord) : (s.setDirectory x).coh = s.coh := rfl
@[simp] theorem State.setDirectory_timer (x : Assoc TableRecord) : (s.setDirectory x).timer = s.timer := rfl
@[simp] theorem State.setDirectory_warps (x : Assoc TableRecord) : (s.setDirectory x).warps = s.warps := rfl
@[simp] theorem State.setDirectory_lights (x : Assoc TableRecord) : (s.setDirectory x).lights = s.lights := rfl
@[simp] theorem State.setDirectory_outputs (x : Assoc TableRecord) : (s.setDirectory x).outputs = s.outputs := rfl
@[simp] theorem State.setDirectory_modes (x : Assoc TableRecord) : (s.setDirectory x).modes = s.modes := rfl
@[simp] theorem State.setDirectory_loss (x : Assoc TableRecord) : (s.setDirectory x).loss = s.loss := rfl
@[simp] theorem State.setDirectory_tables (x : Assoc TableRecord) : (s.setDirectory x).tables = { s.tables with directory := x } := rfl
@[simp] theorem State.setDirectory_cells (x : Assoc TableRecord) : (s.setDirectory x).cells = s.cells := rfl
@[simp] theorem State.setDirectory_resetWait (x : Assoc TableRecord) : (s.setDirectory x).resetWait = s.resetWait := rfl
@[simp] theorem State.setDirectory_lanes (x : Assoc TableRecord) : (s.setDirectory x).lanes = s.lanes := rfl
@[simp] theorem State.setDirectory_settings (x : Assoc TableRecord) : (s.setDirectory x).settings = s.settings := rfl
@[simp] theorem State.setDirectory_latches (x : Assoc TableRecord) : (s.setDirectory x).latches = s.latches := rfl
@[simp] theorem State.setDirectory_notices (x : Assoc TableRecord) : (s.setDirectory x).notices = s.notices := rfl
@[simp] theorem State.setDirectory_faults (x : Assoc TableRecord) : (s.setDirectory x).faults = s.faults := rfl
@[simp] theorem State.setDirectory_overflow (x : Assoc TableRecord) : (s.setDirectory x).overflow = s.overflow := rfl
@[simp] theorem State.setDirectory_loader (x : Assoc TableRecord) : (s.setDirectory x).loader = s.loader := rfl
@[simp] theorem State.setDirectory_flash (x : Assoc TableRecord) : (s.setDirectory x).flash = s.flash := rfl
@[simp] theorem State.setDirectory_ringOut (x : Assoc TableRecord) : (s.setDirectory x).ringOut = s.ringOut := rfl
@[simp] theorem State.setDirectory_syncPulses (x : Assoc TableRecord) : (s.setDirectory x).syncPulses = s.syncPulses := rfl

/-! ### setCoh -/

@[simp] theorem State.setCoh_pending (x : Coherence) : (s.setCoh x).pending = s.pending := rfl
@[simp] theorem State.setCoh_now (x : Coherence) : (s.setCoh x).now = s.now := rfl
@[simp] theorem State.setCoh_free (x : Coherence) : (s.setCoh x).free = s.free := rfl
@[simp] theorem State.setCoh_straps (x : Coherence) : (s.setCoh x).straps = s.straps := rfl
@[simp] theorem State.setCoh_inputs (x : Coherence) : (s.setCoh x).inputs = s.inputs := rfl
@[simp] theorem State.setCoh_rings (x : Coherence) : (s.setCoh x).rings = s.rings := rfl
@[simp] theorem State.setCoh_coh (x : Coherence) : (s.setCoh x).coh = x := rfl
@[simp] theorem State.setCoh_timer (x : Coherence) : (s.setCoh x).timer = s.timer := rfl
@[simp] theorem State.setCoh_warps (x : Coherence) : (s.setCoh x).warps = s.warps := rfl
@[simp] theorem State.setCoh_lights (x : Coherence) : (s.setCoh x).lights = s.lights := rfl
@[simp] theorem State.setCoh_outputs (x : Coherence) : (s.setCoh x).outputs = s.outputs := rfl
@[simp] theorem State.setCoh_modes (x : Coherence) : (s.setCoh x).modes = s.modes := rfl
@[simp] theorem State.setCoh_loss (x : Coherence) : (s.setCoh x).loss = s.loss := rfl
@[simp] theorem State.setCoh_tables (x : Coherence) : (s.setCoh x).tables = s.tables := rfl
@[simp] theorem State.setCoh_cells (x : Coherence) : (s.setCoh x).cells = s.cells := rfl
@[simp] theorem State.setCoh_resetWait (x : Coherence) : (s.setCoh x).resetWait = s.resetWait := rfl
@[simp] theorem State.setCoh_lanes (x : Coherence) : (s.setCoh x).lanes = s.lanes := rfl
@[simp] theorem State.setCoh_settings (x : Coherence) : (s.setCoh x).settings = s.settings := rfl
@[simp] theorem State.setCoh_latches (x : Coherence) : (s.setCoh x).latches = s.latches := rfl
@[simp] theorem State.setCoh_notices (x : Coherence) : (s.setCoh x).notices = s.notices := rfl
@[simp] theorem State.setCoh_faults (x : Coherence) : (s.setCoh x).faults = s.faults := rfl
@[simp] theorem State.setCoh_overflow (x : Coherence) : (s.setCoh x).overflow = s.overflow := rfl
@[simp] theorem State.setCoh_loader (x : Coherence) : (s.setCoh x).loader = s.loader := rfl
@[simp] theorem State.setCoh_flash (x : Coherence) : (s.setCoh x).flash = s.flash := rfl
@[simp] theorem State.setCoh_ringOut (x : Coherence) : (s.setCoh x).ringOut = s.ringOut := rfl
@[simp] theorem State.setCoh_syncPulses (x : Coherence) : (s.setCoh x).syncPulses = s.syncPulses := rfl

/-! ### setLoader -/

@[simp] theorem State.setLoader_pending (x : ImageLoader) : (s.setLoader x).pending = s.pending := rfl
@[simp] theorem State.setLoader_now (x : ImageLoader) : (s.setLoader x).now = s.now := rfl
@[simp] theorem State.setLoader_free (x : ImageLoader) : (s.setLoader x).free = s.free := rfl
@[simp] theorem State.setLoader_straps (x : ImageLoader) : (s.setLoader x).straps = s.straps := rfl
@[simp] theorem State.setLoader_inputs (x : ImageLoader) : (s.setLoader x).inputs = s.inputs := rfl
@[simp] theorem State.setLoader_rings (x : ImageLoader) : (s.setLoader x).rings = s.rings := rfl
@[simp] theorem State.setLoader_coh (x : ImageLoader) : (s.setLoader x).coh = s.coh := rfl
@[simp] theorem State.setLoader_timer (x : ImageLoader) : (s.setLoader x).timer = s.timer := rfl
@[simp] theorem State.setLoader_warps (x : ImageLoader) : (s.setLoader x).warps = s.warps := rfl
@[simp] theorem State.setLoader_lights (x : ImageLoader) : (s.setLoader x).lights = s.lights := rfl
@[simp] theorem State.setLoader_outputs (x : ImageLoader) : (s.setLoader x).outputs = s.outputs := rfl
@[simp] theorem State.setLoader_modes (x : ImageLoader) : (s.setLoader x).modes = s.modes := rfl
@[simp] theorem State.setLoader_loss (x : ImageLoader) : (s.setLoader x).loss = s.loss := rfl
@[simp] theorem State.setLoader_tables (x : ImageLoader) : (s.setLoader x).tables = s.tables := rfl
@[simp] theorem State.setLoader_cells (x : ImageLoader) : (s.setLoader x).cells = s.cells := rfl
@[simp] theorem State.setLoader_resetWait (x : ImageLoader) : (s.setLoader x).resetWait = s.resetWait := rfl
@[simp] theorem State.setLoader_lanes (x : ImageLoader) : (s.setLoader x).lanes = s.lanes := rfl
@[simp] theorem State.setLoader_settings (x : ImageLoader) : (s.setLoader x).settings = s.settings := rfl
@[simp] theorem State.setLoader_latches (x : ImageLoader) : (s.setLoader x).latches = s.latches := rfl
@[simp] theorem State.setLoader_notices (x : ImageLoader) : (s.setLoader x).notices = s.notices := rfl
@[simp] theorem State.setLoader_faults (x : ImageLoader) : (s.setLoader x).faults = s.faults := rfl
@[simp] theorem State.setLoader_overflow (x : ImageLoader) : (s.setLoader x).overflow = s.overflow := rfl
@[simp] theorem State.setLoader_loader (x : ImageLoader) : (s.setLoader x).loader = x := rfl
@[simp] theorem State.setLoader_flash (x : ImageLoader) : (s.setLoader x).flash = s.flash := rfl
@[simp] theorem State.setLoader_ringOut (x : ImageLoader) : (s.setLoader x).ringOut = s.ringOut := rfl
@[simp] theorem State.setLoader_syncPulses (x : ImageLoader) : (s.setLoader x).syncPulses = s.syncPulses := rfl

/-! ### advanceTo -/

@[simp] theorem State.advanceTo_pending (t : Nat) : (s.advanceTo t).pending = s.pending := rfl
@[simp] theorem State.advanceTo_now (t : Nat) : (s.advanceTo t).now = max s.now t := rfl
@[simp] theorem State.advanceTo_free (t : Nat) : (s.advanceTo t).free = s.free := rfl
@[simp] theorem State.advanceTo_straps (t : Nat) : (s.advanceTo t).straps = s.straps := rfl
@[simp] theorem State.advanceTo_inputs (t : Nat) : (s.advanceTo t).inputs = s.inputs := rfl
@[simp] theorem State.advanceTo_rings (t : Nat) : (s.advanceTo t).rings = s.rings := rfl
@[simp] theorem State.advanceTo_coh (t : Nat) : (s.advanceTo t).coh = s.coh := rfl
@[simp] theorem State.advanceTo_timer (t : Nat) : (s.advanceTo t).timer = s.timer := rfl
@[simp] theorem State.advanceTo_warps (t : Nat) : (s.advanceTo t).warps = s.warps := rfl
@[simp] theorem State.advanceTo_lights (t : Nat) : (s.advanceTo t).lights = s.lights := rfl
@[simp] theorem State.advanceTo_outputs (t : Nat) : (s.advanceTo t).outputs = s.outputs := rfl
@[simp] theorem State.advanceTo_modes (t : Nat) : (s.advanceTo t).modes = s.modes := rfl
@[simp] theorem State.advanceTo_loss (t : Nat) : (s.advanceTo t).loss = s.loss := rfl
@[simp] theorem State.advanceTo_tables (t : Nat) : (s.advanceTo t).tables = s.tables := rfl
@[simp] theorem State.advanceTo_cells (t : Nat) : (s.advanceTo t).cells = s.cells := rfl
@[simp] theorem State.advanceTo_resetWait (t : Nat) : (s.advanceTo t).resetWait = s.resetWait := rfl
@[simp] theorem State.advanceTo_lanes (t : Nat) : (s.advanceTo t).lanes = s.lanes := rfl
@[simp] theorem State.advanceTo_settings (t : Nat) : (s.advanceTo t).settings = s.settings := rfl
@[simp] theorem State.advanceTo_latches (t : Nat) : (s.advanceTo t).latches = s.latches := rfl
@[simp] theorem State.advanceTo_notices (t : Nat) : (s.advanceTo t).notices = s.notices := rfl
@[simp] theorem State.advanceTo_faults (t : Nat) : (s.advanceTo t).faults = s.faults := rfl
@[simp] theorem State.advanceTo_overflow (t : Nat) : (s.advanceTo t).overflow = s.overflow := rfl
@[simp] theorem State.advanceTo_loader (t : Nat) : (s.advanceTo t).loader = s.loader := rfl
@[simp] theorem State.advanceTo_flash (t : Nat) : (s.advanceTo t).flash = s.flash := rfl
@[simp] theorem State.advanceTo_ringOut (t : Nat) : (s.advanceTo t).ringOut = s.ringOut := rfl
@[simp] theorem State.advanceTo_syncPulses (t : Nat) : (s.advanceTo t).syncPulses = s.syncPulses := rfl

/-! ### tick -/

@[simp] theorem State.tick_pending : s.tick.pending = s.pending := rfl
@[simp] theorem State.tick_now : s.tick.now = s.now + 1 := rfl
@[simp] theorem State.tick_free : s.tick.free = s.free := rfl
@[simp] theorem State.tick_straps : s.tick.straps = s.straps := rfl
@[simp] theorem State.tick_inputs : s.tick.inputs = s.inputs := rfl
@[simp] theorem State.tick_rings : s.tick.rings = s.rings := rfl
@[simp] theorem State.tick_coh : s.tick.coh = s.coh := rfl
@[simp] theorem State.tick_timer : s.tick.timer = s.timer := rfl
@[simp] theorem State.tick_warps : s.tick.warps = s.warps := rfl
@[simp] theorem State.tick_lights : s.tick.lights = s.lights := rfl
@[simp] theorem State.tick_outputs : s.tick.outputs = s.outputs := rfl
@[simp] theorem State.tick_modes : s.tick.modes = s.modes := rfl
@[simp] theorem State.tick_loss : s.tick.loss = s.loss := rfl
@[simp] theorem State.tick_tables : s.tick.tables = s.tables := rfl
@[simp] theorem State.tick_cells : s.tick.cells = s.cells := rfl
@[simp] theorem State.tick_resetWait : s.tick.resetWait = s.resetWait := rfl
@[simp] theorem State.tick_lanes : s.tick.lanes = s.lanes := rfl
@[simp] theorem State.tick_settings : s.tick.settings = s.settings := rfl
@[simp] theorem State.tick_latches : s.tick.latches = s.latches := rfl
@[simp] theorem State.tick_notices : s.tick.notices = s.notices := rfl
@[simp] theorem State.tick_faults : s.tick.faults = s.faults := rfl
@[simp] theorem State.tick_overflow : s.tick.overflow = s.overflow := rfl
@[simp] theorem State.tick_loader : s.tick.loader = s.loader := rfl
@[simp] theorem State.tick_flash : s.tick.flash = s.flash := rfl
@[simp] theorem State.tick_ringOut : s.tick.ringOut = s.ringOut := rfl
@[simp] theorem State.tick_syncPulses : s.tick.syncPulses = s.syncPulses := rfl

/-! ### useFree -/

@[simp] theorem State.useFree_pending (n : Nat) : (s.useFree n).pending = s.pending := rfl
@[simp] theorem State.useFree_now (n : Nat) : (s.useFree n).now = s.now := rfl
@[simp] theorem State.useFree_free (n : Nat) : (s.useFree n).free = s.free + n := rfl
@[simp] theorem State.useFree_straps (n : Nat) : (s.useFree n).straps = s.straps := rfl
@[simp] theorem State.useFree_inputs (n : Nat) : (s.useFree n).inputs = s.inputs := rfl
@[simp] theorem State.useFree_rings (n : Nat) : (s.useFree n).rings = s.rings := rfl
@[simp] theorem State.useFree_coh (n : Nat) : (s.useFree n).coh = s.coh := rfl
@[simp] theorem State.useFree_timer (n : Nat) : (s.useFree n).timer = s.timer := rfl
@[simp] theorem State.useFree_warps (n : Nat) : (s.useFree n).warps = s.warps := rfl
@[simp] theorem State.useFree_lights (n : Nat) : (s.useFree n).lights = s.lights := rfl
@[simp] theorem State.useFree_outputs (n : Nat) : (s.useFree n).outputs = s.outputs := rfl
@[simp] theorem State.useFree_modes (n : Nat) : (s.useFree n).modes = s.modes := rfl
@[simp] theorem State.useFree_loss (n : Nat) : (s.useFree n).loss = s.loss := rfl
@[simp] theorem State.useFree_tables (n : Nat) : (s.useFree n).tables = s.tables := rfl
@[simp] theorem State.useFree_cells (n : Nat) : (s.useFree n).cells = s.cells := rfl
@[simp] theorem State.useFree_resetWait (n : Nat) : (s.useFree n).resetWait = s.resetWait := rfl
@[simp] theorem State.useFree_lanes (n : Nat) : (s.useFree n).lanes = s.lanes := rfl
@[simp] theorem State.useFree_settings (n : Nat) : (s.useFree n).settings = s.settings := rfl
@[simp] theorem State.useFree_latches (n : Nat) : (s.useFree n).latches = s.latches := rfl
@[simp] theorem State.useFree_notices (n : Nat) : (s.useFree n).notices = s.notices := rfl
@[simp] theorem State.useFree_faults (n : Nat) : (s.useFree n).faults = s.faults := rfl
@[simp] theorem State.useFree_overflow (n : Nat) : (s.useFree n).overflow = s.overflow := rfl
@[simp] theorem State.useFree_loader (n : Nat) : (s.useFree n).loader = s.loader := rfl
@[simp] theorem State.useFree_flash (n : Nat) : (s.useFree n).flash = s.flash := rfl
@[simp] theorem State.useFree_ringOut (n : Nat) : (s.useFree n).ringOut = s.ringOut := rfl
@[simp] theorem State.useFree_syncPulses (n : Nat) : (s.useFree n).syncPulses = s.syncPulses := rfl

end Sys2Proof.Machine
end

