-- ==== Sys2Proof/Laws/Words.lean ====
section
/-! SUPPORT. The laws of the fixed collections: one value per channel (Quad) and one per slot (Trio). -/

namespace Sys2Proof

variable {α : Type}

/-! ### Four channels -/

theorem forall_channel {p : Channel → Prop} : (∀ k, p k) ↔ p 0 ∧ p 1 ∧ p 2 ∧ p 3 := by
  constructor
  · intro h
    exact ⟨h 0, h 1, h 2, h 3⟩
  · rintro ⟨h0, h1, h2, h3⟩ k
    match k with
    | 0 => exact h0
    | 1 => exact h1
    | 2 => exact h2
    | 3 => exact h3

@[simp] theorem Quad.get_set_same (q : Quad α) (k : Channel) (x : α) : (q.set k x).get k = x := by
  revert k
  exact forall_channel.2 ⟨rfl, rfl, rfl, rfl⟩

theorem Quad.get_set (q : Quad α) (k j : Channel) (x : α) : (q.set k x).get j = if j = k then x else q.get j := by
  revert j k
  refine forall_channel.2 ⟨?_, ?_, ?_, ?_⟩ <;> exact forall_channel.2 ⟨rfl, rfl, rfl, rfl⟩

@[simp] theorem Quad.get_set_other (q : Quad α) {k j : Channel} (x : α) (h : j ≠ k) : (q.set k x).get j = q.get j := by
  rw [Quad.get_set, if_neg h]

@[simp] theorem Quad.get_of (f : Channel → α) (k : Channel) : (Quad.of f).get k = f k := by
  revert k
  exact forall_channel.2 ⟨rfl, rfl, rfl, rfl⟩

@[simp] theorem Quad.get_all (x : α) (k : Channel) : (Quad.all x).get k = x := by
  revert k
  exact forall_channel.2 ⟨rfl, rfl, rfl, rfl⟩

@[simp] theorem Quad.set_get (q : Quad α) (k : Channel) : q.set k (q.get k) = q := by
  revert k
  exact forall_channel.2 ⟨rfl, rfl, rfl, rfl⟩

@[simp] theorem Quad.set_set (q : Quad α) (k : Channel) (x y : α) : (q.set k x).set k y = q.set k y := by
  revert k
  exact forall_channel.2 ⟨rfl, rfl, rfl, rfl⟩

theorem Quad.ext_get {p q : Quad α} (h : ∀ k, p.get k = q.get k) : p = q := by
  have h0 : p.c0 = q.c0 := h 0
  have h1 : p.c1 = q.c1 := h 1
  have h2 : p.c2 = q.c2 := h 2
  have h3 : p.c3 = q.c3 := h 3
  cases p
  cases q
  simp_all

theorem mem_channels (k : Channel) : k ∈ channels := by
  revert k
  decide

/-- A test of every channel in the list is a test of every channel. -/
theorem channels_all (p : Channel → Bool) : channels.all p = true ↔ ∀ k, p k = true := by
  rw [List.all_eq_true]
  exact ⟨fun h k => h k (mem_channels k), fun h k _ => h k⟩

/-! ### Three slots -/

theorem forall_slot {p : SlotNo → Prop} : (∀ i, p i) ↔ p 0 ∧ p 1 ∧ p 2 := by
  constructor
  · intro h
    exact ⟨h 0, h 1, h 2⟩
  · rintro ⟨h0, h1, h2⟩ i
    match i with
    | 0 => exact h0
    | 1 => exact h1
    | 2 => exact h2

@[simp] theorem Trio.get_set_same (t : Trio α) (i : SlotNo) (x : α) : (t.set i x).get i = x := by
  revert i
  exact forall_slot.2 ⟨rfl, rfl, rfl⟩

theorem Trio.get_set (t : Trio α) (i j : SlotNo) (x : α) : (t.set i x).get j = if j = i then x else t.get j := by
  revert j i
  refine forall_slot.2 ⟨?_, ?_, ?_⟩ <;> exact forall_slot.2 ⟨rfl, rfl, rfl⟩

@[simp] theorem Trio.get_set_other (t : Trio α) {i j : SlotNo} (x : α) (h : j ≠ i) : (t.set i x).get j = t.get j := by
  rw [Trio.get_set, if_neg h]

@[simp] theorem Trio.get_of (f : SlotNo → α) (i : SlotNo) : (Trio.of f).get i = f i := by
  revert i
  exact forall_slot.2 ⟨rfl, rfl, rfl⟩

@[simp] theorem Trio.set_get (t : Trio α) (i : SlotNo) : t.set i (t.get i) = t := by
  revert i
  exact forall_slot.2 ⟨rfl, rfl, rfl⟩

@[simp] theorem Trio.set_set (t : Trio α) (i : SlotNo) (x y : α) : (t.set i x).set i y = t.set i y := by
  revert i
  exact forall_slot.2 ⟨rfl, rfl, rfl⟩

theorem Trio.ext_get {p q : Trio α} (h : ∀ i, p.get i = q.get i) : p = q := by
  have h0 : p.s0 = q.s0 := h 0
  have h1 : p.s1 = q.s1 := h 1
  have h2 : p.s2 = q.s2 := h 2
  cases p
  cases q
  simp_all

theorem mem_slotNos (i : SlotNo) : i ∈ slotNos := by
  revert i
  decide

/-- A test of every slot in the list is a test of every slot. -/
theorem slotNos_all (p : SlotNo → Bool) : slotNos.all p = true ↔ ∀ i, p i = true := by
  rw [List.all_eq_true]
  exact ⟨fun h i => h i (mem_slotNos i), fun h i _ => h i⟩

end Sys2Proof
end

