-- ==== Sys2Proof/Laws/Ops.lean ====
section
/-! SUPPORT. What each shared operation can do, said once: conditions, notices, the fault log, storage going bad, serving
a cell, a port's move, the STORE's work. Proofs cite these and do not unfold the operations. -/

namespace Sys2Proof.Machine

/-! ### Conditions and notices (R181 to R184) -/

/-- A set of conditions holds exactly the conditions of its test. -/
theorem condSet_bit (p : Cond → Bool) (d : Cond) : (condSet p).getLsbD d = p d := by
  have key : ∀ (xs : List Cond) (b : BitVec 45), (xs.foldl (fun b c => if p c then b ||| BitVec.twoPow 45 c else b) b).getLsbD d = (b.getLsbD d || (decide (d ∈ xs) && p d)) := by
    intro xs
    induction xs with
    | nil => simp
    | cons x xs ih =>
      intro b
      rw [List.foldl_cons, ih]
      by_cases hx : d = x
      · subst hx
        by_cases hp : p d = true
        · simp [hp]
        · simp [hp]
      · have hv : ¬ x.val = d.val := fun h => hx (Fin.ext h.symm)
        have hm : decide (d ∈ x :: xs) = decide (d ∈ xs) := by simp [hx]
        rw [hm]
        split
        · rw [BitVec.getLsbD_or, BitVec.getLsbD_twoPow, show decide (x.val = d.val) = false by simp [hv]]
          simp
        · rfl
  rw [condSet, key]
  simp [Cond.all]

/-- Queuing a notice changes the notice queue alone. -/
theorem State.queueNotice_eq (s : State) (c : Cond) :
    s.queueNotice c =
      { s with notices := if (s.notices.any fun n => n.cond == c) = true then s.notices
                          else insertNotice (s.noticeOf c) s.notices } := by
  unfold State.queueNotice
  split <;> rfl

/-- Raising an event condition sets its latch, may queue its notice, and changes nothing else. -/
theorem State.raise_spec (s : State) (c : Cond) :
    ∃ ns : List Notice, s.raise c = { s with latches := s.latches ||| BitVec.twoPow 45 c, notices := ns } := by
  unfold State.raise
  split
  · rename_i h
    refine ⟨s.notices, ?_⟩
    have hl : s.latches ||| BitVec.twoPow 45 c = s.latches := by
      apply BitVec.eq_of_getLsbD_eq
      intro i hi
      rw [BitVec.getLsbD_or, BitVec.getLsbD_twoPow]
      by_cases hic : c.val = i
      · subst hic
        simp [h]
      · simp [hic]
    rw [hl]
  · by_cases he : ({ s with latches := s.latches ||| BitVec.twoPow 45 c } : State).enabled c = true
    · exact ⟨_, (if_pos he).trans (State.queueNotice_eq _ _)⟩
    · exact ⟨s.notices, if_neg he⟩

/-- After a raise the latch is set, and every other latch is as it was. -/
theorem State.raise_latch (s : State) (c d : Cond) :
    (s.raise c).latches.getLsbD d = (decide (d = c) || s.latches.getLsbD d) := by
  obtain ⟨ns, h⟩ := s.raise_spec c
  rw [h]
  show (s.latches ||| BitVec.twoPow 45 c).getLsbD d = _
  rw [BitVec.getLsbD_or, BitVec.getLsbD_twoPow]
  by_cases hd : d = c
  · subst hd
    simp
  · have hv : ¬ c.val = d.val := fun h => hd (Fin.ext h.symm)
    simp [hd, hv]

/-- Raising several conditions changes latches and notices alone. -/
theorem State.raiseAll_spec (s : State) (cs : List Cond) :
    ∃ (l : BitVec 45) (ns : List Notice), s.raiseAll cs = { s with latches := l, notices := ns } := by
  induction cs generalizing s with
  | nil => exact ⟨_, _, rfl⟩
  | cons c rest ih =>
    obtain ⟨ns, h⟩ := s.raise_spec c
    obtain ⟨l, ms, h'⟩ := ih (s.raise c)
    refine ⟨l, ms, ?_⟩
    rw [State.raiseAll, List.foldl_cons]
    rw [State.raiseAll] at h'
    rw [h', h]

@[simp] theorem State.raiseAll_nil (s : State) : s.raiseAll [] = s := rfl

/-- After raising a list, exactly the latches of the list are newly set. -/
theorem State.raiseAll_latch (s : State) (cs : List Cond) (d : Cond) :
    (s.raiseAll cs).latches.getLsbD d = (decide (d ∈ cs) || s.latches.getLsbD d) := by
  induction cs generalizing s with
  | nil => simp
  | cons c rest ih =>
    have h := ih (s.raise c)
    rw [State.raiseAll] at h ⊢
    rw [List.foldl_cons, h, State.raise_latch]
    by_cases hd : d = c <;> by_cases hr : d ∈ rest <;> simp [hd, hr]

/-- A fold of steps that change the notice queue alone changes it alone. -/
theorem foldl_notices {α : Type} (f : State → α → State) (hf : ∀ s a, ∃ ns, f s a = { s with notices := ns }) (xs : List α)
    (s : State) : ∃ ns, xs.foldl f s = { s with notices := ns } := by
  induction xs generalizing s with
  | nil => exact ⟨_, rfl⟩
  | cons x rest ih =>
    obtain ⟨ns, h⟩ := hf s x
    obtain ⟨ms, h'⟩ := ih (f s x)
    exact ⟨ms, by rw [List.foldl_cons, h', h]⟩

/-- The notices of level conditions change the notice queue alone. -/
theorem State.levelNotices_spec (s before : State) : ∃ ns : List Notice, s.levelNotices before = { s with notices := ns } := by
  refine foldl_notices _ (fun s c => ?_) _ s
  split
  · exact ⟨_, State.queueNotice_eq _ _⟩
  · exact ⟨s.notices, rfl⟩

/-- New enables change notice_enable and the notice queue alone. -/
theorem State.setEnables_spec (s : State) (new : BitVec 45) :
    ∃ ns : List Notice, s.setEnables new = { s with settings := { s.settings with noticeEnable := new }, notices := ns } := by
  have h := foldl_notices (fun (s' : State) (c : Cond) =>
    if new.getLsbD c && !s.settings.noticeEnable.getLsbD c && s'.isPending c then s'.queueNotice c else s')
    (fun s' c => by
      by_cases he : (new.getLsbD c && !s.settings.noticeEnable.getLsbD c && s'.isPending c) = true
      · exact ⟨_, (if_pos he).trans (State.queueNotice_eq _ _)⟩
      · exact ⟨s'.notices, if_neg he⟩) Cond.all
    { s with settings := { s.settings with noticeEnable := new },
             notices := s.notices.filter fun n => new.getLsbD n.cond || !s.settings.noticeEnable.getLsbD n.cond }
  obtain ⟨ns, h⟩ := h
  exact ⟨ns, h⟩

/-! ### The fault log (R188) -/

/-- Recording a fault changes the log, the overflow flag, the latches and the notices alone. -/
theorem State.recordFault_spec (s : State) (f : FaultRecord) :
    ∃ (fs : List FaultRecord) (o : Bool) (l : BitVec 45) (ns : List Notice),
      s.recordFault f = { s with faults := fs, overflow := o, latches := l, notices := ns } := by
  unfold State.recordFault
  split
  · obtain ⟨ns, h⟩ := ({ s with faults := s.faults ++ [f] } : State).raise_spec Cond.faultLogged
    exact ⟨_, _, _, ns, h⟩
  · exact ⟨s.faults, true, s.latches, s.notices, rfl⟩

/-- Below 8 records the fault joins the log; at 8 it is lost. -/
theorem State.recordFault_faults (s : State) (f : FaultRecord) :
    (s.recordFault f).faults = if s.faults.length < 8 then s.faults ++ [f] else s.faults := by
  unfold State.recordFault
  have hd : Config.faultLogDepth = 8 := rfl
  rw [hd]
  split
  · obtain ⟨ns, h⟩ := ({ s with faults := s.faults ++ [f] } : State).raise_spec Cond.faultLogged
    rw [h]
  · rfl

/-- The log never grows beyond 8 records by recording. -/
theorem State.recordFault_bounded (s : State) (f : FaultRecord) (h : s.faults.length ≤ 8) : (s.recordFault f).faults.length ≤ 8 := by
  rw [State.recordFault_faults]
  split
  · simp
    omega
  · exact h

@[simp] theorem State.recordFaults_nil (s : State) : s.recordFaults [] = s := rfl

theorem State.recordFaults_cons (s : State) (f : FaultRecord) (fs : List FaultRecord) :
    s.recordFaults (f :: fs) = (s.recordFault f).recordFaults fs := rfl

/-- Recording several faults changes the log, the overflow flag, the latches and the notices alone. -/
theorem State.recordFaults_spec (s : State) (fs : List FaultRecord) :
    ∃ (gs : List FaultRecord) (o : Bool) (l : BitVec 45) (ns : List Notice),
      s.recordFaults fs = { s with faults := gs, overflow := o, latches := l, notices := ns } := by
  induction fs generalizing s with
  | nil => exact ⟨_, _, _, _, rfl⟩
  | cons f rest ih =>
    obtain ⟨g1, o1, l1, n1, h1⟩ := s.recordFault_spec f
    obtain ⟨g2, o2, l2, n2, h2⟩ := ih (s.recordFault f)
    exact ⟨g2, o2, l2, n2, by rw [State.recordFaults_cons, h2, h1]⟩

/-- Good parity everywhere in an instance: its reads leave no fault. -/
@[simp] theorem TableRecord.parityFaults_good (r : TableRecord) (frame : Option FrameNo) (read : List Nat) (h : r.bad = []) :
    r.parityFaults frame read = [] := by
  simp [TableRecord.parityFaults, h]

/-! ### Storage going bad (R20, R21, R71) -/

/-- Storage going bad changes marks in the directory's instances and in the tile caches alone. -/
theorem State.upset_spec (s : State) (u : Upset) :
    ∃ (dir : Assoc TableRecord) (w : Quad WarpUnit), s.upset u = { s with tables := { s.tables with directory := dir }, warps := w } := by
  cases u with
  | pool r i => exact ⟨_, s.warps, rfl⟩
  | tileTag k e => exact ⟨s.tables.directory, _, rfl⟩
  | tileData k e => exact ⟨s.tables.directory, _, rfl⟩

@[simp] theorem State.upsets_nil (s : State) : s.upsets [] = s := rfl

theorem State.upsets_spec (s : State) (us : List Upset) :
    ∃ (dir : Assoc TableRecord) (w : Quad WarpUnit), s.upsets us = { s with tables := { s.tables with directory := dir }, warps := w } := by
  induction us generalizing s with
  | nil => exact ⟨s.tables.directory, s.warps, rfl⟩
  | cons u rest ih =>
    obtain ⟨d1, w1, h1⟩ := s.upset_spec u
    obtain ⟨d2, w2, h2⟩ := ih (s.upset u)
    refine ⟨d2, w2, ?_⟩
    have e : s.upsets (u :: rest) = (s.upset u).upsets rest := rfl
    rw [e, h2, h1]

/-! ### Serving (R154) -/

/-- Serving a cell that may be served and is one of this command. -/
theorem State.serve_eq (s : State) (mine : Cell → Bool) (command : Cell → State → Answer) (c : Cell) (rest : List Cell)
    (hw : s.resetWait = none) (hc : s.cells = c :: rest) (hm : mine c = true)
    (hr : c.discard = true ∨ (s.lanes.get c.link).replies.length < 16) :
    s.serve mine command = (command c { s with cells := rest }).state.reply c
      (.reply c.tag (command c { s with cells := rest }).status (command c { s with cells := rest }).payload
        (command c { s with cells := rest }).resets) := by
  have hmay : s.mayServe = some (c, rest) := by
    unfold State.mayServe
    rw [hw, hc]
    show (if _ then _ else _) = _
    rw [if_pos]
    rw [Bool.or_eq_true]
    exact hr.imp id fun h => decide_eq_true h
  rw [State.serve, hmay]
  show (if mine c = true then _ else _) = _
  rw [if_pos hm]

/-- Serving either leaves the state as it is, or takes the oldest cell, a cell of this command, carries the command out on
the state without it, and places the reply or, with the discard mark, discards it. -/
theorem State.serve_cases (s : State) (mine : Cell → Bool) (command : Cell → State → Answer) :
    s.serve mine command = s
    ∨ ∃ (c : Cell) (rest : List Cell), s.resetWait = none ∧ s.cells = c :: rest ∧ mine c = true
        ∧ (c.discard = true ∨ (s.lanes.get c.link).replies.length < 16)
        ∧ s.serve mine command = (command c { s with cells := rest }).state.reply c
            (.reply c.tag (command c { s with cells := rest }).status (command c { s with cells := rest }).payload
              (command c { s with cells := rest }).resets) := by
  cases hmay : s.mayServe with
  | none =>
    left
    rw [State.serve, hmay]
  | some p =>
    obtain ⟨c, rest⟩ := p
    by_cases hm : mine c = true
    · right
      unfold State.mayServe at hmay
      split at hmay
      · rename_i c' rest' hw hc
        split at hmay
        · rename_i hr
          obtain ⟨rfl, rfl⟩ := Prod.mk.inj (Option.some.inj hmay)
          rw [Bool.or_eq_true] at hr
          have hr' : c'.discard = true ∨ (s.lanes.get c'.link).replies.length < 16 :=
            hr.imp id fun h => of_decide_eq_true h
          exact ⟨c', rest', hw, hc, hm, hr', State.serve_eq s mine command c' rest' hw hc hm hr'⟩
        · cases hmay
      · cases hmay
    · left
      rw [State.serve, hmay]
      exact if_neg hm

/-- Placing a reply changes the reply queue of its link alone. -/
theorem State.reply_spec (s : State) (c : Cell) (e : QueueEntry) : ∃ l : Quad ReverseLane, s.reply c e = { s with lanes := l } := by
  unfold State.reply
  split
  · exact ⟨s.lanes, rfl⟩
  · exact ⟨_, rfl⟩

/-! ### Output ports (R25, R47, R129) -/

/-- A port's move changes the port, the warp and light units of its channel, latches and notices alone. -/
theorem State.movePort_spec (s : State) (k : Channel) (m : OutputPort × Bool) :
    ∃ (w : Quad WarpUnit) (l : Quad LightUnit) (b : BitVec 45) (ns : List Notice),
      s.movePort k m = { s with outputs := s.outputs.set k m.1, warps := w, lights := l, latches := b, notices := ns } := by
  obtain ⟨w, l, h⟩ : ∃ (w : Quad WarpUnit) (l : Quad LightUnit),
      (if ((s.outputs.get k).state == .active && (m.1.state != .active || m.2)) = true then (s.setOutput k m.1).stopChannel k
        else s.setOutput k m.1) = { s with outputs := s.outputs.set k m.1, warps := w, lights := l } := by
    split
    · exact ⟨_, _, rfl⟩
    · exact ⟨_, _, rfl⟩
  unfold State.movePort
  simp only
  rw [h]
  split
  · obtain ⟨ns, h⟩ := ({ s with outputs := s.outputs.set k m.1, warps := w, lights := l } : State).raise_spec (Cond.outputChange k)
    exact ⟨_, _, _, ns, h⟩
  · exact ⟨_, _, _, _, rfl⟩

/-! ### The STORE's work (R197, R199) -/

theorem FlashJob.run_wf (j : FlashJob) (m : Assoc Byte) (n : Nat) (h : Memory.wf m = true) : Memory.wf (j.run m n) = true := by
  cases j with
  | erase sector =>
    simp only [FlashJob.run]
    split
    · exact h
    · exact Memory.wf_eraseRange _ _ h
  | program a bytes src => exact Memory.wf_writeBytes _ _ h

/-- The work of a STORE keeps the canonical form of the flash. -/
theorem runJobs_wf (js : List FlashJob) (n : Nat) (m : Assoc Byte) (h : Memory.wf m = true) : Memory.wf (runJobs js n m) = true := by
  induction js generalizing n m with
  | nil => exact h
  | cons j rest ih => exact ih _ _ (j.run_wf _ _ h)

/-- A STORE phase, whole or cut short, changes the flash, the log, latches and notices alone. -/
theorem State.runStore_spec (s : State) (n : Nat) :
    ∃ (gs : List FaultRecord) (o : Bool) (l : BitVec 45) (ns : List Notice),
      s.runStore n = { s with flash := runJobs s.storeJobs n s.flash, faults := gs, overflow := o, latches := l, notices := ns } := by
  obtain ⟨gs, o, l, ns, h⟩ := ({ s with flash := runJobs s.storeJobs n s.flash } : State).recordFaults_spec (jobFaults s.storeJobs n)
  exact ⟨gs, o, l, ns, h⟩

/-- With no STORE running an interruption finds nothing to cut short. -/
theorem State.runStore_idle (s : State) (n : Nat) (h : s.loader.storing = false) : s.runStore n = s := by
  have hj : s.storeJobs = [] := by
    unfold State.storeJobs
    unfold ImageLoader.storing at h
    split
    · simp_all
    · rfl
  simp [State.runStore, hj, runJobs, jobFaults]

/-- The flash after reset is in its canonical form. -/
theorem reset_flash_wf : Memory.wf State.reset.flash = true := rfl

/-! ### Table entries (R60, R61, R71) -/

/-- An entry stored whole reads back as it was stored, and every other entry as before. -/
theorem TableRecord.read_write_whole (r : TableRecord) (i j : Nat) (e : Entry) :
    (r.write i e true).read j = if j = i then e else r.read j := by
  by_cases h : j = i
  · subst h
    rw [if_pos rfl, TableRecord.read, if_neg (by simp [TableRecord.write])]
    unfold TableRecord.write
    simp only
    split
    · rename_i he
      rw [Assoc.find_erase_same]
      exact he.symm
    · rw [Assoc.find_insert_same]
      rfl
  · rw [if_neg h, TableRecord.read, TableRecord.read]
    have hb : (j ∈ (r.write i e true).bad) ↔ j ∈ r.bad := by simp [TableRecord.write, h]
    have hc : Assoc.find (r.write i e true).contents j = Assoc.find r.contents j := by
      unfold TableRecord.write
      simp only
      split
      · exact Assoc.find_erase_other _ h
      · exact Assoc.find_insert_other _ _ h
    have hd : (r.write i e true).default j = r.default j := rfl
    rw [hc, hd]
    by_cases hj : j ∈ r.bad
    · rw [if_pos hj, if_pos (hb.2 hj)]
    · rw [if_neg hj, if_neg (fun h => hj (hb.1 h))]

/-- The fill of a page (R57): the entries of the page read as their defaults, every other entry as before. -/
theorem TableRecord.read_fillPage (r : TableRecord) (p i : Nat) :
    (r.fillPage p).read i = if r.pageOf i = r.firstPage + p then r.default i else r.read i := by
  have hc : Assoc.find (r.fillPage p).contents i = if (r.pageOf i != r.firstPage + p) = true then Assoc.find r.contents i else none :=
    Assoc.find_filter_key r.contents (fun i => r.pageOf i != r.firstPage + p) i
  have hd : (r.fillPage p).default i = r.default i := rfl
  rw [TableRecord.read, hc, hd]
  by_cases h : r.pageOf i = r.firstPage + p
  · rw [if_pos h, if_neg (c := (r.pageOf i != _) = true) (by simp [h])]
    split <;> rfl
  · rw [if_neg h, if_pos (c := (r.pageOf i != _) = true) (by simp [h]), TableRecord.read]
    have hb : (i ∈ (r.fillPage p).bad) ↔ i ∈ r.bad := by simp [TableRecord.fillPage, h]
    by_cases hi : i ∈ r.bad
    · rw [if_pos hi, if_pos (hb.2 hi)]
    · rw [if_neg hi, if_neg (fun h => hi (hb.1 h))]

end Sys2Proof.Machine
end

