-- ==== Sys2Proof/Laws/Frame.lean ====
section
/-! SUPPORT. What a frame start, a line deadline, a round of the Sky Ring and a pixel can change, said once: each lemma
names the fields of the state that its operation may touch, and so that every other field is as it was. -/

namespace Sys2Proof.Machine

/-- Four steps, one for each channel in order. -/
theorem foldl_channels {α : Type} (f : α → Channel → α) (x : α) : channels.foldl f x = f (f (f (f x 0) 1) 2) 3 := rfl

/-! ### The parts of a frame start -/

/-- The outcome applied and carried out on the slots (R88 to R91, R111, R112). -/
theorem State.showFrame_spec (s : State) :
    ∃ (coh : Coherence) (gs : List FaultRecord) (o : Bool) (l : BitVec 45) (ns : List Notice),
      s.showFrame = { s with
        coh := coh
        rings := Quad.of fun k => ((s.setCoh s.cohAtFrameStart).decideChannel s.coh.outcome k).1
        free := s.free + 4
        faults := gs
        overflow := o
        latches := l
        notices := ns } := by
  unfold State.showFrame
  obtain ⟨gs, o, l1, n1, h1⟩ :=
    (((s.setCoh s.cohAtFrameStart).decideSlots s.coh.outcome).recordShown).recordFaults_spec s.ringLostFault
  simp only
  rw [h1]
  obtain ⟨l2, n2, h2⟩ := State.raiseAll_spec _ ((s.setCoh s.cohAtFrameStart).decisionRaises s.coh.outcome)
  rw [h2]
  exact ⟨_, gs, o, l2, n2, rfl⟩

/-- The table changes (R66 to R68). -/
theorem State.tablesAtFrameStart_spec (s : State) :
    ∃ (dir : Assoc TableRecord) (sw : Option PendingSwap) (l : BitVec 45) (ns : List Notice),
      s.tablesAtFrameStart = { s with tables := { s.tables with directory := dir, swap := sw }, latches := l, notices := ns } := by
  unfold State.tablesAtFrameStart
  split
  · exact ⟨_, _, _, _, rfl⟩
  · exact ⟨s.tables.directory, _, _, _, rfl⟩
  · exact ⟨_, s.tables.swap, _, _, rfl⟩
  · rename_i sw _ _
    obtain ⟨due, late⟩ := if sw.deferred then (true, true) else swapDue s.coh sw
    cases due
    · exact ⟨_, s.tables.swap, _, _, rfl⟩
    · cases late
      · obtain ⟨ns, h⟩ := (s.setTables { s.tables with
          directory := promote (dropMarked s.tables.directory) sw.keys, swap := none }).raise_spec Cond.swapDone
        exact ⟨_, _, _, ns, h⟩
      · obtain ⟨n1, h1⟩ := (s.setTables { s.tables with
          directory := promote (dropMarked s.tables.directory) sw.keys, swap := none }).raise_spec Cond.swapLate
        obtain ⟨n2, h2⟩ := ((s.setTables { s.tables with
          directory := promote (dropMarked s.tables.directory) sw.keys, swap := none }).raise Cond.swapLate).raise_spec
            Cond.swapDone
        exact ⟨_, _, _, n2, h2.trans (by rw [h1]; rfl)⟩

/-- The raster change (R126): afterwards the raster in force is the stored one. -/
theorem State.rasterChange_spec (s : State) :
    ∃ (p : Quad OutputPort) (w : Quad WarpUnit) (u : Quad LightUnit) (l : BitVec 45) (ns : List Notice),
      s.rasterChange = { s with
        timer := { s.timer with width := s.settings.rasterWidth, height := s.settings.rasterHeight,
                                periodUs := s.settings.framePeriodUs }
        outputs := p
        warps := w
        lights := u
        latches := l
        notices := ns } := by
  have moved : ∀ (t : State) (k : Channel), ∃ (p : Quad OutputPort) (w : Quad WarpUnit) (u : Quad LightUnit)
      (l : BitVec 45) (ns : List Notice),
      (if t.hasOutput k then t.movePort k ((t.outputs.get k).rasterChanged t.settings t.now) else t) =
        { t with outputs := p, warps := w, lights := u, latches := l, notices := ns } := by
    intro t k
    split
    · obtain ⟨w, u, l, ns, h⟩ := t.movePort_spec k ((t.outputs.get k).rasterChanged t.settings t.now)
      exact ⟨_, w, u, l, ns, h⟩
    · exact ⟨_, _, _, _, _, rfl⟩
  unfold State.rasterChange
  split
  · simp only [foldl_channels]
    obtain ⟨p0, w0, u0, l0, n0, h0⟩ := moved { s with timer := { s.timer with
      width := s.settings.rasterWidth, height := s.settings.rasterHeight, periodUs := s.settings.framePeriodUs } } 0
    rw [h0]
    obtain ⟨p1, w1, u1, l1, n1, h1⟩ := moved _ 1
    rw [h1]
    obtain ⟨p2, w2, u2, l2, n2, h2⟩ := moved _ 2
    rw [h2]
    obtain ⟨p3, w3, u3, l3, n3, h3⟩ := moved _ 3
    exact ⟨p3, w3, u3, l3, n3, h3⟩
  · rename_i h
    simp only [State.rasterDiffers, Bool.or_eq_true, bne_iff_ne, ne_eq, not_or, Decidable.not_not] at h
    obtain ⟨⟨h1, h2⟩, h3⟩ := h
    exact ⟨s.outputs, s.warps, s.lights, s.latches, s.notices, by rw [h1, h2, h3]⟩

/-- The loss selector (R138 to R149). -/
theorem State.lossAtFrameStart_spec (s : State) (up : Quad Bool) (v : Option Vec32) :
    ∃ (x : LossSelector) (gs : List FaultRecord) (o : Bool) (l : BitVec 45) (ns : List Notice),
      s.lossAtFrameStart up v = { s with loss := x, faults := gs, overflow := o, latches := l, notices := ns } := by
  have applied : ∀ t : State, ∃ (x : LossSelector) (l : BitVec 45) (ns : List Notice),
      t.applyVector v = { t with loss := x, latches := l, notices := ns } := by
    intro t
    unfold State.applyVector
    simp only
    split
    · exact ⟨_, _, _, rfl⟩
    · obtain ⟨ns, h⟩ := ({ t with loss := { t.loss with applied := t.newVector v } } : State).raise_spec Cond.presenceChanged
      exact ⟨_, _, ns, h⟩
  have chosen : ∀ t : State, ∃ (x : LossSelector) (gs : List FaultRecord) (o : Bool) (l : BitVec 45) (ns : List Notice),
      t.chooseSets = { t with loss := x, faults := gs, overflow := o, latches := l, notices := ns } := by
    intro t
    unfold State.chooseSets
    simp only
    split
    · exact ⟨_, _, _, _, _, rfl⟩
    · split
      · exact ⟨_, _, _, _, _, rfl⟩
      · obtain ⟨gs, o, l, ns, h⟩ := State.recordFaults_spec _ _
        exact ⟨_, gs, o, l, ns, h⟩
  unfold State.lossAtFrameStart
  obtain ⟨x1, l1, n1, h1⟩ := applied (s.filterOutputs up)
  rw [h1]
  obtain ⟨x2, gs, o, l2, n2, h2⟩ := chosen { s.filterOutputs up with loss := x1, latches := l1, notices := n1 }
  rw [h2]
  exact ⟨_, gs, o, l2, n2, rfl⟩

/-- The warp and light units of a channel (R4, R22, R33, R34). -/
theorem State.channelStart_spec (s : State) (k : Channel) :
    ∃ (w : Quad WarpUnit) (u : Quad LightUnit) (gs : List FaultRecord) (o : Bool) (l : BitVec 45) (ns : List Notice),
      s.channelStart k = { s with warps := w, lights := u, faults := gs, overflow := o, latches := l, notices := ns } := by
  unfold State.channelStart
  split
  · obtain ⟨gs, o, l, ns, h⟩ := State.recordFaults_spec _ _
    exact ⟨_, _, gs, o, l, ns, h⟩
  · exact ⟨_, _, _, _, _, _, rfl⟩

/-- The warp and light units of every channel. -/
theorem State.channelStarts_spec (s : State) :
    ∃ (w : Quad WarpUnit) (u : Quad LightUnit) (gs : List FaultRecord) (o : Bool) (l : BitVec 45) (ns : List Notice),
      channels.foldl State.channelStart s =
        { s with warps := w, lights := u, faults := gs, overflow := o, latches := l, notices := ns } := by
  rw [foldl_channels]
  obtain ⟨w0, u0, g0, o0, l0, n0, h0⟩ := s.channelStart_spec 0
  rw [h0]
  obtain ⟨w1, u1, g1, o1, l1, n1, h1⟩ := State.channelStart_spec _ 1
  rw [h1]
  obtain ⟨w2, u2, g2, o2, l2, n2, h2⟩ := State.channelStart_spec _ 2
  rw [h2]
  obtain ⟨w3, u3, g3, o3, l3, n3, h3⟩ := State.channelStart_spec _ 3
  exact ⟨w3, u3, g3, o3, l3, n3, h3⟩

/-- An item sent on a lane joins it where the port drives its lane; no other port changes. -/
theorem State.sendItem_eq (s : State) (k : Channel) (x : LaneItem) :
    s.sendItem k x = { s with
      outputs := s.outputs.set k
        { s.outputs.get k with lane := (s.outputs.get k).lane ++ if (s.outputs.get k).state.drives then [x] else [] } } := by
  unfold State.sendItem
  simp only
  split
  · rfl
  · rw [List.append_nil]
    have h : s.outputs.set k { s.outputs.get k with lane := (s.outputs.get k).lane } = s.outputs := Quad.set_get _ _
    rw [h]

/-- The new frame begun (R113, R120, R127). -/
theorem State.beginFrame_spec (s : State) (own : Bool) :
    ∃ p : Quad OutputPort,
      s.beginFrame own = { s with
        timer := s.timer.begin s.now s.settings.musterOffset own
        syncPulses := if s.straps.role = .master then s.syncPulses + 1 else s.syncPulses
        outputs := p } := by
  unfold State.beginFrame
  simp only [foldl_channels, State.sendItem_eq]
  exact ⟨_, rfl⟩

/-- A frame start leaves the links, the engine's queues, the settings, the loader, the flash and the ring's output. -/
theorem State.frameStart_keeps (s : State) (own : Bool) :
    let t := s.frameStart own
    t.pending = s.pending ∧ t.now = s.now ∧ t.straps = s.straps ∧ t.inputs = s.inputs ∧ t.cells = s.cells
      ∧ t.resetWait = s.resetWait ∧ t.lanes = s.lanes ∧ t.settings = s.settings ∧ t.loader = s.loader ∧ t.flash = s.flash
      ∧ t.ringOut = s.ringOut ∧ t.free = s.free + 4 ∧ t.tables.fill = s.tables.fill ∧ t.tables.fillDue = s.tables.fillDue
      ∧ t.rings = (Quad.of fun k => ((s.setCoh s.cohAtFrameStart).decideChannel s.coh.outcome k).1) := by
  unfold State.frameStart
  obtain ⟨c, g1, o1, l1, n1, h1⟩ := s.showFrame_spec
  simp only
  rw [h1]
  obtain ⟨d, sw, l2, n2, h2⟩ := State.tablesAtFrameStart_spec { s with
    coh := c, rings := Quad.of fun k => ((s.setCoh s.cohAtFrameStart).decideChannel s.coh.outcome k).1,
    free := s.free + 4, faults := g1, overflow := o1, latches := l1, notices := n1 }
  rw [h2]
  obtain ⟨p, w, u, l3, n3, h3⟩ := State.rasterChange_spec { s with
    coh := c, rings := Quad.of fun k => ((s.setCoh s.cohAtFrameStart).decideChannel s.coh.outcome k).1,
    free := s.free + 4, faults := g1, overflow := o1,
    tables := { s.tables with directory := d, swap := sw }, latches := l2, notices := n2 }
  rw [h3]
  obtain ⟨x, g4, o4, l4, n4, h4⟩ := State.lossAtFrameStart_spec (State.takeModes { s with
    coh := c, rings := Quad.of fun k => ((s.setCoh s.cohAtFrameStart).decideChannel s.coh.outcome k).1,
    free := s.free + 4, faults := g1, overflow := o1,
    tables := { s.tables with directory := d, swap := sw },
    timer := { s.timer with width := s.settings.rasterWidth, height := s.settings.rasterHeight,
                            periodUs := s.settings.framePeriodUs },
    outputs := p, warps := w, lights := u, latches := l3, notices := n3 })
    (Quad.of fun k => (s.outputs.get k).state.up) s.coh.handedVector
  rw [h4]
  obtain ⟨w5, u5, g5, o5, l5, n5, h5⟩ := State.channelStarts_spec (State.fitTest { State.takeModes { s with
    coh := c, rings := Quad.of fun k => ((s.setCoh s.cohAtFrameStart).decideChannel s.coh.outcome k).1,
    free := s.free + 4, faults := g1, overflow := o1,
    tables := { s.tables with directory := d, swap := sw },
    timer := { s.timer with width := s.settings.rasterWidth, height := s.settings.rasterHeight,
                            periodUs := s.settings.framePeriodUs },
    outputs := p, warps := w, lights := u, latches := l3, notices := n3 } with
    loss := x, faults := g4, overflow := o4, latches := l4, notices := n4 })
  rw [h5]
  obtain ⟨p6, h6⟩ := State.beginFrame_spec _ own
  rw [h6]
  exact ⟨rfl, rfl, rfl, rfl, rfl, rfl, rfl, rfl, rfl, rfl, rfl, rfl, rfl, rfl, rfl⟩

/-! ### Line deadlines (R23, R24, R121) -/

/-- The deadline of a line on one channel. -/
theorem State.channelDeadline_spec (s : State) (v : Nat) (k : Channel) :
    ∃ (p : Quad OutputPort) (w : Quad WarpUnit) (u : Quad LightUnit) (l : BitVec 45) (ns : List Notice),
      s.channelDeadline v k = { s with outputs := p, warps := w, lights := u, latches := l, notices := ns } := by
  unfold State.channelDeadline
  simp only [State.sendItem_eq]
  split
  · exact ⟨_, _, s.lights, s.latches, s.notices, rfl⟩
  · split
    · obtain ⟨ns, h⟩ := State.raise_spec _ (Cond.sourceLate k)
      exact ⟨_, _, _, _, ns, h⟩
    · exact ⟨_, _, _, s.latches, s.notices, rfl⟩

/-! ### Rounds (R101 to R110) -/

/-- A master's round closed (R103, R105): the outcome is pending with the vector, the SHOW of the round is sent with the
proposal as its echo and recorded, and no round is open. -/
theorem State.closeMasterRound_spec (s : State) (r : Round) (ready : Bool) (v : Vec32) :
    ∃ sent : ShowToken,
      s.closeMasterRound r ready v = { s with
        coh := { s.coh with
          repeatCount := (closeOutcome s.settings.coherenceLimit s.coh.repeatCount r.proposal ready).2
          round := none
          pending := some ⟨(closeOutcome s.settings.coherenceLimit s.coh.repeatCount r.proposal ready).1, some v⟩
          showSent := some ⟨r.seq, v, false⟩ }
        ringOut := s.ringOut ++ [showBytes sent]
        free := s.free + 2 }
      ∧ sent.seq = r.seq ∧ sent.vector = v ∧ sent.echo = r.proposal
      ∧ sent.outcome = some (closeOutcome s.settings.coherenceLimit s.coh.repeatCount r.proposal ready).1 := by
  unfold State.closeMasterRound
  generalize closeOutcome s.settings.coherenceLimit s.coh.repeatCount r.proposal ready = x
  obtain ⟨o, n⟩ := x
  refine ⟨_, rfl, rfl, rfl, ?_, ?_⟩
  · cases hp : r.proposal <;> simp [ShowToken.echo, presentBit, frameWord]
  · cases o <;> rfl

/-- A reservation request changes reserved marks alone: every slot keeps its other fields. -/
theorem SlotRing.reserve_slot (r : SlotRing) (f : Option FrameNo) (i : SlotNo) :
    (r.reserve f).slots.get i =
      { r.slots.get i with reserved := decide ((f.bind (readyHolding r.slots)) = some i) } := by
  unfold SlotRing.reserve
  simp only
  split
  · rename_i j hj
    rw [hj]
    simp only [SlotRing.setSlot, SlotRing.clearMarks, Trio.get_of]
    rw [Trio.get_set]
    by_cases h : i = j
    · subst h
      simp
    · rw [if_neg h]
      have h' : ¬ j = i := fun e => h e.symm
      simp [h']
  · rename_i hn
    rw [hn]
    simp [SlotRing.clearMarks]

/-- The muster point changes the unit, the slot rings, RING_OUT and the free-value counter. -/
theorem State.musterPoint_spec (s : State) :
    ∃ (c : Coherence) (r : Quad SlotRing) (m : List Bytes) (n : Nat),
      s.musterPoint = { s with coh := c, rings := r, ringOut := m, free := n } := by
  unfold State.musterPoint
  split
  · exact ⟨_, _, _, _, rfl⟩
  · exact ⟨_, _, s.ringOut, _, rfl⟩
  · unfold State.followerMuster
    simp only
    split
    · exact ⟨_, s.rings, s.ringOut, s.free, rfl⟩
    · exact ⟨_, s.rings, s.ringOut, s.free, rfl⟩

/-- The frame end changes the unit, RING_OUT and the free-value counter. -/
theorem State.frameEndRound_spec (s : State) :
    ∃ (c : Coherence) (m : List Bytes) (n : Nat), s.frameEndRound = { s with coh := c, ringOut := m, free := n } := by
  unfold State.frameEndRound
  split
  · obtain ⟨m, h, _⟩ := s.closeMasterRound_spec _ false _
    exact ⟨_, _, _, h⟩
  · exact ⟨s.coh, s.ringOut, s.free, rfl⟩

/-! ### Presence bits (R142) -/

theorem testBit_small {c m : Nat} (hc : c < 16) (h : ¬ m < 4) : c.testBit m = false := by
  apply Nat.testBit_lt_two_pow
  calc c < 2 ^ 4 := hc
    _ ≤ 2 ^ m := Nat.pow_le_pow_right (by norm_num) (by omega)

theorem testBit_fifteen (m : Nat) : Nat.testBit 15 m = decide (m < 4) := by
  by_cases h : m < 4
  · interval_cases m <;> rfl
  · rw [testBit_small (by norm_num) h, decide_eq_false h]

theorem confirmedNibble_lt (c : Quad Bool) : confirmedNibble c < 16 := by
  unfold confirmedNibble
  split <;> split <;> split <;> split <;> omega

/-- The part's own four presence bits are written from its confirmed bits; every other bit stays (R101, R106, R142). -/
theorem State.writeOwnBits_bit (s : State) (v : Vec32) (n : Nat) (hn : n < 32) :
    (s.writeOwnBits v).getLsbD n =
      if s.straps.firstBit ≤ n ∧ n < s.straps.firstBit + 4 then
        (confirmedNibble s.loss.confirmed).testBit (n - s.straps.firstBit)
      else v.getLsbD n := by
  unfold State.writeOwnBits
  have hc := confirmedNibble_lt s.loss.confirmed
  generalize confirmedNibble s.loss.confirmed = c at *
  generalize s.straps.firstBit = b
  rw [BitVec.getLsbD_or, BitVec.getLsbD_and, BitVec.getLsbD_not, BitVec.getLsbD_shiftLeft, BitVec.getLsbD_shiftLeft,
    BitVec.getLsbD_ofNat, BitVec.getLsbD_ofNat, testBit_fifteen]
  by_cases h1 : b ≤ n
  · have e3 : n - b < 32 := by omega
    have e4 : ¬ n < b := by omega
    by_cases h2 : n < b + 4
    · have e : n - b < 4 := by omega
      simp [h1, h2, hn, e, e3, e4]
    · have e : ¬ n - b < 4 := by omega
      have hb := testBit_small hc e
      simp [h1, h2, hn, e, hb]
  · have e4 : n < b := by omega
    simp [h1, hn, e4]

/-! ### Pixels (R5 to R22) -/

/-- A pixel handed to the light unit: the walk goes to the next column and the pixel is held. -/
theorem State.handPixel_spec (s : State) (k : Channel) (walk : Walk) (how : Handed) :
    s.handPixel k walk how = { s with
      warps := s.warps.set k { s.warps.get k with walk := some { walk with col := walk.col + 1, waiting := none } }
      lights := s.lights.set k { s.lights.get k with held := (s.lights.get k).held ++ [⟨walk.col, walk.line, how⟩] } } := rfl

/-- The units of a channel, the log, latches and notices are all that changes from `s` to `t`. -/
def State.unitsChange (s t : State) : Prop :=
  ∃ (w : Quad WarpUnit) (u : Quad LightUnit) (gs : List FaultRecord) (o : Bool) (l : BitVec 45) (ns : List Notice),
    t = { s with warps := w, lights := u, faults := gs, overflow := o, latches := l, notices := ns }

theorem State.unitsChange_refl (s : State) : s.unitsChange s :=
  ⟨s.warps, s.lights, s.faults, s.overflow, s.latches, s.notices, rfl⟩

theorem State.unitsChange_trans {a b c : State} (h : a.unitsChange b) (g : b.unitsChange c) : a.unitsChange c := by
  obtain ⟨_, _, _, _, _, _, rfl⟩ := h
  obtain ⟨w, u, gs, o, l, ns, rfl⟩ := g
  exact ⟨w, u, gs, o, l, ns, rfl⟩

theorem State.setWarp_units (s : State) (k : Channel) (w : WarpUnit) : s.unitsChange (s.setWarp k w) :=
  ⟨_, s.lights, s.faults, s.overflow, s.latches, s.notices, rfl⟩

theorem State.handPixel_units (s : State) (k : Channel) (walk : Walk) (how : Handed) : s.unitsChange (s.handPixel k walk how) :=
  ⟨_, _, s.faults, s.overflow, s.latches, s.notices, rfl⟩

theorem State.recordFaults_units (s : State) (fs : List FaultRecord) : s.unitsChange (s.recordFaults fs) := by
  obtain ⟨gs, o, l, ns, h⟩ := State.recordFaults_spec s fs
  exact ⟨s.warps, s.lights, gs, o, l, ns, h⟩

theorem State.samplePixel_units (s : State) (k : Channel) (walk : Walk) (slot : SlotNo) (x : Slot) (p : WaitingPixel) :
    s.unitsChange (s.samplePixel k walk slot x p) := by
  unfold State.samplePixel
  simp only
  split
  · exact State.unitsChange_trans (s.recordFaults_units _) (State.handPixel_units _ k walk _)
  · exact s.unitsChange_refl

theorem State.lookUp_units (s : State) (k : Channel) (ts : List Tag) : s.unitsChange (s.lookUp k ts).1 := by
  unfold State.lookUp
  split
  · exact s.unitsChange_refl
  · exact State.unitsChange_trans (s.setWarp_units k _) (State.recordFaults_units _ _)

theorem State.allocateAnew_units (s : State) (k : Channel) (ts : List Tag) : s.unitsChange (s.allocateAnew k ts).1 := by
  unfold State.allocateAnew
  split
  · exact s.unitsChange_refl
  · split
    · exact State.unitsChange_trans (s.setWarp_units k _) (State.lookUp_units _ k _)
    · exact s.unitsChange_refl

theorem State.refetch_units (s : State) (k : Channel) (t : Tag) : s.unitsChange (s.refetch k t) :=
  State.unitsChange_trans (s.setWarp_units k _) (State.recordFaults_units _ [_])

theorem State.refetches_units (k : Channel) (ts : List Tag) (s : State) :
    s.unitsChange (ts.foldl (fun s t => s.refetch k t) s) := by
  induction ts generalizing s with
  | nil => exact s.unitsChange_refl
  | cons t rest ih => exact State.unitsChange_trans (s.refetch_units k t) (ih _)

theorem State.readTiles_units (s : State) (k : Channel) (walk : Walk) (slot : SlotNo) (x : Slot) (p : WaitingPixel) :
    s.unitsChange (s.readTiles k walk slot x p) := by
  unfold State.readTiles
  split
  · exact s.samplePixel_units k walk slot x p
  · exact State.unitsChange_trans (State.refetches_units k _ s) (State.setWarp_units _ k _)

theorem State.settlePixel_units (s : State) (k : Channel) (walk : Walk) (slot : SlotNo) (x : Slot) (p : WaitingPixel)
    (todo : List Tag) : s.unitsChange (s.settlePixel k walk slot x p todo) := by
  unfold State.settlePixel
  simp only
  split
  · exact s.setWarp_units k _
  · split
    · exact s.setWarp_units k _
    · split
      · exact s.readTiles_units k walk slot x p
      · exact State.unitsChange_trans (s.lookUp_units k _) (State.setWarp_units _ k _)

/-- A pixel taken as far as its tiles allow changes the units of its channel, the log, latches and notices alone. -/
theorem State.seekPixel_units (s : State) (k : Channel) (walk : Walk) (p : WaitingPixel) (look : List Tag → State × List Tag)
    (h : ∀ ts, s.unitsChange (look ts).1) : s.unitsChange (s.seekPixel k walk p look) := by
  unfold State.seekPixel
  split
  · exact s.setWarp_units k _
  · simp only
    split
    · exact s.handPixel_units k walk _
    · exact State.unitsChange_trans (h _) (State.settlePixel_units _ k walk _ _ p _)

/-- A waiting pixel that goes on changes no more than that. -/
theorem State.resumePixel_units (s : State) (k : Channel) : s.unitsChange (s.resumePixel k) := by
  unfold State.resumePixel
  split
  · exact s.unitsChange_refl
  · split
    · split
      · exact s.unitsChange_refl
      · exact s.seekPixel_units k _ _ _ fun _ => s.allocateAnew_units k _
    · exact s.unitsChange_refl

end Sys2Proof.Machine
end

