-- ==== Sys2Proof/Laws/Notices.lean ====
section
/-! SUPPORT. What raising a condition and recording faults do to the notice queue and the fault log, in the terms of
Safety.lean that the statements use. -/

namespace Sys2Proof.Machine

/-- A notice inserted stands behind those of no higher condition and before the first of a higher one. -/
theorem insertNotice_split (n : Notice) (ns : List Notice) : ∃ before behind : List Notice,
    ns = before ++ behind ∧ insertNotice n ns = before ++ n :: behind ∧ (∀ m ∈ before, m.cond ≤ n.cond)
      ∧ ∀ m, behind.head? = some m → n.cond < m.cond := by
  induction ns with
  | nil => exact ⟨[], [], by simp [insertNotice]⟩
  | cons m rest ih =>
    by_cases h : n.cond < m.cond
    · exact ⟨[], m :: rest, by simp [insertNotice, h]⟩
    · obtain ⟨before, behind, h1, h2, h3, h4⟩ := ih
      refine ⟨m :: before, behind, by simp [h1], by simp [insertNotice, h, h2], ?_, h4⟩
      simp only [List.mem_cons, forall_eq_or_imp]
      exact ⟨not_lt.mp h, h3⟩

/-- The notice queue after a raise. -/
theorem State.raise_notices (s : State) (c : Cond) :
    (s.raise c).notices = if s.latches.getLsbD c = false ∧ s.enabled c = true ∧ ∀ m ∈ s.notices, m.cond ≠ c then
      insertNotice (s.noticeOf c) s.notices else s.notices := by
  unfold State.raise State.queueNotice
  cases hl : s.latches.getLsbD c with
  | true => simp
  | false =>
    cases he : s.enabled c with
    | false => rw [if_neg Bool.false_ne_true, if_neg (by simpa [State.enabled] using he)]; simp
    | true =>
      by_cases ha : ∀ m ∈ s.notices, m.cond ≠ c
      · have hn : (s.notices.any fun n => n.cond == c) = false := by simpa [List.any_eq_false] using ha
        rw [if_neg Bool.false_ne_true, if_pos (by simpa [State.enabled] using he), if_neg (by simpa using ha), if_pos ⟨rfl, rfl, ha⟩]
        rfl
      · have hn : (s.notices.any fun n => n.cond == c) = true := by simpa using ha
        rw [if_neg Bool.false_ne_true, if_pos (by simpa [State.enabled] using he), if_pos hn, if_neg (fun h => ha h.2.2)]

/-- Raising an event condition queues its notice as R183 to R185 give. -/
theorem State.raise_queuesNotice (s : State) (c : Cond) : s.queuesNotice (s.noticeOf c) (s.raise c).notices := by
  rw [State.raise_notices]
  unfold State.queuesNotice
  split
  · rename_i h
    obtain ⟨before, behind, h1, h2, h3, h4⟩ := insertNotice_split (s.noticeOf c) s.notices
    exact ⟨before, behind, h1, (if_pos h).trans h2, fun m hm => lt_of_le_of_ne (h3 m hm) (h.2.2 m (by simp [h1, hm])), h4⟩
  · exact if_neg ‹_›

/-- A latch that is set takes no notice. -/
theorem State.queuesNotice_latched {s : State} {n : Notice} {ns : List Notice} (h : s.latches.getLsbD n.cond = true)
    (hq : s.queuesNotice n ns) : ns = s.notices := by
  unfold State.queuesNotice at hq
  rwa [if_neg (by simp [h])] at hq

/-- The faults of a list are logged as R188 gives. -/
theorem State.recordFaults_logsFaults (s : State) (fs : List FaultRecord) :
    let t := s.recordFaults fs
    s.logsFaults fs t.faults t.overflow t.latches t.notices := by
  induction fs generalizing s with
  | nil => simp [State.logsFaults]
  | cons f fs ih =>
    simp only [State.recordFaults_cons]
    obtain ⟨h1, h2, h3⟩ := ih (s.recordFault f)
    by_cases hl : s.faults.length < 8
    · have hr : s.recordFault f = ({ s with faults := s.faults ++ [f] } : State).raise Cond.faultLogged := by
        simp [State.recordFault, Config.faultLogDepth, hl]
      have hn := ({ s with faults := s.faults ++ [f] } : State).raise_queuesNotice Cond.faultLogged
      obtain ⟨ns, hs⟩ := ({ s with faults := s.faults ++ [f] } : State).raise_spec Cond.faultLogged
      have hb : (s.recordFault f).latches.getLsbD Cond.faultLogged = true := by
        rw [hr, State.raise_latch]; simp
      have hf : (s.recordFault f).faults = s.faults ++ [f] := by rw [hr, hs]
      have ho : (s.recordFault f).overflow = s.overflow := by rw [hr, hs]
      have hL : (s.recordFault f).latches = s.latches ||| BitVec.twoPow 45 Cond.faultLogged := by rw [hr, hs]
      have hlast : ((s.recordFault f).recordFaults fs).latches = (s.recordFault f).latches
          ∧ ((s.recordFault f).recordFaults fs).notices = (s.recordFault f).notices := by
        split at h3
        · exact ⟨h3.1.trans (by rw [hL, BitVec.or_assoc, BitVec.or_self]), State.queuesNotice_latched hb h3.2⟩
        · exact h3
      refine ⟨?_, ?_, ?_⟩
      · rw [h1, hf, List.length_append, List.append_assoc]
        have : 8 - s.faults.length = (8 - (s.faults.length + [f].length)) + 1 := by simp; omega
        rw [this, List.take_succ_cons]
        rfl
      · rw [h2, ho, hf]
        have hlen : (s.faults ++ [f]).length + fs.length = s.faults.length + (f :: fs).length := by simp; omega
        rw [hlen]
        cases fs with
        | nil => simp; omega
        | cons g gs => simp
      · rw [if_pos ⟨by simp, hl⟩, hlast.1, hlast.2, hL, hr]
        exact ⟨rfl, hn⟩
    · have hr : s.recordFault f = { s with overflow := true } := by simp [State.recordFault, Config.faultLogDepth, hl]
      rw [hr] at h1 h2 h3 ⊢
      rw [if_neg (fun h => hl h.2)] at h3
      refine ⟨?_, ?_, ?_⟩
      · rw [h1]; simp [Nat.sub_eq_zero_of_le (not_lt.mp hl)]
      · rw [h2]; simp; omega
      · rw [if_neg (fun h => hl h.2)]; exact h3

end Sys2Proof.Machine
end

