-- ==== Sys2Proof/WellFormed.lean ====
section
/-! DEFINITION. Which commands are well formed: the operands that a command of its row can carry. A command that is not
well formed still has a meaning; the meanings judge what reaches them by the same functions. -/

namespace Sys2Proof

open Sys2Proof.Machine

/-- An upset names a directory record within 0..63 (R53); tile cache entries are within 0..63 by their type. -/
def Upset.wellFormed : Upset → Bool
  | .pool record _ => decide (record < Config.directoryRecords)
  | .tileTag _ _ => true
  | .tileData _ _ => true

/-- Every upset of a list is well formed. -/
def upsetsWellFormed (us : List Upset) : Bool := us.all Upset.wellFormed

/-- Whether the operands are those of the command's row: a record of the row's kind, complete (R166, R167), and upsets
of storage that exists. A token or a cell may be ill checked: the part receives it and discards it (R95, R153). -/
def Instr.wellFormed : Instr → Bool
  | .pinReset _ _ _ _ => true
  | .startupHeaderReadDone => true
  | .imageCheckReadDone => true
  | .startupLoadDone => true
  | .inputCarrierDetected _ => true
  | .inputTrainingDone _ => true
  | .inputLinkLost _ => true
  | .frameOpen _ record => (parseFrameOpen record).isSome
  | .line _ record => (parseLine record).isSome
  | .frameClose _ record => (parseFrameClose record).isSome
  | .recordUnknown _ record => !knownRecord record
  | .cell _ record => isCellRecord record
  | .identify => true
  | .status => true
  | .set => true
  | .get => true
  | .clear => true
  | .faultRead => true
  | .restartOutput => true
  | .resetFull => true
  | .resetFullEffect _ => true
  | .resetPipeline => true
  | .badCommand => true
  | .tableOpen => true
  | .tableWrite => true
  | .tableRead us => upsetsWellFormed us
  | .tableSeal => true
  | .tableDropStaged => true
  | .tableDropLive => true
  | .tableSwap => true
  | .tableList => true
  | .store => true
  | .load => true
  | .defaultFillPageDone => true
  | .completionEnqueue _ => true
  | .storePhaseDone us => upsetsWellFormed us
  | .flashWriteFailed _ => true
  | .loadReadDone => true
  | .reverseLaneSend _ => true
  | .reverseSendEnd _ => true
  | .frameStart us => upsetsWellFormed us
  | .syncPulse us => upsetsWellFormed us
  | .ownStart us => upsetsWellFormed us
  | .lineDeadline => true
  | .musterHandle _ => true
  | .musterReturn _ => true
  | .showHandle _ => true
  | .showReturn _ => true
  | .warpLineBegin _ => true
  | .warpPixel _ us => upsetsWellFormed us
  | .tileFillComplete _ _ us => upsetsWellFormed us
  | .tileFillTimeout _ _ us => upsetsWellFormed us
  | .lightPixelWrite _ us => upsetsWellFormed us
  | .statusReport _ _ => true
  | .reverseCarrierLost _ => true
  | .reportTimeout _ => true
  | .settleExpiry _ => true
  | .relockExpiry _ => true

end Sys2Proof
end

