-- ==== Sys2Proof/Laws/PerInstr.lean ====
section
/-! SUPPORT. The families of statements made once per command. A well-formed command names storage that exists: every upset
of the pool that it carries names a directory record within 0..63 (R53). -/

namespace Sys2Proof.Laws

/-- The upsets that a command carries. -/
def carriedUpsets : Instr → List Upset
  | .pinReset _ _ _ _ => []
  | .startupHeaderReadDone => []
  | .imageCheckReadDone => []
  | .startupLoadDone => []
  | .inputCarrierDetected _ => []
  | .inputTrainingDone _ => []
  | .inputLinkLost _ => []
  | .frameOpen _ _ => []
  | .line _ _ => []
  | .frameClose _ _ => []
  | .recordUnknown _ _ => []
  | .cell _ _ => []
  | .identify => []
  | .status => []
  | .set => []
  | .get => []
  | .clear => []
  | .faultRead => []
  | .restartOutput => []
  | .resetFull => []
  | .resetFullEffect _ => []
  | .resetPipeline => []
  | .badCommand => []
  | .tableOpen => []
  | .tableWrite => []
  | .tableRead us => us
  | .tableSeal => []
  | .tableDropStaged => []
  | .tableDropLive => []
  | .tableSwap => []
  | .tableList => []
  | .store => []
  | .load => []
  | .defaultFillPageDone => []
  | .completionEnqueue _ => []
  | .storePhaseDone us => us
  | .flashWriteFailed _ => []
  | .loadReadDone => []
  | .reverseLaneSend _ => []
  | .reverseSendEnd _ => []
  | .frameStart us => us
  | .syncPulse us => us
  | .ownStart us => us
  | .lineDeadline => []
  | .musterHandle _ => []
  | .musterReturn _ => []
  | .showHandle _ => []
  | .showReturn _ => []
  | .warpLineBegin _ => []
  | .warpPixel _ us => us
  | .tileFillComplete _ _ us => us
  | .tileFillTimeout _ _ us => us
  | .lightPixelWrite _ us => us
  | .statusReport _ _ => []
  | .reverseCarrierLost _ => []
  | .reportTimeout _ => []
  | .settleExpiry _ => []
  | .relockExpiry _ => []

namespace UpsetsExist

/-- A well-formed command's upsets name directory records that exist. -/
def Statement (i : Instr) : Prop := i.wellFormed = true → ∀ r e : Nat, Upset.pool r e ∈ carriedUpsets i → r < 64

theorem of_list (us : List Upset) (h : upsetsWellFormed us = true) (r e : Nat) (hm : Upset.pool r e ∈ us) : r < 64 := by
  exact of_decide_eq_true (List.all_eq_true.1 h _ hm)

theorem pinReset (arr : BitVec 2) (role : BitVec 2) (pos : BitVec 3) (done : Nat) : Statement (.pinReset arr role pos done) := fun _ _ _ hm => nomatch hm
theorem startupHeaderReadDone : Statement (.startupHeaderReadDone) := fun _ _ _ hm => nomatch hm
theorem imageCheckReadDone : Statement (.imageCheckReadDone) := fun _ _ _ hm => nomatch hm
theorem startupLoadDone : Statement (.startupLoadDone) := fun _ _ _ hm => nomatch hm
theorem inputCarrierDetected (port : Channel) : Statement (.inputCarrierDetected port) := fun _ _ _ hm => nomatch hm
theorem inputTrainingDone (port : Channel) : Statement (.inputTrainingDone port) := fun _ _ _ hm => nomatch hm
theorem inputLinkLost (port : Channel) : Statement (.inputLinkLost port) := fun _ _ _ hm => nomatch hm
theorem frameOpen (port : Channel) (record : Bytes) : Statement (.frameOpen port record) := fun _ _ _ hm => nomatch hm
theorem line (port : Channel) (record : Bytes) : Statement (.line port record) := fun _ _ _ hm => nomatch hm
theorem frameClose (port : Channel) (record : Bytes) : Statement (.frameClose port record) := fun _ _ _ hm => nomatch hm
theorem recordUnknown (port : Channel) (record : Bytes) : Statement (.recordUnknown port record) := fun _ _ _ hm => nomatch hm
theorem cell (port : Channel) (record : Bytes) : Statement (.cell port record) := fun _ _ _ hm => nomatch hm
theorem identify : Statement (.identify) := fun _ _ _ hm => nomatch hm
theorem status : Statement (.status) := fun _ _ _ hm => nomatch hm
theorem set : Statement (.set) := fun _ _ _ hm => nomatch hm
theorem get : Statement (.get) := fun _ _ _ hm => nomatch hm
theorem clear : Statement (.clear) := fun _ _ _ hm => nomatch hm
theorem faultRead : Statement (.faultRead) := fun _ _ _ hm => nomatch hm
theorem restartOutput : Statement (.restartOutput) := fun _ _ _ hm => nomatch hm
theorem resetFull : Statement (.resetFull) := fun _ _ _ hm => nomatch hm
theorem resetFullEffect (done : Nat) : Statement (.resetFullEffect done) := fun _ _ _ hm => nomatch hm
theorem resetPipeline : Statement (.resetPipeline) := fun _ _ _ hm => nomatch hm
theorem badCommand : Statement (.badCommand) := fun _ _ _ hm => nomatch hm
theorem tableOpen : Statement (.tableOpen) := fun _ _ _ hm => nomatch hm
theorem tableWrite : Statement (.tableWrite) := fun _ _ _ hm => nomatch hm
theorem tableRead (upsets : List Upset) : Statement (.tableRead upsets) := fun h r e hm => of_list upsets h r e hm
theorem tableSeal : Statement (.tableSeal) := fun _ _ _ hm => nomatch hm
theorem tableDropStaged : Statement (.tableDropStaged) := fun _ _ _ hm => nomatch hm
theorem tableDropLive : Statement (.tableDropLive) := fun _ _ _ hm => nomatch hm
theorem tableSwap : Statement (.tableSwap) := fun _ _ _ hm => nomatch hm
theorem tableList : Statement (.tableList) := fun _ _ _ hm => nomatch hm
theorem store : Statement (.store) := fun _ _ _ hm => nomatch hm
theorem load : Statement (.load) := fun _ _ _ hm => nomatch hm
theorem defaultFillPageDone : Statement (.defaultFillPageDone) := fun _ _ _ hm => nomatch hm
theorem completionEnqueue (op : OpRecord) : Statement (.completionEnqueue op) := fun _ _ _ hm => nomatch hm
theorem storePhaseDone (upsets : List Upset) : Statement (.storePhaseDone upsets) := fun h r e hm => of_list upsets h r e hm
theorem flashWriteFailed (done : Nat) : Statement (.flashWriteFailed done) := fun _ _ _ hm => nomatch hm
theorem loadReadDone : Statement (.loadReadDone) := fun _ _ _ hm => nomatch hm
theorem reverseLaneSend (port : Channel) : Statement (.reverseLaneSend port) := fun _ _ _ hm => nomatch hm
theorem reverseSendEnd (port : Channel) : Statement (.reverseSendEnd port) := fun _ _ _ hm => nomatch hm
theorem frameStart (upsets : List Upset) : Statement (.frameStart upsets) := fun h r e hm => of_list upsets h r e hm
theorem syncPulse (upsets : List Upset) : Statement (.syncPulse upsets) := fun h r e hm => of_list upsets h r e hm
theorem ownStart (upsets : List Upset) : Statement (.ownStart upsets) := fun h r e hm => of_list upsets h r e hm
theorem lineDeadline : Statement (.lineDeadline) := fun _ _ _ hm => nomatch hm
theorem musterHandle (token : Bytes) : Statement (.musterHandle token) := fun _ _ _ hm => nomatch hm
theorem musterReturn (token : Bytes) : Statement (.musterReturn token) := fun _ _ _ hm => nomatch hm
theorem showHandle (token : Bytes) : Statement (.showHandle token) := fun _ _ _ hm => nomatch hm
theorem showReturn (token : Bytes) : Statement (.showReturn token) := fun _ _ _ hm => nomatch hm
theorem warpLineBegin (channel : Channel) : Statement (.warpLineBegin channel) := fun _ _ _ hm => nomatch hm
theorem warpPixel (channel : Channel) (upsets : List Upset) : Statement (.warpPixel channel upsets) := fun h r e hm => of_list upsets h r e hm
theorem tileFillComplete (channel : Channel) (read : Nat) (upsets : List Upset) : Statement (.tileFillComplete channel read upsets) := fun h r e hm => of_list upsets h r e hm
theorem tileFillTimeout (channel : Channel) (read : Nat) (upsets : List Upset) : Statement (.tileFillTimeout channel read upsets) := fun h r e hm => of_list upsets h r e hm
theorem lightPixelWrite (channel : Channel) (upsets : List Upset) : Statement (.lightPixelWrite channel upsets) := fun h r e hm => of_list upsets h r e hm
theorem statusReport (output : Channel) (locked : Bool) : Statement (.statusReport output locked) := fun _ _ _ hm => nomatch hm
theorem reverseCarrierLost (output : Channel) : Statement (.reverseCarrierLost output) := fun _ _ _ hm => nomatch hm
theorem reportTimeout (output : Channel) : Statement (.reportTimeout output) := fun _ _ _ hm => nomatch hm
theorem settleExpiry (output : Channel) : Statement (.settleExpiry output) := fun _ _ _ hm => nomatch hm
theorem relockExpiry (output : Channel) : Statement (.relockExpiry output) := fun _ _ _ hm => nomatch hm

end UpsetsExist

end Sys2Proof.Laws
end

