-- ==== Sys2Proof/Laws/Tables.lean ====
section
/-! SUPPORT. The laws of the table store: what a lookup in the directory finds, what a row of entries leaves when it is
stored, and what the promotion and the dropping of instances leave in a record. -/

namespace Sys2Proof.Machine

/-- A lookup finds an instance of the key in the bank. -/
theorem findTable_some {dir : Assoc TableRecord} {key : Key} {bank : Bank} {n : Nat} {r : TableRecord}
    (h : findTable dir key bank = some (n, r)) : (n, r) ∈ dir ∧ r.key = key ∧ r.bank = bank := by
  have hp := List.find?_some h
  simp only [Bool.and_eq_true, beq_iff_eq] at hp
  exact ⟨List.mem_of_find?_eq_some h, hp.1, hp.2⟩

/-- A lookup that finds nothing: no instance of the key is in the bank. -/
theorem findTable_none {dir : Assoc TableRecord} {key : Key} {bank : Bank} (h : findTable dir key bank = none)
    {e : Nat × TableRecord} (he : e ∈ dir) (hk : e.2.key = key) : e.2.bank ≠ bank := by
  intro hb
  have hf := List.find?_eq_none.1 h e he
  simp [hk, hb] at hf

/-- A staged instance is FILLING, OPEN or SEALED. -/
theorem TableRecord.bank_staged (r : TableRecord) : r.bank = .staged ↔ r.state ≠ .live := by
  unfold TableRecord.bank
  split <;> simp_all

theorem TableRecord.bank_live (r : TableRecord) : r.bank = .live ↔ r.state = .live := by
  unfold TableRecord.bank
  split <;> simp_all

/-- A row of `n` whole entries stored from index `i` (R60): each reads back as its payload entry brought into range, every
other entry as before, and the instance keeps everything else. -/
theorem TableRecord.storeEntries_whole (size n i : Nat) (data : Bytes) (r : TableRecord) (c : Bool) :
    let out := TableRecord.storeEntries none size n i data (r, c)
    { out.1 with contents := r.contents, bad := r.bad } = r
      ∧ (∀ j, j < n → out.1.read (i + j) = (r.key.entryOfBytes (i + j) ((data.drop (j * size)).take size)).1)
      ∧ (∀ j, j < i ∨ i + n ≤ j → out.1.read j = r.read j)
      ∧ (out.2 = true ↔ c = true ∨ ∃ j, j < n ∧ (r.key.entryOfBytes (i + j) ((data.drop (j * size)).take size)).2 = true) := by
  induction n generalizing i data r c with
  | zero =>
    refine ⟨rfl, fun j hj => absurd hj (Nat.not_lt_zero j), fun j _ => rfl, ?_⟩
    simp [TableRecord.storeEntries]
  | succ n ih =>
    have ih' := ih (i + 1) (data.drop size) (r.write i (r.key.entryOfBytes i (data.take size)).1 true)
      (c || (r.key.entryOfBytes i (data.take size)).2)
    have hw : { r.write i (r.key.entryOfBytes i (data.take size)).1 true with contents := r.contents, bad := r.bad } = r := rfl
    have hk : (r.write i (r.key.entryOfBytes i (data.take size)).1 true).key = r.key := rfl
    have he : TableRecord.storeEntries none size (n + 1) i data (r, c) =
        TableRecord.storeEntries none size n (i + 1) (data.drop size)
          (r.write i (r.key.entryOfBytes i (data.take size)).1 true, c || (r.key.entryOfBytes i (data.take size)).2) := rfl
    simp only at ih' ⊢
    rw [he]
    obtain ⟨h1, h2, h3, h4⟩ := ih'
    have hdrop : ∀ j, (data.drop size).drop (j * size) = data.drop ((j + 1) * size) := by
      intro j
      rw [List.drop_drop]
      congr 1
      ring
    refine ⟨?_, ?_, ?_, ?_⟩
    · have h1' := congrArg (fun t : TableRecord => { t with contents := r.contents, bad := r.bad }) h1
      exact h1'.trans hw
    · intro j hj
      cases j with
      | zero =>
        rw [h3 (i + 0) (Or.inl (by omega)), TableRecord.read_write_whole, if_pos (by omega)]
        simp
      | succ j =>
        have := h2 j (by omega)
        rw [hk, hdrop] at this
        rw [show i + (j + 1) = i + 1 + j by omega]
        exact this
    · intro j hj
      rw [h3 j (by omega), TableRecord.read_write_whole, if_neg (by omega)]
    · rw [h4, hk]
      simp only [Bool.or_eq_true]
      constructor
      · rintro ((hc | h0) | ⟨j, hj, hs⟩)
        · exact Or.inl hc
        · exact Or.inr ⟨0, by omega, by simpa using h0⟩
        · refine Or.inr ⟨j + 1, by omega, ?_⟩
          rw [hdrop] at hs
          rw [show i + (j + 1) = i + 1 + j by omega]
          exact hs
      · rintro (hc | ⟨j, hj, hs⟩)
        · exact Or.inl (Or.inl hc)
        · cases j with
          | zero => exact Or.inl (Or.inr (by simpa using hs))
          | succ j =>
            refine Or.inr ⟨j, by omega, ?_⟩
            rw [hdrop, show i + 1 + j = i + (j + 1) by omega]
            exact hs

/-- A new instance (R50, R53): its record is the lowest free one, and every other record stands. -/
theorem createTable_spec {arr : Arrangement} {dir dir' : Assoc TableRecord} {key : Key} {dims : Option Dims} {st : TableState}
    {n : Nat} (h : createTable arr dir key dims st = some (n, dir')) :
    n < 64 ∧ Assoc.find dir n = none
      ∧ (∃ p, firstFit arr dir (key.pages dims) = some p
          ∧ Assoc.find dir' n = some ⟨key, st, p, key.pages dims, dims, false, false, [], []⟩)
      ∧ ∀ j, j ≠ n → Assoc.find dir' j = Assoc.find dir j := by
  unfold createTable at h
  split at h
  · rename_i m p hm hp
    obtain ⟨rfl, rfl⟩ := Prod.mk.inj (Option.some.inj h)
    obtain ⟨h1, h2, _⟩ := Assoc.lowestFree_spec hm
    exact ⟨h1, h2, ⟨p, hp, Assoc.find_insert_same _ _ _⟩, fun j hj => Assoc.find_insert_other _ _ hj⟩
  · cases h

/-- A run given by first-fit lies in the table pages, and all of it is free (R50). -/
theorem firstFit_spec {arr : Arrangement} {dir : Assoc TableRecord} {n p : Nat} (h : firstFit arr dir n = some p) :
    arr.linePages ≤ p ∧ ∀ q, p ≤ q → q < p + n → q < 512 ∧ pageUsed dir q = false := by
  have hm := List.mem_of_find?_eq_some h
  have hp := List.find?_some h
  rw [List.mem_range'_1] at hm
  refine ⟨hm.1, fun q h1 h2 => ?_⟩
  have := List.all_eq_true.1 hp q (List.mem_range'_1.2 ⟨h1, h2⟩)
  simp only [pageFree, Bool.and_eq_true, decide_eq_true_eq, Bool.not_eq_true'] at this
  exact ⟨this.1.2, this.2⟩

end Sys2Proof.Machine
end

