-- ==== Sys2Proof/Laws/Serve.lean ====
section
/-! SUPPORT. Serving as the statements name it (R154): a cell that is served leaves what its command answers, with the reply
placed in the reply queue of its link. -/

namespace Sys2Proof.Machine

/-- Serving the oldest cell, where nothing stands in the way. -/
theorem State.serve_served {s : State} {c : Cell} {rest : List Cell} (h : s.served c rest) (mine : Cell → Bool)
    (command : Cell → State → Answer) (hm : mine c = true) :
    let a := command c { s with cells := rest }
    s.serve mine command =
      a.state.setLane c.link ((a.state.lanes.get c.link).place (.reply c.tag a.status a.payload a.resets)) := by
  obtain ⟨h1, h2, h3, h4⟩ := h
  show s.serve mine command = _
  rw [State.serve_eq s mine command c rest h1 h2 hm (Or.inr h4)]
  unfold State.reply
  rw [h3]
  rfl

/-- A command that answers without an effect: the reply is placed and nothing else changes. -/
theorem State.serve_replied {s : State} {c : Cell} {rest : List Cell} (h : s.served c rest) (mine : Cell → Bool)
    (command : Cell → State → Answer) (hm : mine c = true) {st : Status} {payload : Bytes} {resets : Bool}
    (ha : command c { s with cells := rest } = { state := { s with cells := rest }, status := st, payload := payload, resets := resets }) :
    s.serve mine command = s.replied c rest st payload resets := by
  rw [State.serve_served h mine command hm]
  simp only [ha]
  rfl

end Sys2Proof.Machine
end

