-- ==== Sys2Proof/Tests/Slice0.lean ====
section
/-! SUPPORT. The model's own tests: the well-formedness checks, the manual's worked figures (each test names the section
its numbers come from), and for every statement of Certificates/Slice0/Obligations.lean a concrete state and operands that
meet its hypotheses, with one of its conclusions looked at. -/

-- One test after another: checked side by side, they ask for more threads than a small machine has.
set_option Elab.async false

namespace Sys2Proof.Tests

open Sys2Proof Sys2Proof.Machine

/-! ### Helpers -/

/-- The next state, or the state given where there is none. -/
def after (o : Host.Outcome State Fault Refusal) (s : State) : State :=
  match o with
  | .next t => t
  | _ => s

/-- What a command leaves of a state. -/
def run (i : Instr) (s : State) : State := after (exec i s) s

/-- The part after reset with its start-up load ended. -/
def idle : State := { State.reset with loader := ⟨none, none, .none⟩ }

/-- A cell of link 0 with tag 7. -/
def cellOf (command : Byte) (payload : Bytes) : Cell := ⟨0, 7, command, payload, false⟩

/-- A state with one cell waiting. -/
def withCell (s : State) (command : Byte) (payload : Bytes) : State := { s with cells := [cellOf command payload] }

/-- The last entry of link 0's reply queue. -/
def reply (s : State) : Option QueueEntry := (s.lanes.get 0).replies.getLast?

/-- A state in another role. -/
def asRole (s : State) (r : Role) : State := { s with straps := { s.straps with role := r, position := if r = .follower then 1 else 0 } }

/-- A state with every input port LOCKED and every quiet count 0. -/
def live (s : State) : State :=
  { s with inputs := Quad.all ⟨.locked, .none⟩, rings := Quad.of fun k => { s.rings.get k with quiet := 0 } }

/-- A slot of 16 by 8 pixels. -/
def slotOf (st : SlotState) (f : FrameNo) : Slot := ⟨st, f, 16, 8, [], 0, false⟩

/-- A state with the three slots of every channel. -/
def withSlots (s : State) (a b c : Slot) : State := { s with rings := Quad.of fun k => { s.rings.get k with slots := ⟨a, b, c⟩ } }

/-- A state with output port 0 in a state, its countdown due at `e`. -/
def withPort (s : State) (p : PortState) (l : LockRecord) (e : Option Nat) : State :=
  { s with outputs := s.outputs.set 0 ⟨p, l, e, some 5, []⟩ }

/-- The LOSSMAP in a state, on page 64. -/
def mapRecord (st : TableState) : TableRecord := ⟨.lossmap, st, 64, 1, none, false, false, [], []⟩

/-- A state whose directory is the LOSSMAP alone. -/
def withMap (s : State) (st : TableState) : State := { s with tables := { s.tables with directory := [(0, mapRecord st)] } }

/-- A state with an image operation running. -/
def withOp (s : State) (op : ImageOp) : State := { s with loader := ⟨some op, none, .bad⟩ }

/-! ### Well-formedness: each check refuses an ill-formed term -/

theorem test_wf_upset_record : Upset.wellFormed (.pool 64 0) = false ∧ Upset.wellFormed (.pool 63 0) = true := by decide

theorem test_wf_frame_open : (Instr.frameOpen 0 [0x11, 1, 0, 16, 0, 8]).wellFormed = false
    ∧ (Instr.frameOpen 0 [0x11, 1, 0, 16, 0, 8, 0]).wellFormed = true := by decide

theorem test_wf_line : (Instr.line 0 [0x12, 0, 0, 1, 0, 9, 9]).wellFormed = false
    ∧ (Instr.line 0 [0x12, 0, 0, 1, 0, 9, 9, 9]).wellFormed = true := by decide

theorem test_wf_frame_close : (Instr.frameClose 0 [0x11, 1, 0]).wellFormed = false
    ∧ (Instr.frameClose 0 [0x13, 1, 0]).wellFormed = true := by decide

theorem test_wf_unknown : (Instr.recordUnknown 0 [0x13, 1, 0]).wellFormed = false
    ∧ (Instr.recordUnknown 0 [0x15, 1, 0]).wellFormed = true := by decide +kernel

theorem test_wf_cell : (Instr.cell 0 [0x13, 1, 0]).wellFormed = false ∧ (Instr.cell 0 [0x14]).wellFormed = true := by decide

theorem test_wf_upsets :
    [Instr.tableRead [.pool 64 0], .storePhaseDone [.pool 64 0], .frameStart [.pool 64 0], .syncPulse [.pool 64 0],
      .ownStart [.pool 64 0], .warpPixel 0 [.pool 64 0], .tileFillComplete 0 0 [.pool 64 0],
      .tileFillTimeout 0 0 [.pool 64 0], .lightPixelWrite 0 [.pool 64 0]].all (fun i => !i.wellFormed) = true := by decide

/-! ### The manual's worked figures -/

/-- 1.6: the corners of output pixel (40, 70) under S = 32 give X = 2588 and Y = 4572. -/
theorem test_worked_pixel_position :
    (gridCell 32 40 70) = ⟨1, 2, 8, 6⟩ ∧ (gridCell 32 40 70).interpolate 32 2048 4160 2112 4224 = 2588
      ∧ (gridCell 32 40 70).interpolate 32 4160 4224 6272 6336 = 4572 := by decide

/-- 1.6: four decoded neighbours give the sample 2695. -/
theorem test_worked_pixel_sample : neighbours 3072 2048 2588 4572 = [(40, 71), (41, 71), (40, 72), (41, 72)]
    ∧ bilinear 2588 4572 1000 3000 2000 6000 = 2695 := by decide

/-- 1.6: a position left of the source: the sum is rounded toward −∞ to −176 and clamped to 0. -/
theorem test_worked_pixel_left : (gridCell 16 3 5).interpolate 16 (-200) (-100) (-180) (-90) = -176
    ∧ clampSource 3072 (-176) = 0 ∧ clampChanges 3072 (-176) = true ∧ clampChanges 2048 400 = false := by decide

/-- 2.10: weight 16384 and lift 300 at the pixel. -/
theorem test_worked_pixel_blend : (gridCell 16 40 70).interpolate 16 18432 14336 18432 14336 = 16384
    ∧ (gridCell 16 40 70).interpolate 16 333 268 300 299 = 300 := by decide

/-- 2.10: stage 5 takes 2695 to 1348 and 1642. -/
theorem test_worked_pixel_stage5 : weighted 2695 16384 = 1348 ∧ lifted 1348 300 = 1642 := by decide

/-- 2.10: E′ = 7080 from the loaded curve; code 111 without dither, 110 with it at (40, 70). -/
theorem test_worked_pixel_code :
    encode (some ⟨.tone 0, .live, 64, 3, none, false, false, [(1126, .value 7040), (1127, .value 7104)], []⟩) 1642 = 7080
      ∧ outputCode 7080 (ditherValue false 40 70) = 111 ∧ outputCode 7080 (ditherValue true 40 70) = 110 := by decide +kernel

/-- 2.10: a matrix that leaves the range is clamped on both sides. -/
theorem test_matrix_clamps : matrixRow ⟨9000, -900, 100⟩ ⟨2695, 60000, 100⟩ = 0
    ∧ matrixRow ⟨0, 9000, 0⟩ ⟨2695, 60000, 100⟩ = 65535 := by decide

/-- 2.7: half light under lift 16383 leaves stage 5 as 40959. -/
theorem test_lift_table : lifted 32768 16383 = 40959 := by decide

/-- 3.12: the page counts of the worked pool and its first runs. -/
theorem test_worked_pool_pages :
    Key.pages (.mesh 0) (some ⟨32, 81, 51⟩) = 9 ∧ Key.pages (.blend 0 0) (some ⟨16, 161, 101⟩) = 16
      ∧ Key.pages (.tone 0) none = 3 ∧ Key.pages .lossmap none = 1 ∧ Dims.fits ⟨32, 81, 51⟩ 2560 1600 = true := by decide

/-- 6.1: deadlines at 1920 × 1200 and 16,667 µs. -/
theorem test_deadlines : (RasterTimer.reset 0).deadline 0 = 1215 ∧ (RasterTimer.reset 0).deadline 1199 = 1458362
    ∧ musterLineOf 1200 64 = 1135 := by decide

/-- 7.6: with P1's OUT1 absent, rule 0 with mask 20h chooses set 2 on P0's channel 3. -/
theorem test_worked_loss :
    chooseSet (some ⟨.lossmap, .live, 64, 1, none, false, false, [(0, .rule 0x20 ⟨0, 0, 1, 2⟩)], []⟩) 0xFFFFFFDF 3 = 2 := by
  decide

/-- R75, R193: the published check values of the two polynomials over the nine ASCII digits 1 to 9. -/
theorem test_checks : crc16 [0x31, 0x32, 0x33, 0x34, 0x35, 0x36, 0x37, 0x38, 0x39] = 0x29B1
    ∧ crc32 [0x31, 0x32, 0x33, 0x34, 0x35, 0x36, 0x37, 0x38, 0x39] = 0xCBF43926 := by decide +kernel

/-! ### The machine as a whole -/

theorem witness_StepRunsFrontCommand : ∃ s : State, s.pending = [.statusReport 0 true]
    ∧ (after (step s) s).pending = [] ∧ ((after (step s) s).outputs.get 0).state = .settling :=
  ⟨{ idle with pending := [.statusReport 0 true] }, rfl, rfl, rfl⟩

theorem witness_step_on_an_empty_queue : State.reset.pending = [] ∧ (after (step State.reset) State.reset).now = 1 := by
  decide +kernel

/-- A sound state whose next step is a frame start: every invariant's hypotheses hold of it. -/
def soundState : State := { live idle with pending := [.frameStart []] }

theorem soundState_sound : soundState.sound = true := by decide +kernel

theorem soundState_steps : (after (step soundState) State.reset).timer.begun = true := by decide +kernel

theorem witness_QueuesStayBounded : soundState.queuesBounded = true ∧ step soundState = .next (after (step soundState) soundState) :=
  ⟨by decide +kernel, rfl⟩

theorem witness_NoticesStaySound : soundState.noticesSound = true ∧ step soundState = .next (after (step soundState) soundState) :=
  ⟨by decide +kernel, rfl⟩

theorem witness_SlotsStaySound : soundState.slotsSound = true ∧ step soundState = .next (after (step soundState) soundState) :=
  ⟨by decide +kernel, rfl⟩

theorem witness_CachesStaySound : soundState.cachesSound = true ∧ step soundState = .next (after (step soundState) soundState) :=
  ⟨by decide +kernel, rfl⟩

theorem witness_PageRunsStayDisjoint : soundState.pagesSound = true ∧ step soundState = .next (after (step soundState) soundState) :=
  ⟨by decide +kernel, rfl⟩

theorem witness_DirectoryStaysSound : soundState.directorySound = true ∧ step soundState = .next (after (step soundState) soundState) :=
  ⟨by decide +kernel, rfl⟩

theorem witness_SettingsStayLegal : soundState.settingsSound = true ∧ step soundState = .next (after (step soundState) soundState) :=
  ⟨by decide +kernel, rfl⟩

theorem witness_OutputsStaySound : soundState.settingsSound = true ∧ soundState.outputsSound = true
    ∧ step soundState = .next (after (step soundState) soundState) := ⟨by decide +kernel, by decide +kernel, rfl⟩

theorem witness_AbsentChannelsStayInert :
    ({ soundState with straps := { soundState.straps with arrangement := .c } } : State).absentInert = true
      ∧ soundState.hasChannel 1 = true := by decide +kernel

theorem witness_FlashStaysCanonical : Memory.wf soundState.flash = true ∧ step soundState = .next (after (step soundState) soundState) :=
  ⟨rfl, rfl⟩

/-! ### Start-up and resets -/

/-- R192: ARR 3 and ROLE 2 with POS 0 are corrected to A and solo, with the strap fault. -/
theorem test_straps_corrected : (run (.pinReset 3 2 0 0) State.reset).straps = ⟨3, 2, 0, .a, .solo, 0, true⟩ := by decide +kernel

theorem witness_PinResetLeavesResetValues : State.reset.loader.storing = false
    ∧ (run (.pinReset 2 1 0 0) State.reset).timer.phase = .activeLines 0 := by decide +kernel

theorem witness_FullResetWaitsThenActs :
    (withCell idle 0x08 [0]).served (cellOf 0x08 [0]) [] ∧ (cellOf 0x08 [0]).carries .reset = true
      ∧ (run .resetFull (withCell idle 0x08 [0])).resetWait = some ⟨0, false⟩
      ∧ (run (.resetFullEffect 0) { idle with resetWait := some ⟨0, true⟩, overflow := true }).overflow = true
      ∧ (run .resetFull { idle with cells := [⟨0, 7, 0x08, [0], true⟩] }).resetWait = some ⟨0, true⟩ :=
  ⟨⟨rfl, rfl, rfl, by decide⟩, by decide, by decide +kernel, by decide +kernel, by decide +kernel⟩

/-- R123, R164: the effect on a solo part begins its first frame and counts every output down once; a follower waits. -/
theorem witness_FullResetWaitsThenActs_blocks :
    let s : State := { idle with resetWait := some ⟨0, true⟩, modes := Quad.all .flat }
    (run (.resetFullEffect 0) s).timer.phase = .activeLines 0 ∧ (run (.resetFullEffect 0) s).loss.count.get 2 = 1
      ∧ (run (.resetFullEffect 0) s).modes.get 0 = .video
      ∧ (run (.resetFullEffect 0) (asRole s .follower)).timer.phase = .blanking := by decide +kernel

theorem witness_PipelineResetClears :
    (withCell idle 0x08 [1]).served (cellOf 0x08 [1]) [] ∧ (cellOf 0x08 [1]).carries .reset = true
      ∧ reply (run .resetPipeline (withCell idle 0x08 [1])) = some (.reply 7 .ok [] false) :=
  ⟨⟨rfl, rfl, rfl, by decide⟩, by decide, by decide +kernel⟩

/-- R165, R183: a channel that the recomputation makes unfit queues its notice, with no frame number. -/
theorem witness_PipelineResetClears_notice :
    let s : State := { withCell idle 0x08 [1] with settings := { idle.settings with noticeEnable := BitVec.twoPow 45 16 } }
    s.tables.unfit.get 0 = false ∧ noticesRiseFrom 0 s.notices = true ∧ s.enabled (Cond.tablesUnfit 0) = true
      ∧ (run .resetPipeline s).notices = [⟨16, some 0, none⟩] := by decide +kernel

/-- R195: on an erased flash the load ends with NONE after the header; a bad image is recorded. -/
theorem witness_StartupLoadRuns : State.reset.loader.op = some (.startup .header)
    ∧ (run .startupHeaderReadDone State.reset).loader = ⟨none, none, .none⟩
    ∧ (run .imageCheckReadDone (withOp State.reset (.startup .check))).faults = [imageCheckFault]
    ∧ (run .startupLoadDone (withOp State.reset (.startup .apply))).loader.op = none := by decide +kernel

/-- A flash that holds these bytes from address 0, in canonical form. -/
def flashOf (bs : Bytes) : Assoc Byte := ((List.range bs.length).zip bs).filter fun e => e.2 ≠ 0xFF

/-- An image body of one settings record: damage_limit 256 (R170). -/
def settingsBody : Bytes := [9, 0] ++ toLe 8 256

/-- The part whose flash holds a good image of that body, its start-up load checking it. -/
def loadingSettings : State :=
  { withOp State.reset (.startup .check) with
    flash := flashOf ([0xC4, 0x12, 0xDA, 0x7E] ++ toLe 4 10 ++ toLe 4 (crc32 settingsBody).toNat ++ [1, 0] ++ settingsBody) }

theorem witness_StartupLoadRuns_good_image : loadingSettings.loader.op = some (.startup .check)
    ∧ imageGood loadingSettings.flash = true
    ∧ (run .imageCheckReadDone loadingSettings).settings.damageLimit = 255
    ∧ (run .imageCheckReadDone loadingSettings).loader.op = some (.startup .apply) := by decide +kernel

/-- The part whose flash holds an image of one LOSSMAP, rule 0 of mask 20h with set choices 4, 0, 1, 2 (R171), its
start-up load applying it. -/
def loadingMap : State :=
  { withOp State.reset (.startup .apply) with
    flash := flashOf ([0xC4, 0x12, 0xDA, 0x7E] ++ toLe 4 144 ++ toLe 4 0 ++ [0, 1] ++ [3, 0, 0, 0] ++ toLe 4 0 ++ toLe 4 16
      ++ toLe 4 128 ++ [0x20, 0, 0, 0, 4, 0, 1, 2] ++ List.replicate 120 0) }

theorem witness_StartupLoadRuns_tables : loadingMap.loader.op = some (.startup .apply)
    ∧ (imageTables loadingMap.flash).map (·.length) = some 1
    ∧ (run .startupLoadDone loadingMap).tables.directory
        = [(0, { mapRecord .live with contents := [(0, .rule 0x20 ⟨3, 0, 1, 2⟩)] })] := by decide +kernel

/-! ### Input ports -/

theorem test_link_states : ((run (.inputCarrierDetected 1) idle).inputs.get 1).link = .training
    ∧ ((run (.inputTrainingDone 1) (run (.inputCarrierDetected 1) idle)).inputs.get 1).link = .locked := by decide +kernel

theorem test_unknown_record : run (.recordUnknown 0 [0x15]) (live idle) = live idle := by decide +kernel

/-- A port that receives frame 3 into slot 1. -/
def receiving : State :=
  let s := withSlots (live idle) (slotOf .ready 1) (slotOf .filling 3) (slotOf .shown 2)
  { s with inputs := s.inputs.set 0 ⟨.locked, .receiving 1 3⟩ }

theorem witness_LinkLossDropsFrameAndReplies : (receiving.inputs.get 0).link ≠ .down
    ∧ ((run (.inputLinkLost 0) receiving).rings.get 0).reject = .linkLost
    ∧ ((run (.inputLinkLost 0) receiving).rings.get 0).slots.s1.state = .empty
    ∧ (live idle).inputs.get 1 = ⟨.locked, .none⟩ := by decide +kernel

/-- A part that enables every condition, port 0 receiving frame 3 into slot 1 and frame 4 shown on channel 0. -/
def receivingNoticed : State :=
  { receiving with
    settings := { idle.settings with noticeEnable := BitVec.allOnes 45 }
    coh := { idle.coh with channelShown := idle.coh.channelShown.set 0 (some 4) } }

/-- R183, R184: the loss of a LOCKED link that received queues INPUT_DOWN and FRAME_REJECT, that of one in TRAINING
neither. -/
theorem witness_LinkLossDropsFrameAndReplies_notices :
    noticesRiseFrom 0 receivingNoticed.notices = true ∧ receivingNoticed.latches.getLsbD (Cond.frameReject 0) = false
      ∧ (run (.inputLinkLost 0) receivingNoticed).notices = [⟨10, some 0, some 4⟩, ⟨11, some 0, some 4⟩]
      ∧ (run (.inputLinkLost 0) { receivingNoticed with inputs := receivingNoticed.inputs.set 0 ⟨.training, .none⟩ }).notices = [] := by
  decide +kernel

theorem witness_FrameOpenTakesSlot : ((live idle).inputs.get 3).link = .locked ∧ ((live idle).inputs.get 3).progress = .none
    ∧ ((run (.frameOpen 3 (frameOpenBytes ⟨9, 16, 8⟩)) (live idle)).inputs.get 3).progress = .receiving 0 9
    ∧ ((run (.frameOpen 3 (frameOpenBytes ⟨9, 15, 8⟩)) (live idle)).inputs.get 3).progress = .ignoring := by decide +kernel

/-- R78, R79: a frame in progress is truncated and its slot taken; without an EMPTY slot the oldest READY slot that is not
reserved gives way with FRAME_DROP. -/
theorem witness_FrameOpenTakesSlot_taken :
    let s := withSlots (live idle) (slotOf .ready 4) (slotOf .ready 3) { slotOf .ready 2 with reserved := true }
    receiving.inputs.get 0 = ⟨.locked, .receiving 1 3⟩
      ∧ ((run (.frameOpen 0 (frameOpenBytes ⟨9, 16, 8⟩)) receiving).rings.get 0).slots.s1 = slotOf .filling 9
      ∧ ((run (.frameOpen 0 (frameOpenBytes ⟨9, 16, 8⟩)) receiving).rings.get 0).reject = .truncated
      ∧ ((run (.frameOpen 0 (frameOpenBytes ⟨9, 15, 8⟩)) receiving).rings.get 0).slots.s1.state = .empty
      ∧ olderSlot (s.rings.get 0).slots 1 0 = true
      ∧ ((run (.frameOpen 0 (frameOpenBytes ⟨9, 16, 8⟩)) s).rings.get 0).slots.s1 = slotOf .filling 9
      ∧ (run (.frameOpen 0 (frameOpenBytes ⟨9, 16, 8⟩)) s).latches = BitVec.twoPow 45 (Cond.frameDrop 0) := by decide +kernel

theorem witness_LineIsRecorded : receiving.hasChannel 0 = true ∧ receiving.inputs.get 0 = ⟨.locked, .receiving 1 3⟩
    ∧ ((run (.line 0 (lineBytes ⟨7, List.replicate 64 1, 0⟩)) receiving).rings.get 0).slots.s1.damaged = 1
    ∧ ((run (.line 0 (lineBytes ⟨8, List.replicate 64 1, 0⟩)) receiving).rings.get 0).slots.s1.lines = [] := by decide +kernel

/-- R81: 8 missing lines are above the damage limit 4; with a limit of 8 the frame is READY. -/
theorem witness_FrameCloseJudgesFrame : receiving.inputs.get 0 = ⟨.locked, .receiving 1 3⟩
    ∧ ((run (.frameClose 0 (frameCloseBytes 3)) receiving).rings.get 0).reject = .damaged
    ∧ ((run (.frameClose 0 (frameCloseBytes 4)) receiving).rings.get 0).reject = .truncated
    ∧ ((run (.frameClose 0 (frameCloseBytes 3)) { receiving with settings := { receiving.settings with damageLimit := 8 } }).rings.get
        0).slots.s1.state = .ready := by decide +kernel

/-- R83: the earlier READY copy of the frame is emptied with FRAME_DROP, and its reserved mark passes on. -/
theorem witness_FrameCloseJudgesFrame_copy :
    let r := (live idle).rings.get 0
    let s : State :=
      { live idle with
        rings := (live idle).rings.set 0 { r with slots := ⟨{ slotOf .ready 3 with reserved := true }, slotOf .filling 3, slotOf .shown 2⟩ }
        inputs := (live idle).inputs.set 0 ⟨.locked, .receiving 1 3⟩
        settings := { idle.settings with damageLimit := 8 } }
    s.slotsSound = true ∧ s.inputs.get 0 = ⟨.locked, .receiving 1 3⟩
      ∧ ((run (.frameClose 0 (frameCloseBytes 3)) s).rings.get 0).slots.s1 = { slotOf .ready 3 with reserved := true }
      ∧ ((run (.frameClose 0 (frameCloseBytes 3)) s).rings.get 0).slots.s0 = slotOf .empty 3
      ∧ (run (.frameClose 0 (frameCloseBytes 3)) s).latches = BitVec.twoPow 45 (Cond.frameDrop 0) := by decide +kernel

theorem witness_CellJoinsQueueOrDrops : ((live idle).inputs.get 2).link = .locked
    ∧ (run (.cell 2 (cellBytes ⟨5, 1, []⟩)) (live idle)).cells = [⟨2, 5, 1, [], false⟩]
    ∧ (run (.cell 2 (cellBytes ⟨5, 1, []⟩)) { live idle with cells := List.replicate 32 (cellOf 1 []) }).latches = 2
    ∧ parseCell [0x14] = none ∧ (run (.cell 2 [0x14]) (live idle)).latches = 2 := by decide +kernel

/-- A part that enables every condition, with a notice of PRESENCE_CHANGED waiting and frame 9 shown on channel 3. -/
def noticing : State :=
  { live idle with
    settings := { idle.settings with noticeEnable := BitVec.allOnes 45 }
    notices := [⟨5, none, none⟩]
    coh := { idle.coh with shown := some 8, channelShown := idle.coh.channelShown.set 3 (some 9) } }

/-- R183 to R185: CELL_DROP queues before number 5 with the part's shown number, a rejected frame behind it with the
channel's; a condition latched before queues nothing. -/
theorem witness_notices_of_drops_and_rejects : noticing.latches.getLsbD Cond.cellDrop = false
    ∧ noticing.enabled Cond.cellDrop = true
    ∧ (run (.cell 2 [0x14]) noticing).notices = [⟨1, none, some 8⟩, ⟨5, none, none⟩]
    ∧ (run (.frameOpen 3 (frameOpenBytes ⟨9, 15, 8⟩)) noticing).notices = [⟨5, none, none⟩, ⟨38, some 3, some 9⟩]
    ∧ (run (.cell 2 [0x14]) { noticing with latches := 2 }).notices = [⟨5, none, none⟩] := by decide +kernel

/-! ### The management engine -/

theorem witness_ServedCellGivesOneReply :
    (withCell idle 0x7F [1]).resetWait = none ∧ (withCell idle 0x7F [1]).cells = [cellOf 0x7F [1]]
      ∧ servesCell .badCommand (cellOf 0x7F [1]) = true
      ∧ reply (run .badCommand (withCell idle 0x7F [1])) = some (.reply 7 .badCommand [] false)
      ∧ (run .badCommand { idle with cells := [⟨0, 7, 0x7F, [], true⟩] }).lanes = idle.lanes := by decide +kernel

/-- Sixteen entries in link 0's reply queue. -/
def fullQueue : State := withCell { idle with lanes := idle.lanes.set 0 ⟨List.replicate 16 (.completion 1 .ok), none, []⟩ } 0x01 []

theorem witness_FullReplyQueueHaltsServing : fullQueue.cells = [cellOf 0x01 []] ∧ servesCell .identify (cellOf 0x01 []) = true
    ∧ (fullQueue.lanes.get 0).replies.length = 16 ∧ run .identify fullQueue = fullQueue := by decide +kernel

theorem witness_IdentifyReply : (withCell idle 0x01 []).served (cellOf 0x01 []) [] ∧ (cellOf 0x01 []).carries .identify = true
    ∧ reply (run .identify (withCell idle 0x01 [])) = some (.reply 7 .ok State.reset.straps.identity false) :=
  ⟨⟨rfl, rfl, rfl, by decide⟩, by decide, by decide +kernel⟩

theorem witness_StatusReplyLayout : (withCell idle 0x02 []).served (cellOf 0x02 []) [] ∧ (cellOf 0x02 []).carries .status = true
    ∧ (withCell idle 0x02 []).swapKeys.length ≤ 25 ∧ idle.statusRecord.length = 207 :=
  ⟨⟨rfl, rfl, rfl, by decide⟩, by decide, by decide +kernel, by decide +kernel⟩

/-- R160: damage_limit is identifier 9; 256 is stored as 255 and answered CLAMPED. -/
theorem witness_SetStoresAndGetReturns :
    let sent := oneByte 9 ++ oneByte 0 ++ toLe 8 256
    (withCell idle 0x03 sent).served (cellOf 0x03 sent) [] ∧ (cellOf 0x03 sent).carries .set = true
      ∧ (withCell idle 0x03 sent).settingsSound = true ∧ SettingId.damageLimit.code = 9
      ∧ reply (run .set (withCell idle 0x03 sent)) = some (.reply 7 .clamped (oneByte 9 ++ oneByte 0 ++ toLe 8 255) false)
      ∧ reply (run .get (withCell idle 0x04 (oneByte 9 ++ oneByte 0)))
          = some (.reply 7 .ok (oneByte 9 ++ oneByte 0 ++ toLe 8 4) false) :=
  ⟨⟨rfl, rfl, rfl, by decide⟩, by decide, by decide +kernel, by decide, by decide +kernel, by decide +kernel⟩

/-- R183: an enable granted queues the notice of a condition that is pending, one removed withdraws the notice that waits. -/
theorem witness_SetStoresAndGetReturns_enables :
    let s : State := { idle with latches := 2, notices := [⟨5, none, none⟩], settings := { idle.settings with noticeEnable := 32 } }
    noticesRiseFrom 0 s.notices = true ∧ SettingId.noticeEnable.code = 0x13
      ∧ (run .set (withCell s 0x03 (oneByte 0x13 ++ oneByte 0 ++ toLe 8 6))).notices = [⟨1, none, none⟩] := by decide +kernel

/-- R125: a raster width of 1001 is brought down to 992; R158: a channel that the arrangement lacks is refused. -/
theorem test_set_raster_width_and_absent_channel :
    reply (run .set (withCell idle 0x03 (oneByte 1 ++ oneByte 0 ++ toLe 8 1001)))
        = some (.reply 7 .clamped (oneByte 1 ++ oneByte 0 ++ toLe 8 992) false)
      ∧ reply (run .get (withCell { idle with straps := { idle.straps with arrangement := .c } } 0x04 (oneByte 15 ++ oneByte 1)))
        = some (.reply 7 .unavailable [] false) := by decide +kernel

/-- R160: a flat level above 1023 is stored as 1023; each code keeps its own 16 bits. -/
theorem test_flat_level_clamped : SettingId.legal .a Settings.reset .flatLevel (5 + 65536 * 1024 + 4294967296 * 700)
    = 5 + 65536 * 1023 + 4294967296 * 700 := by decide

theorem witness_ClearClearsNamedEvents :
    let s := withCell { idle with latches := 6 } 0x05 [2, 0, 0, 0, 0, 0]
    s.served (cellOf 0x05 [2, 0, 0, 0, 0, 0]) [] ∧ (cellOf 0x05 [2, 0, 0, 0, 0, 0]).carries .clear = true
      ∧ (run .clear s).latches = 4 :=
  ⟨⟨rfl, rfl, rfl, by decide⟩, by decide, by decide +kernel⟩

theorem witness_FaultReadRemovesOldest :
    let s := withCell { idle with faults := [imageCheckFault], overflow := true } 0x06 []
    s.served (cellOf 0x06 []) [] ∧ (cellOf 0x06 []).carries .faultRead = true
      ∧ (run .faultRead s).faults = [] ∧ (run .faultRead s).overflow = false
      ∧ reply (run .faultRead (withCell idle 0x06 [])) = some (.reply 7 .ok [0, 0] false)
      ∧ (run .faultRead (withCell { idle with faults := [imageCheckFault, flashWriteFault] } 0x06 [])).faults = [flashWriteFault] :=
  ⟨⟨rfl, rfl, rfl, by decide⟩, by decide, by decide +kernel, by decide +kernel, by decide +kernel, by decide +kernel⟩

theorem witness_RestartOutputSettles :
    let s := withCell (withPort idle .active .locked none) 0x07 [0]
    s.served (cellOf 0x07 [0]) [] ∧ (cellOf 0x07 [0]).carries .restartOutput = true ∧ (cellOf 0x07 [0]).payload = oneByte (0 : Channel)
      ∧ ((run .restartOutput s).outputs.get 0).expires = some 20000000
      ∧ reply (run .restartOutput (withCell idle 0x07 [0])) = some (.reply 7 .state [] false)
      ∧ reply (run .restartOutput (withCell { idle with straps := { idle.straps with arrangement := .c } } 0x07 [1]))
          = some (.reply 7 .unavailable [] false) :=
  ⟨⟨rfl, rfl, rfl, by decide⟩, by decide, by decide, by decide +kernel, by decide +kernel, by decide +kernel⟩

/-! ### The table store -/

/-- An OPEN of the LOSSMAP. -/
def openMap : Bytes := Key.bytes .lossmap ++ oneByte 0 ++ toLe 2 0 ++ toLe 2 0

theorem witness_OpenCreatesFilling :
    (withCell idle 0x10 openMap).served (cellOf 0x10 openMap) [] ∧ (cellOf 0x10 openMap).carries .tableOpen = true
      ∧ idle.keyAbsent .lossmap = false ∧ Key.dimsLegal .lossmap ⟨0, 0, 0⟩ = true
      ∧ findTable idle.tables.directory .lossmap .staged = none ∧ pageUsed idle.tables.directory 64 = false
      ∧ (run .tableOpen (withCell idle 0x10 openMap)).tables.directory = [(0, mapRecord .filling)] :=
  ⟨⟨rfl, rfl, rfl, by decide⟩, by decide, by decide, by decide, by decide, by decide, by decide +kernel⟩

/-- R56, R57: an OPEN is accepted while the completion of an ended fill still waits for room. -/
theorem test_open_while_a_completion_waits :
    reply (run .tableOpen (withCell { idle with tables := { idle.tables with fillDue := [⟨1, 6, .ok⟩] } } 0x10 openMap))
      = some (.reply 7 .accepted [] false) := by decide +kernel

theorem witness_FillPageWritesDefaults :
    let s := { withMap idle .filling with tables := { (withMap idle .filling).tables with fill := some ⟨0, 0, 7, 0⟩ } }
    s.tables.fill = some ⟨0, 0, 7, 0⟩ ∧ Assoc.find s.tables.directory 0 = some (mapRecord .filling)
      ∧ (run .defaultFillPageDone (live s)).tables.directory = [(0, mapRecord .open)]
      ∧ (run .defaultFillPageDone (live s)).tables.fillDue = [⟨0, 7, .ok⟩] := by decide +kernel

/-- A FULL write of LOSSMAP entry 15 with a set choice of 4, which is stored as 3 (R52). -/
def writeMap : Bytes := Key.bytes .lossmap ++ [0, 0] ++ toLe 4 15 ++ toLe 2 1 ++ [0x20, 0, 0, 0, 4, 0, 1, 2]

theorem witness_WriteStoresEntries :
    (withCell (withMap idle .open) 0x11 writeMap).served (cellOf 0x11 writeMap) []
      ∧ (cellOf 0x11 writeMap).carries .tableWrite = true
      ∧ findTable (withMap idle .open).tables.directory .lossmap .staged = some (0, mapRecord .open)
      ∧ (mapRecord .open).entryCount = 16
      ∧ (run .tableWrite (withCell (withMap idle .open) 0x11 writeMap)).tables.directory
          = [(0, { mapRecord .open with contents := [(15, .rule 0x20 ⟨3, 0, 1, 2⟩)] })]
      ∧ reply (run .tableWrite (withCell (withMap idle .open) 0x11 writeMap)) = some (.reply 7 .clamped [] false) :=
  ⟨⟨rfl, rfl, rfl, by decide⟩, by decide, by decide, by decide, by decide +kernel, by decide +kernel⟩

/-- A FIELD write of the MASK of LOSSMAP entry 15. -/
def writeMask : Bytes := Key.bytes .lossmap ++ [1, 0] ++ toLe 4 15 ++ toLe 2 1 ++ [0x20, 0, 0, 0]

theorem witness_WriteStoresEntries_field :
    (withCell (withMap idle .open) 0x11 writeMask).served (cellOf 0x11 writeMask) []
      ∧ Key.fieldOf .lossmap 0 = some .mask
      ∧ (run .tableWrite (withCell (withMap idle .open) 0x11 writeMask)).tables.directory
          = [(0, { mapRecord .open with contents := [(15, .rule 0x20 ⟨0, 0, 0, 0⟩)] })]
      ∧ reply (run .tableWrite (withCell (withMap idle .open) 0x11 writeMask)) = some (.reply 7 .ok [] false) :=
  ⟨⟨rfl, rfl, rfl, by decide⟩, by decide, by decide +kernel, by decide +kernel⟩

/-- A FULL read of LOSSMAP entry 15 of the LIVE bank. -/
def readMap : Bytes := Key.bytes .lossmap ++ [0, 0, 0] ++ toLe 4 15 ++ toLe 2 1

theorem witness_ReadReturnsEntries :
    (withCell (withMap idle .live) 0x12 readMap).served (cellOf 0x12 readMap) []
      ∧ (cellOf 0x12 readMap).carries .tableRead = true
      ∧ findTable (withMap idle .live).tables.directory .lossmap .live = some (0, mapRecord .live)
      ∧ reply (run (.tableRead []) (withCell (withMap idle .live) 0x12 readMap))
          = some (.reply 7 .ok [0, 0, 0, 0, 0, 0, 0, 0] false)
      ∧ (run (.tableRead [.pool 0 15]) (withCell (withMap idle .live) 0x12 readMap)).faults
          = [⟨.poolParity, none, none, .page 64⟩] :=
  ⟨⟨rfl, rfl, rfl, by decide⟩, by decide, by decide, by decide +kernel, by decide +kernel⟩

/-- A FIELD read of the set choices of LOSSMAP entry 15 of the LIVE bank. -/
def readSets : Bytes := Key.bytes .lossmap ++ [0, 1, 1] ++ toLe 4 15 ++ toLe 2 1

theorem witness_ReadReturnsEntries_field :
    (withCell (withMap idle .live) 0x12 readSets).served (cellOf 0x12 readSets) []
      ∧ Key.fieldOf .lossmap 1 = some .sets
      ∧ reply (run (.tableRead []) (withCell (withMap idle .live) 0x12 readSets)) = some (.reply 7 .ok [0, 0, 0, 0] false) :=
  ⟨⟨rfl, rfl, rfl, by decide⟩, by decide, by decide +kernel⟩

theorem witness_SealAndDropActOnState :
    (withCell (withMap idle .open) 0x13 (Key.bytes .lossmap)).served (cellOf 0x13 (Key.bytes .lossmap)) []
      ∧ (cellOf 0x13 (Key.bytes .lossmap)).carries .tableSeal = true
      ∧ (run .tableSeal (withCell (withMap idle .open) 0x13 (Key.bytes .lossmap))).tables.directory = [(0, mapRecord .sealed)]
      ∧ (run .tableDropStaged (withCell (withMap idle .sealed) 0x14 (Key.bytes .lossmap ++ [1]))).tables.directory = []
      ∧ (run .tableDropLive (withCell (withMap idle .live) 0x14 (Key.bytes .lossmap ++ [0]))).tables.directory
          = [(0, { mapRecord .live with dropMark := true })] :=
  ⟨⟨rfl, rfl, rfl, by decide⟩, by decide, by decide +kernel, by decide +kernel, by decide +kernel⟩

/-- A swap of the LOSSMAP with no target. -/
def swapMap : Bytes := [0] ++ toLe 2 0 ++ oneByte 1 ++ Key.bytes .lossmap

theorem witness_SwapLocksSealed :
    (withCell (withMap idle .sealed) 0x15 swapMap).served (cellOf 0x15 swapMap) []
      ∧ (cellOf 0x15 swapMap).carries .tableSwap = true ∧ keyTwice [Key.lossmap] = false
      ∧ sealedKey (withMap idle .sealed).tables.directory .lossmap = true
      ∧ (run .tableSwap (withCell (withMap idle .sealed) 0x15 swapMap)).tables.swap = some ⟨[.lossmap], none, false⟩ :=
  ⟨⟨rfl, rfl, rfl, by decide⟩, by decide, by decide, by decide, by decide +kernel⟩

/-- R65: ALL_SEALED takes every SEALED key, and is refused where there is none. -/
theorem witness_SwapLocksSealed_all :
    (run .tableSwap (withCell (withMap idle .sealed) 0x15 [3, 9, 0, 0])).tables.swap = some ⟨[.lossmap], some 9, false⟩
      ∧ (withMap idle .sealed).tables.swap = none
      ∧ reply (run .tableSwap (withCell (withMap idle .live) 0x15 [2, 0, 0, 0])) = some (.reply 7 .state [] false) := by
  decide +kernel

theorem witness_ListReportsDirectory :
    (withCell (withMap idle .live) 0x16 [0]).served (cellOf 0x16 [0]) [] ∧ (cellOf 0x16 [0]).carries .tableList = true
      ∧ (withMap idle .live).tables.directory.length ≤ 64 ∧ (withMap idle .live).loader.starting = false
      ∧ ((withMap idle .live).tables.list .a 0 0).length = 109 :=
  ⟨⟨rfl, rfl, rfl, by decide⟩, by decide, by decide, by decide, by decide +kernel⟩

/-- R178: the summary and the record of one SEALED LOSSMAP that a deferred swap names. -/
theorem witness_ListReportsDirectory_fields :
    let s : State := { withMap idle .sealed with tables := { (withMap idle .sealed).tables with swap := some ⟨[.lossmap], some 9, true⟩ } }
    let p := s.tables.list .a 0 0
    field p 4 2 = 447 ∧ field p 6 2 = 65 ∧ slice p 11 3 = [0xFF, 0xFF, 0xFF] ∧ slice p 14 7 = [7, 9, 0, 1, 3, 0xFF, 0xFF]
      ∧ slice p 93 16 = [0, 3, 0xFF, 0xFF, 1, 2, 0, 0, 64, 0, 1, 0, 0, 0, 0, 0] := by decide +kernel

theorem witness_CompletionTakesFreeEntry :
    let s : State := { live idle with tables := { idle.tables with fillDue := [⟨1, 6, .ok⟩, ⟨0, 7, .ok⟩] } }
    s.tables.fillDue[1]? = some ⟨0, 7, .ok⟩ ∧ reply (run (.completionEnqueue (.fill 1)) s) = some (.completion 7 .ok)
      ∧ (run (.completionEnqueue (.fill 1)) s).tables.fillDue = [⟨1, 6, .ok⟩]
      ∧ (run (.completionEnqueue .image) { live idle with loader := ⟨none, some ⟨0, 7, .failed⟩, .bad⟩ }).loader.due = none := by
  decide +kernel

/-- The LOSSMAP sealed and locked by an untargeted swap. -/
def swapping : State :=
  { idle with tables := { idle.tables with
      directory := [(0, { mapRecord .live with firstPage := 65 }), (1, { mapRecord .sealed with locked := true })],
      swap := some ⟨[.lossmap], none, false⟩ } }

theorem witness_SwapPromotesAtFrameStart : swapping.straps.role ≠ .follower ∧ swapping.loader.storing = false
    ∧ swapping.directorySound = true ∧ (run (.frameStart []) swapping).tables.directory = [(1, mapRecord .live)] := by
  decide +kernel

/-- The swap with another record, on a part whose shown number is 5. -/
def swappingTo (w : PendingSwap) (mode : CoherenceMode) : State :=
  { swapping with tables := { swapping.tables with swap := some w }, coh := { swapping.coh with mode := mode, shown := some 5 } }

/-- R66, R67: a target reached is due, one not reached waits, LOOSE makes it due with SWAP_LATE, and so does the deferred
mark; during a STORE a due swap is deferred; a follower's frame starts do the same. -/
theorem witness_SwapPromotesAtFrameStart_targets :
    (swappingTo ⟨[.lossmap], some 6, false⟩ .coherent).directorySound = true
      ∧ (run (.frameStart []) (swappingTo ⟨[.lossmap], some 5, false⟩ .coherent)).tables.directory = [(1, mapRecord .live)]
      ∧ (run (.frameStart []) (swappingTo ⟨[.lossmap], some 6, false⟩ .coherent)).tables.swap = some ⟨[.lossmap], some 6, false⟩
      ∧ (run (.frameStart []) (swappingTo ⟨[.lossmap], some 6, false⟩ .loose)).latches.getLsbD Cond.swapLate = true
      ∧ (run (.frameStart []) (swappingTo ⟨[.lossmap], none, true⟩ .coherent)).latches.getLsbD Cond.swapLate = true
      ∧ (run (.syncPulse []) (asRole (swappingTo ⟨[.lossmap], some 5, false⟩ .coherent) .follower)).tables.swap = none := by
  decide +kernel

theorem witness_SwapPromotesAtFrameStart_storing :
    let s := withOp (swappingTo ⟨[.lossmap], some 5, false⟩ .coherent) (.store 0 7 .p1 Settings.reset [])
    s.loader.storing = true ∧ (run (.frameStart []) s).tables.swap = some ⟨[.lossmap], some 5, true⟩
      ∧ (run (.frameStart []) s).tables.directory = s.tables.directory := by decide +kernel

/-! ### The calibration image -/

theorem witness_StoreAndLoadBegin :
    (withCell (withMap idle .live) 0x20 []).served (cellOf 0x20 []) [] ∧ (cellOf 0x20 []).carries .store = true
      ∧ (withMap idle .live).directorySound = true
      ∧ (run .store (withCell (withMap idle .live) 0x20 [])).loader = ⟨some (.store 0 7 .p1 Settings.reset [0]), none, .bad⟩
      ∧ reply (run .load (withCell idle 0x21 [])) = some (.reply 7 .noTable [] false)
      ∧ (run .load (withCell { idle with loader := ⟨none, none, .bad⟩ } 0x21 [])).faults = [imageCheckFault] :=
  ⟨⟨rfl, rfl, rfl, by decide⟩, by decide, by decide +kernel, by decide +kernel, by decide +kernel, by decide +kernel⟩

/-- A flash that holds an image of no settings and no tables: its CRC-32 is that of the empty body. -/
def emptyImage : Assoc Byte := Memory.writeBytes [] 0 [0xC4, 0x12, 0xDA, 0x7E, 0, 0, 0, 0, 0, 0, 0, 0, 0, 0]

/-- R200: a LOAD with nothing to load, and one while an operation runs. -/
theorem witness_load_of_a_good_image :
    let s : State := { idle with flash := emptyImage, loader := ⟨none, none, .good⟩ }
    s.loader.image = .good ∧ imageTables s.flash = some []
      ∧ (run .load (withCell s 0x21 [])).loader = ⟨some (.load 0 7 []), none, .good⟩
      ∧ reply (run .load (withCell { s with loader := ⟨some (.load 0 7 []), none, .good⟩ } 0x21 [])) = some (.reply 7 .busy [] false) := by
  decide +kernel

/-- R200: the LOSSMAP of the image is allocated record 0 and page 64; STATE where it is staged, NO_SPACE where one instance
holds every table page, and BAD where the form read is not correct. -/
theorem witness_load_of_a_table :
    let s : State := { idle with flash := loadingMap.flash, loader := ⟨none, none, .good⟩ }
    let full : TableRecord := { mapRecord .live with pageCount := 448 }
    imageTables s.flash = some [⟨.lossmap, none, 16⟩]
      ∧ (run .load (withCell s 0x21 [])).tables.directory = Assoc.insert s.tables.directory 0 (mapRecord .filling)
      ∧ (run .load (withCell s 0x21 [])).loader.op = some (.load 0 7 [(0, 16)])
      ∧ reply (run .load (withCell (withMap s .open) 0x21 [])) = some (.reply 7 .state [] false)
      ∧ reply (run .load (withCell { s with tables := { s.tables with directory := [(0, full)] } } 0x21 []))
          = some (.reply 7 .noSpace [] false)
      ∧ (run .load (withCell { s with flash := [] } 0x21 [])).loader.image = .bad := by decide +kernel

theorem witness_StorePhasesEndGood :
    let s (p : StorePhase) : State := withOp (live idle) (.store 0 7 p Settings.reset [])
    (s .p1).loader.op = some (.store 0 7 .p1 Settings.reset [])
      ∧ (run (.storePhaseDone []) (s .p1)).flash = [(0, 0xC4), (1, 0x12), (2, 0xDA), (3, 0x7E)]
      ∧ (run (.storePhaseDone []) (s .p2)).loader.op = some (.store 0 7 .p3 Settings.reset [])
      ∧ (run (.storePhaseDone []) (s .p3)).loader.op = some (.store 0 7 .p4 Settings.reset [])
      ∧ imageLength Settings.reset (recordsIn (s .p4).tables.directory []) = 320
      ∧ (run (.storePhaseDone []) (s .p4)).loader = ⟨none, some ⟨0, 7, .ok⟩, .good⟩
      ∧ (run (.flashWriteFailed 3) (s .p1)).loader = ⟨none, some ⟨0, 7, .failed⟩, .bad⟩ := by decide +kernel

/-- R197: phase 3 programs the LOSSMAP's sixteen rules behind the 336 bytes of records; phase 2 leaves the header sector. -/
theorem witness_StorePhasesEndGood_tables :
    let r : TableRecord := { mapRecord .live with contents := [(15, .rule 7 ⟨3, 0, 1, 2⟩)] }
    let s (p : StorePhase) : State :=
      { withOp idle (.store 0 7 p Settings.reset [0]) with
        tables := { idle.tables with directory := [(0, r)] }, flash := [(3, 0x7E), (65536, 1)] }
    (s .p3).directorySound = true ∧ recordsIn (s .p3).tables.directory [0] = [] ++ r :: []
      ∧ Memory.readBytes (run (.storePhaseDone []) (s .p3)).flash (14 + 336 + 15 * 8) 8 = [7, 0, 0, 0, 3, 0, 1, 2]
      ∧ (run (.storePhaseDone []) (s .p2)).flash = [(3, 0x7E), (65536, 1)] := by decide +kernel

/-- A STORE in phase 3 of a LOSSMAP whose entry 2 fails. -/
def storingBad : State :=
  { withOp idle (.store 0 7 .p3 Settings.reset [0]) with
    tables := { idle.tables with directory := [(0, { mapRecord .live with bad := [2] })] } }

/-- R188, R198: a failed operation is recorded behind the records of what had been read; a full log only overflows. -/
theorem witness_StorePhasesEndGood_fault : (run (.flashWriteFailed 0) storingBad).faults = [flashWriteFault] := by decide +kernel

theorem witness_StorePhasesEndGood_full_log :
    (run (.flashWriteFailed 0) { storingBad with faults := List.replicate 8 imageCheckFault }).overflow = true := by decide +kernel

theorem witness_StorePhasesEndGood_pool_faults :
    (run (.flashWriteFailed 360) storingBad).faults = [⟨.poolParity, none, none, .page 64⟩, flashWriteFault] := by decide +kernel

/-- R197: 16 settings of the part and 4 of each of 4 channels. -/
theorem test_settings_records : (storeSettings Settings.reset).length = 32 := by decide

theorem witness_LoadReadSealsOrRemoves :
    let s (flash : Assoc Byte) : State := { withOp (live (withMap idle .filling)) (.load 0 7 [(0, 0)]) with flash := flash }
    (s emptyImage).loader.op = some (.load 0 7 [(0, 0)]) ∧ ([(0, 0)].map (·.1) : List Nat).Nodup
      ∧ crcCorrect emptyImage = true ∧ Assoc.find (s emptyImage).tables.directory 0 = some (mapRecord .filling)
      ∧ ((Assoc.find (run .loadReadDone (s emptyImage)).tables.directory 0).map fun r => r.state) = some .sealed
      ∧ crcCorrect (Memory.writeBytes emptyImage 8 [1]) = false
      ∧ (run .loadReadDone (s (Memory.writeBytes emptyImage 8 [1]))).tables.directory = [] := by decide +kernel

/-! ### Reverse lanes -/

/-- One reply waits on link 0. -/
def oneReply : State := { live idle with lanes := idle.lanes.set 0 ⟨[.completion 7 .ok], none, []⟩ }

theorem witness_ReverseLaneSendsInOrder : (oneReply.inputs.get 0).link = .locked ∧ (oneReply.lanes.get 0).sending = none
    ∧ ((run (.reverseLaneSend 0) oneReply).lanes.get 0).replies = []
    ∧ (run (.reverseLaneSend 0) { oneReply with notices := [⟨1, none, none⟩] }).notices = []
    ∧ ((run (.reverseSendEnd 0) (run (.reverseLaneSend 0) oneReply)).lanes.get 0).sending = none := by decide +kernel

/-! ### The raster timer -/

theorem witness_FrameStartsBeginFrame : idle.straps.role ≠ .follower ∧ (asRole idle .follower).straps.role = .follower
    ∧ (run (.frameStart []) idle).timer.musterLine = 1135
    ∧ (run (.syncPulse []) (asRole idle .follower)).coh.ownStarts = 0
    ∧ (run (.ownStart []) (asRole idle .follower)).now = 1875037 := by decide +kernel

/-- R140, R142, R144: on a solo part the twelfth frame start that finds an output down clears its bit in the vector. -/
theorem witness_FrameStartsBeginFrame_loss :
    let s : State := { idle with loss := { idle.loss with count := Quad.all 11 } }
    (s.outputs.get 2).state.up = false ∧ (run (.frameStart []) s).loss.confirmed.get 2 = false
      ∧ (run (.frameStart []) s).loss.applied = 0xFFFFFFF0
      ∧ (run (.frameStart []) s).latches.getLsbD Cond.presenceChanged = true
      ∧ (run (.frameStart []) s).tables.unfit.get 2 = true ∧ (run (.frameStart []) s).lights.get 2
          = ⟨some ⟨.video, none, none, matrixOf none, true, ⟨512, 512, 512⟩, none⟩, .noLines, [], [], none⟩ := by decide +kernel

/-- R22: with no slot SHOWN a frame start gives up the VALID tile and cancels the one being read. -/
theorem witness_FrameStartsBeginFrame_purge :
    let w : WarpUnit := ⟨[(0, .valid ⟨0, 0, 0⟩ 0 [] false false), (1, .filling ⟨0, 1, 0⟩ 1 9 false false)], 2, [], true, none, none⟩
    w.cacheSound = true ∧ ((run (.frameStart []) { idle with warps := idle.warps.set 0 w }).warps.get 0).cache
      = [(1, .filling ⟨0, 1, 0⟩ 1 9 true false)] := by decide +kernel

/-- SHOW 5 pending, with frame 5 READY on every channel. -/
def showing : State :=
  let s := withSlots (live idle) (slotOf .shown 4) (slotOf .ready 5) (slotOf .empty 0)
  { s with coh := { s.coh with pending := some ⟨.show 5, none⟩ } }

theorem witness_FrameStartShowsNamedFrame : showing.slotsSound = true ∧ showing.active 2 = true
    ∧ (run (.frameStart []) showing).coh.shown = some 5
    ∧ ((run (.frameStart []) showing).rings.get 2).shownFrame = some 5 := by decide +kernel

/-- R90: SHOW 6 held by no channel keeps frame 4 and raises FRAME_HELD; frame 5 is newer and stays READY. -/
theorem test_frame_held :
    let s := { showing with coh := { showing.coh with pending := some ⟨.show 6, none⟩ } }
    ((run (.frameStart []) s).rings.get 1).shownFrame = some 4
      ∧ (run (.frameStart []) s).latches.getLsbD (Cond.frameHeld 1) = true := by decide +kernel

/-- R89, R90: LOOSE shows the newest READY frame, and the READY frame older than it is dropped. -/
theorem witness_FrameStartShowsNamedFrame_loose :
    let s := withSlots showing (slotOf .shown 9) (slotOf .ready 5) (slotOf .ready 6)
    let t := run (.frameStart []) { s with coh := { s.coh with pending := some ⟨.loose, none⟩ } }
    s.slotsSound = true ∧ (t.rings.get 1).shownFrame = some 6 ∧ t.coh.mode = .loose
      ∧ (t.rings.get 1).slots.s1.state = .empty ∧ t.latches.getLsbD (Cond.frameDrop 1) = true := by decide +kernel

/-- R89, R91: REPEAT keeps the frame SHOWN; an inactive channel under BLACK gives it up. -/
theorem witness_FrameStartShowsNamedFrame_policies :
    let s : State := { showing with
      coh := { showing.coh with pending := some ⟨.repeat, none⟩ }
      settings := { showing.settings with channelEnable := 1, inactivePolicy := Quad.all .black } }
    s.active 0 = true ∧ s.active 1 = false ∧ ((run (.frameStart []) s).rings.get 0).shownFrame = some 4
      ∧ ((run (.frameStart []) s).rings.get 1).shownFrame = none := by decide +kernel

/-- R108: the third miss of a follower sets RING_LOST and LOOSE; a SHOW taken ends the misses. -/
theorem witness_FrameStartShowsNamedFrame_misses :
    let c : Coherence := { showing.coh with pending := none, musterMark := true, missCount := 2 }
    let s : State := { asRole showing .follower with coh := c }
    s.slotsSound = true ∧ (run (.syncPulse []) s).coh.ringLost = true ∧ (run (.ownStart []) s).coh.mode = .loose
      ∧ (run (.syncPulse []) { s with coh := { c with pending := some ⟨.show 5, some 0⟩ } }).coh.missCount = 0 := by decide +kernel

/-- A frame of two columns and 480 lines, its channel 0 ACTIVE with a walked frame and column 1 of line 0 written. -/
def narrow : State :=
  let s := withPort idle .active .locked none
  { s with
    timer := { s.timer with width := 2, height := 480, phase := .activeLines 0 }
    lights := s.lights.set 0 ⟨none, .walked, [], [⟨0, [(1, ⟨9, 9, 9⟩)]⟩], none⟩ }

theorem witness_DeadlineHandsLine : narrow.timer.phase = .activeLines 0
    ∧ ((run .lineDeadline narrow).outputs.get 0).lane = [.line 0 [Pixel.zero, ⟨9, 9, 9⟩]]
    ∧ (run .lineDeadline narrow).latches.getLsbD (Cond.sourceLate 0) = true
    ∧ ((run .lineDeadline narrow).outputs.get 1).lane = [] := by decide +kernel

/-- Frame 5 READY on every channel, the deadline of the muster line to come. -/
def atMuster (r : Role) : State :=
  { asRole showing r with
    timer := { idle.timer with height := 480, musterLine := 415, phase := .activeLines 415 }
    coh := { Coherence.reset with ringLost := decide (r = .follower) } }

/-- R101, R109, R110: the muster point of each role. -/
theorem witness_DeadlineHandsLine_muster : (atMuster .master).timer.phase = .activeLines 415
    ∧ (run .lineDeadline (atMuster .solo)).coh.pending = some ⟨.show 5, none⟩
    ∧ (run .lineDeadline (atMuster .master)).coh.round = some ⟨1, some 5⟩
    ∧ (run .lineDeadline (atMuster .master)).ringOut = [musterBytes ⟨1, 7, 5, 5, 0, 0xFFFFFFFF⟩]
    ∧ ((run .lineDeadline (atMuster .master)).rings.get 3).slots.s1.reserved = true
    ∧ (run .lineDeadline (atMuster .follower)).coh.pending = some ⟨.loose, none⟩
    ∧ (run .lineDeadline (atMuster .follower)).coh.musterMark = true := by decide +kernel

/-- R104: a master's round still open at the frame end closes as not ready. -/
theorem witness_DeadlineHandsLine_frame_end :
    let s : State := { atMuster .master with
      timer := { (atMuster .master).timer with phase := .activeLines 479 }
      coh := { Coherence.reset with round := some ⟨3, none⟩ } }
    (run .lineDeadline s).coh.round = none ∧ (run .lineDeadline s).coh.pending = some ⟨.repeat, some 0xFFFFFFFF⟩
      ∧ (run .lineDeadline s).ringOut.length = 1 ∧ (run .lineDeadline s).timer.phase = .blanking := by decide +kernel

/-! ### The Sky Ring -/

/-- A MUSTER of round 3 for frame 5 with hop count 1. -/
def muster : MusterToken := ⟨3, 5, 5, 0, 1, 0xFFFFFFFF⟩

/-- The SHOW of round 3: SHOW 5. -/
def showToken : ShowToken := ⟨3, 0, 1, 5, 5, 0xFFFFFFFF⟩

theorem witness_MusterGathersReadiness : parseMuster (musterBytes muster) = some muster
    ∧ (asRole showing .follower).straps.role = .follower ∧ showing.newestCommon = some 5
    ∧ ((run (.musterHandle (musterBytes muster)) (asRole showing .follower)).rings.get 0).slots.s1.reserved = true
    ∧ (run (.musterHandle (musterBytes muster)) (asRole showing .follower)).coh.round = some ⟨3, some 5⟩ := by decide +kernel

/-- R99: of two common frames the newer, of two 32768 apart the one in the higher slot; none where a channel lacks it. -/
theorem witness_MusterGathersReadiness_newest :
    let s (f g : FrameNo) := withSlots (live idle) (slotOf .ready f) (slotOf .ready g) (slotOf .shown 2)
    (s 5 6).active 0 = true ∧ (s 6 5).newestCommon = some 6 ∧ newer 0x8006 6 = false ∧ newer 6 0x8006 = false
      ∧ (s 6 0x8006).newestCommon = some 0x8006 ∧ idle.newestCommon = none
      ∧ ({ s 5 6 with rings := (s 5 6).rings.set 3 { (s 5 6).rings.get 3 with slots := Trio.of fun _ => slotOf .empty 0 } } : State).newestCommon
          = none := by decide +kernel

/-- A master whose round 3 for frame 5 is open. -/
def asking : State := { asRole idle .master with coh := { Coherence.reset with round := some ⟨3, some 5⟩ } }

theorem witness_MusterReturnClosesRound : asking.straps.role = .master ∧ asking.coh.round = some ⟨3, some 5⟩
    ∧ (run (.musterReturn (musterBytes muster)) asking).coh.pending = some ⟨.show 5, some 0xFFFFFFFF⟩
    ∧ (run (.musterReturn (musterBytes { muster with hop := 0 })) asking).faults = [⟨.ringFormat, none, none, .seq 3⟩]
    ∧ run (.musterReturn (musterBytes { muster with seq := 4 })) asking = asking := by decide +kernel

/-- A follower past its muster point that holds round 3. -/
def holding : State :=
  { asRole idle .follower with coh := { Coherence.reset with round := some ⟨3, some 5⟩, musterMark := true, ringLost := true } }

theorem witness_ShowIsTakenOrReturned : parseShow (showBytes showToken) = some showToken ∧ showToken.outcome = some (.show 5)
    ∧ (run (.showHandle (showBytes showToken)) holding).coh.pending = some ⟨.show 5, some 0xFFFFFFFF⟩
    ∧ (run (.showHandle (showBytes showToken)) holding).coh.ringLost = false
    ∧ (run (.showReturn (showBytes showToken))
        { asking with coh := { asking.coh with showSent := some ⟨3, 0, false⟩ } }).coh.showSent = some ⟨3, 0, true⟩
    ∧ run (.showReturn (showBytes showToken)) asking = asking := by decide +kernel

/-! ### Warp and light units -/

/-- A LIVE MESH of spacing 16 with two by two points on the identity, in record 0. -/
def meshRecord (contents : Assoc Entry) : TableRecord := ⟨.mesh 0, .live, 64, 1, some ⟨16, 2, 2⟩, false, false, contents, []⟩

/-- Parameters of a VIDEO frame with no TONE and no BLEND. -/
def video : FrameParameters := ⟨.video, none, none, matrixOf none, false, Pixel.zero, none⟩

/-- A tile whose pixels all hold code 1023. -/
def whiteTile : List (List Pixel) := List.replicate 8 (List.replicate 16 ⟨1023, 1023, 1023⟩)

/-- Channel 0 walking line 0 of a frame, frame 4 SHOWN in slot 0 with its first tile VALID. -/
def walking (contents : Assoc Entry) (q : FrameParameters) : State :=
  let s := withSlots (live idle) (slotOf .shown 4) (slotOf .empty 0) (slotOf .empty 0)
  { s with
    tables := { s.tables with directory := [(0, meshRecord contents)] }
    timer := { s.timer with phase := .activeLines 0 }
    lights := s.lights.set 0 ⟨some q, .walked, [], [], none⟩
    warps := s.warps.set 0 ⟨[(0, .valid ⟨0, 0, 0⟩ 0 whiteTile false false)], 1, [], false, some 0, some ⟨0, 3, false, none⟩⟩ }

theorem witness_WarpPixelHandsPixel :
    (walking [] video).record (some 0) = some (meshRecord [])
      ∧ ((run (.warpPixel 0 []) (walking [] video)).lights.get 0).held = [⟨3, 0, .sample ⟨65535, 65535, 65535⟩⟩]
      ∧ ((run (.warpPixel 0 []) (walking [(3, .point 0 0 false)] video)).lights.get 0).held = [⟨3, 0, .black⟩]
      ∧ ((run (.warpPixel 0 []) (walking [] { video with flatSample := some ⟨1, 2, 3⟩ })).lights.get 0).held
          = [⟨3, 0, .sample ⟨1, 2, 3⟩⟩] := by decide +kernel

/-- `walking` with another cache and failed-tile set. -/
def walkingOn (cache : Assoc TileEntry) (failed : List Tag) (contents : Assoc Entry) : State :=
  let s := walking contents video
  { s with warps := s.warps.set 0 { s.warps.get 0 with cache := cache, failed := failed } }

/-- R15 to R17, R19: a miss allocates entry 0 and its read; a tile of the failed-tile set leaves the pixel black. -/
theorem witness_WarpPixelHandsPixel_tiles : (walkingOn [] [] []).slotsSound = true
    ∧ ((walkingOn [] [] []).warps.get 0).cacheSound = true
    ∧ ((run (.warpPixel 0 []) (walkingOn [] [] [])).warps.get 0).cache = [(0, .filling ⟨0, 0, 0⟩ 1 0 false false)]
    ∧ ((run (.warpPixel 0 []) (walkingOn [] [] [])).warps.get 0).walk = some ⟨0, 3, false, some ⟨192, 0, []⟩⟩
    ∧ ((run (.warpPixel 0 []) (walkingOn [] [⟨0, 0, 0⟩] [])).lights.get 0).held = [⟨3, 0, .black⟩]
    ∧ ((run (.warpPixel 0 []) (walkingOn [] [⟨0, 0, 0⟩] [])).warps.get 0).cache = [] := by decide +kernel

/-- R9: a mesh whose points lie left of the source makes the pixel an edge pixel at column 0. -/
theorem witness_WarpPixelHandsPixel_edge :
    let s := walkingOn [] [] [(0, .point (-640) 0 true), (1, .point (-640) 0 true), (2, .point (-640) 0 true), (3, .point (-640) 0 true)]
    (run (.warpPixel 0 []) s).latches.getLsbD (Cond.sourceEdge 0) = true
      ∧ ((run (.warpPixel 0 []) s).warps.get 0).edgeMark = true
      ∧ ((run (.warpPixel 0 []) s).warps.get 0).walk = some ⟨0, 3, false, some ⟨0, 0, []⟩⟩ := by decide +kernel

/-- R20, R21: a tag that fails and data that fails each give up the entry, and the tile is read again. -/
theorem witness_WarpPixelHandsPixel_parity :
    let s (tagBad dataBad : Bool) := walkingOn [(0, .valid ⟨0, 0, 0⟩ 0 whiteTile tagBad dataBad)] [] []
    (run (.warpPixel 0 []) (s false true)).faults = [⟨.dataParity, some 0, some 4, .tile 0 0⟩]
      ∧ ((run (.warpPixel 0 []) (s false true)).warps.get 0).cache = [(0, .filling ⟨0, 0, 0⟩ 1 0 false false)]
      ∧ (run (.warpPixel 0 []) (s true false)).faults = [⟨.tagParity, some 0, some 4, .absent⟩]
      ∧ ((run (.warpPixel 0 []) (s true false)).warps.get 0).cache = [(0, .filling ⟨0, 0, 0⟩ 1 0 false false)] := by decide +kernel

/-- R20: the data read again can fail as well, and is recorded and read once more. -/
theorem test_second_data_parity :
    let s := run (.warpPixel 0 []) (walkingOn [(0, .valid ⟨0, 0, 0⟩ 0 whiteTile false true)] [] [])
    (run (.tileFillComplete 0 1 [.tileData 0 0]) s).faults.length = 2
      ∧ ((run (.tileFillComplete 0 1 [.tileData 0 0]) s).warps.get 0).cache = [(0, .filling ⟨0, 0, 0⟩ 2 0 false false)] := by
  decide +kernel

theorem witness_warp_line_begins :
    let s := { walking [] video with warps := (walking [] video).warps.set 0 ⟨[], 1, [⟨0, 0, 0⟩], false, some 0, some ⟨0, 0, true, none⟩⟩ }
    ((run (.warpLineBegin 0) s).warps.get 0).walk = some ⟨1, 0, false, none⟩
      ∧ ((run (.warpLineBegin 0) s).warps.get 0).failed = [] := by decide +kernel

/-- A fill of the first tile in entry 5, its read numbered 2 and issued at 100. -/
def fillingTile : State :=
  let s := walking [] video
  { s with warps := s.warps.set 0 ⟨[(5, .filling ⟨0, 0, 0⟩ 2 100 false false)], 3, [], false, some 0, some ⟨0, 0, false, none⟩⟩ }

theorem witness_TileFillsEnd : (fillingTile.warps.get 0).cacheSound = true ∧ ownerOf (fillingTile.warps.get 0).cache 1 = none
    ∧ Assoc.find (fillingTile.warps.get 0).cache 5 = some (.filling ⟨0, 0, 0⟩ 2 100 false false)
    ∧ standsValid ((run (.tileFillComplete 0 2 []) fillingTile).warps.get 0).cache ⟨0, 0, 0⟩ = true
    ∧ ((run (.tileFillTimeout 0 2 []) fillingTile).warps.get 0).failed = [⟨0, 0, 0⟩]
    ∧ (run (.tileFillTimeout 0 2 []) fillingTile).now = 2100
    ∧ (run (.tileFillTimeout 0 2 []) fillingTile).faults = [⟨.fillTimeout, some 0, some 4, .tile 0 0⟩] := by decide +kernel

/-- A fill that was cancelled ends INVALID either way and leaves the failed-tile set. -/
theorem witness_TileFillsEnd_cancelled :
    let w := { fillingTile.warps.get 0 with cache := [(5, .filling ⟨0, 0, 0⟩ 2 100 true false)] }
    let s : State := { fillingTile with warps := fillingTile.warps.set 0 w }
    (s.warps.get 0).cacheSound = true ∧ ((run (.tileFillComplete 0 2 []) s).warps.get 0).cache = []
      ∧ ((run (.tileFillTimeout 0 2 []) s).warps.get 0).cache = []
      ∧ ((run (.tileFillTimeout 0 2 []) s).warps.get 0).failed = [] := by decide +kernel

/-- The pixel that waits for the tile is handed as its sample, or as black once the fill has timed out. -/
theorem witness_TileFillsEnd_waiting :
    let w := { fillingTile.warps.get 0 with walk := some ⟨0, 3, false, some ⟨192, 0, []⟩⟩ }
    let s : State := { fillingTile with warps := fillingTile.warps.set 0 w }
    ((run (.tileFillComplete 0 2 []) s).lights.get 0).held = [⟨3, 0, .sample ⟨0, 0, 0⟩⟩]
      ∧ ((run (.tileFillTimeout 0 2 []) s).lights.get 0).held = [⟨3, 0, .black⟩] := by decide +kernel

/-- Channel 0 holding two pixels of line 0. -/
def lit : State :=
  let s := walking [] video
  { s with lights := s.lights.set 0 ⟨some video, .walked, [⟨3, 0, .sample ⟨65535, 0, 0⟩⟩, ⟨4, 0, .black⟩], [], none⟩ }

theorem witness_LightPixelWritesCode : (lit.lights.get 0).params = some video ∧ lit.timer.passed 0 = false
    ∧ ((run (.lightPixelWrite 0 []) lit).lights.get 0).written 0 3 = some ⟨1023, 0, 0⟩
    ∧ ((run (.lightPixelWrite 0 []) (run (.lightPixelWrite 0 []) lit)).lights.get 0).written 0 4 = some Pixel.zero
    ∧ ((run (.lightPixelWrite 0 []) { lit with timer := { lit.timer with phase := .blanking } }).lights.get 0).buffers = [] := by
  decide +kernel

/-! ### Output ports -/

theorem witness_OutputPortTransitions : idle.hasChannel 0 = true ∧ idle.settings.settleMs = 200 ∧ idle.settings.relockMs = 500
    ∧ ((run (.statusReport 0 true) idle).outputs.get 0).expires = some 20000000
    ∧ ((run (.statusReport 0 false) (withPort idle .active .locked none)).outputs.get 0).state = .retrain
    ∧ ((run (.statusReport 0 true) (withPort idle .retrain .notLocked (some 9))).outputs.get 0).state = .active
    ∧ ((run (.settleExpiry 0) (withPort idle .settling .locked (some 9))).outputs.get 0).state = .active
    ∧ ((run (.settleExpiry 0) (withPort idle .settling .notLocked (some 9))).outputs.get 0).expires = some 50000009
    ∧ ((run (.relockExpiry 0) (withPort idle .retrain .notLocked (some 9))).outputs.get 0).state = .failed
    ∧ ((run (.reverseCarrierLost 0) (withPort idle .active .locked none)).outputs.get 0).state = .absent
    ∧ (run (.reportTimeout 0) (withPort idle .active .locked none)).now = 800005 := by decide +kernel

/-- R183: OUTPUT_CHANGE of channel 0 queues its notice where it is enabled and was not latched. -/
theorem witness_OutputPortTransitions_notice :
    let s : State := { withPort idle .settling .locked (some 9) with settings := { idle.settings with noticeEnable := 512 } }
    s.enabled (Cond.outputChange 0) = true ∧ (run (.settleExpiry 0) s).notices = [⟨9, some 0, none⟩]
      ∧ (run (.settleExpiry 0) { s with latches := 512 }).notices = [] := by decide +kernel

/-! ### Arithmetic -/

theorem witness_SamplingStaysBetweenNeighbours : (0 : Nat) < 16 ∧ (1 : Nat) ≤ 16
    ∧ (gridCell 16 15 15).interpolate 16 (-5) 7 7 7 = 7 ∧ clampSource 16 961 = 960
    ∧ neighbour1 16 960 = 15 ∧ clampChanges 16 961 = true ∧ bilinear 63 63 0 10 10 10 = 10 := by decide

theorem witness_WeightingKeepsRange : weighted 65535 32768 = 65535 ∧ weighted 65535 0 = 0 := by decide

theorem witness_LiftKeepsRange : lifted 0 16383 = 16383 ∧ lifted 65535 16383 = 65535 := by decide

theorem witness_EncodeStaysBetweenEntries : (0 : Nat) ≤ 65535 ∧ encode none 65535 = 65472 ∧ encode none 65519 = 65472
    ∧ matrixApply (matrixOf none) ⟨65535, 0, 1⟩ = ⟨65535, 0, 1⟩ ∧ outputCode 65472 60 = 1023 := by decide +kernel

theorem witness_DeadlinesRise : rasterLegal .b (RasterTimer.reset 0).width (RasterTimer.reset 0).height
    (RasterTimer.reset 0).periodUs = true ∧ rasterLegal .b 1920 1200 8334 = true ∧ rasterLegal .c 4096 2400 100000 = true := by decide

theorem witness_FirstMatchingRuleChooses :
    let m : TableRecord := ⟨.lossmap, .live, 64, 1, none, false, false, [(15, .rule 1 ⟨3, 2, 1, 0⟩)], []⟩
    (m.read 15).ruleMask ≠ 0 ∧ (m.read 15).ruleMask &&& 0xFFFFFFFE = 0 ∧ (m.read 14).ruleMask = 0
      ∧ chooseSet (some m) 0xFFFFFFFE 0 = 3 ∧ chooseSet (some m) 0xFFFFFFFD 0 = 0 := by decide +kernel

end Sys2Proof.Tests
end

section
/-! SUPPORT. The laws of the tile cache (R14 to R22): what a sound cache is in words, and that every operation of the
warp unit keeps one sound. -/

namespace Sys2Proof.Machine

/-! ### Entries listed -/

theorem Assoc.mem_insert {α : Type} {m : Assoc α} {k : Nat} {x : α} {e : Nat × α} (h : e ∈ Assoc.insert m k x) :
    e = (k, x) ∨ e ∈ m := by
  induction m with
  | nil => exact Or.inl (List.mem_singleton.1 h)
  | cons d rest ih =>
    rw [Assoc.insert] at h
    split at h
    · exact List.mem_cons.1 h
    · split at h
      · exact (List.mem_cons.1 h).imp_right (List.mem_cons_of_mem _)
      · rcases List.mem_cons.1 h with rfl | h
        · exact Or.inr (List.mem_cons_self ..)
        · exact (ih h).imp_right (List.mem_cons_of_mem _)

/-- A relation between any two entries outlives an insertion that the new entry relates to on both sides. -/
theorem Assoc.pairwise_insert {α : Type} {R : Nat × α → Nat × α → Prop} {m : Assoc α} (k : Nat) (x : α)
    (h : m.Pairwise R) (hl : ∀ e ∈ m, R e (k, x)) (hr : ∀ e ∈ m, R (k, x) e) : (Assoc.insert m k x).Pairwise R := by
  induction m with
  | nil => exact List.pairwise_singleton R _
  | cons d rest ih =>
    obtain ⟨hd, hrest⟩ := List.pairwise_cons.1 h
    have hr' : ∀ e ∈ rest, R (k, x) e := fun e he => hr e (List.mem_cons_of_mem _ he)
    rw [Assoc.insert]
    split
    · exact List.pairwise_cons.2 ⟨hr, h⟩
    · split
      · exact List.pairwise_cons.2 ⟨hr', hrest⟩
      · refine List.pairwise_cons.2 ⟨fun e he => ?_, ih hrest (fun e he => hl e (List.mem_cons_of_mem _ he)) hr'⟩
        rcases Assoc.mem_insert he with rfl | he
        · exact hl d (List.mem_cons_self ..)
        · exact hd e he

theorem noTwo_iff {α : Type} (clash : α → α → Bool) (xs : List α) :
    noTwo clash xs = true ↔ xs.Pairwise fun a b => clash a b = false := by
  induction xs with
  | nil => simp [noTwo]
  | cons x rest ih => simp [noTwo, ih, List.pairwise_cons]

/-! ### Sound caches -/

theorem entriesClash_eq_false {a b : Nat × TileEntry} : entriesClash a b = false ↔
    ¬(a.2.compared = true ∧ b.2.compared = true ∧ a.2.tag = b.2.tag) ∧ a.2.order ≠ b.2.order := by
  rw [← Bool.not_eq_true]
  simp only [entriesClash, Bool.or_eq_true, Bool.and_eq_true, beq_iff_eq, not_or, and_assoc, ne_eq]

theorem WarpUnit.cacheSound_iff (w : WarpUnit) : w.cacheSound = true ↔
    Assoc.wf w.cache = true ∧ (∀ e ∈ w.cache, e.1 < 64 ∧ e.2.order < w.nextOrder)
      ∧ w.cache.Pairwise fun a b => entriesClash a b = false := by
  simp only [WarpUnit.cacheSound, Bool.and_eq_true, List.all_eq_true, decide_eq_true_eq, noTwo_iff, and_assoc]
  rfl

theorem entriesClash_symm {a b : Nat × TileEntry} (h : entriesClash a b = false) : entriesClash b a = false := by
  rw [entriesClash_eq_false] at h ⊢
  exact ⟨fun ⟨hb, ha, ht⟩ => h.1 ⟨ha, hb, ht.symm⟩, fun ho => h.2 ho.symm⟩

/-- Two entries of a sound cache that clash are one. -/
theorem WarpUnit.cacheSound_unique {w : WarpUnit} (h : w.cacheSound = true) {a b : Nat × TileEntry} (ha : a ∈ w.cache)
    (hb : b ∈ w.cache) (hc : entriesClash a b = true) : a = b := by
  obtain ⟨-, -, hp⟩ := w.cacheSound_iff.1 h
  by_contra hne
  have : Std.Symm fun a b : Nat × TileEntry => entriesClash a b = false := ⟨fun _ _ => entriesClash_symm⟩
  have := hp.forall ha hb hne
  simp [this] at hc

/-- No two entries of a sound cache that a lookup compares hold one tag. -/
theorem WarpUnit.compared_unique {w : WarpUnit} (h : w.cacheSound = true) {a b : Nat × TileEntry} (ha : a ∈ w.cache)
    (hb : b ∈ w.cache) (hca : a.2.compared = true) (hcb : b.2.compared = true) (ht : a.2.tag = b.2.tag) : a = b :=
  WarpUnit.cacheSound_unique h ha hb (by simp [entriesClash, hca, hcb, ht])

/-- No two entries of a sound cache hold one place in the order of allocation. -/
theorem WarpUnit.order_unique {w : WarpUnit} (h : w.cacheSound = true) {a b : Nat × TileEntry} (ha : a ∈ w.cache)
    (hb : b ∈ w.cache) (ho : a.2.order = b.2.order) : a = b :=
  WarpUnit.cacheSound_unique h ha hb (by simp [entriesClash, ho])

theorem WarpUnit.cacheSound_wf {w : WarpUnit} (h : w.cacheSound = true) : Assoc.wf w.cache = true := (w.cacheSound_iff.1 h).1

theorem WarpUnit.find_of_mem {w : WarpUnit} (h : w.cacheSound = true) {e : Nat × TileEntry} (he : e ∈ w.cache) :
    Assoc.find w.cache e.1 = some e.2 := Assoc.find_of_mem (WarpUnit.cacheSound_wf h) he

/-- What a change of single entries may do to one: it keeps number, tag and place, and is compared only if it was. -/
def EntryKept (a b : Nat × TileEntry) : Prop :=
  b.1 = a.1 ∧ b.2.order = a.2.order ∧ b.2.tag = a.2.tag ∧ (b.2.compared = true → a.2.compared = true)

theorem EntryKept.refl (a : Nat × TileEntry) : EntryKept a a := ⟨rfl, rfl, rfl, id⟩

/-- A change or removal of entries one by one keeps a cache sound. -/
theorem WarpUnit.cacheSound_filterMap {w : WarpUnit} (h : w.cacheSound = true) (f : Nat × TileEntry → Option (Nat × TileEntry))
    (hf : ∀ a b, f a = some b → EntryKept a b) : ({ w with cache := w.cache.filterMap f } : WarpUnit).cacheSound = true := by
  obtain ⟨hwf, hb, hp⟩ := w.cacheSound_iff.1 h
  refine (WarpUnit.cacheSound_iff _).2 ⟨Assoc.risingFrom_filterMap f (fun a b hab => (hf a b hab).1) hwf, ?_, ?_⟩
  · intro e he
    obtain ⟨a, ha, hab⟩ := List.mem_filterMap.1 he
    obtain ⟨h1, h2, -, -⟩ := hf a e hab
    rw [h1, h2]
    exact hb a ha
  · refine List.pairwise_filterMap.2 (hp.imp fun {a b} hab c hc d hd => ?_)
    obtain ⟨-, ho, ht, hk⟩ := hf a c hc
    obtain ⟨-, ho', ht', hk'⟩ := hf b d hd
    rw [entriesClash_eq_false] at hab ⊢
    rw [ho, ho', ht, ht']
    exact ⟨fun ⟨hc, hd, he⟩ => hab.1 ⟨hk hc, hk' hd, he⟩, hab.2⟩

theorem WarpUnit.cacheSound_filter {w : WarpUnit} (h : w.cacheSound = true) (p : Nat × TileEntry → Bool) :
    ({ w with cache := w.cache.filter p } : WarpUnit).cacheSound = true := by
  have hf := WarpUnit.cacheSound_filterMap h (Option.guard p) fun a b hab => by
    obtain ⟨rfl, -⟩ := Option.guard_eq_some_iff.1 hab
    exact EntryKept.refl _
  rwa [List.filterMap_eq_filter] at hf

theorem WarpUnit.cacheSound_modify {w : WarpUnit} (h : w.cacheSound = true) (n : Nat) (f : TileEntry → TileEntry)
    (hf : ∀ e, EntryKept (n, e) (n, f e)) : ({ w with cache := Assoc.modify w.cache n f } : WarpUnit).cacheSound = true := by
  have hm := WarpUnit.cacheSound_filterMap h (some ∘ fun e => if e.1 = n then (e.1, f e.2) else e) fun a b hab => by
    cases Option.some.inj hab
    dsimp only
    split
    · rename_i hn
      subst hn
      exact hf a.2
    · exact EntryKept.refl _
  rwa [List.filterMap_eq_map] at hm

/-! ### Lookups (R15) -/

/-- A lookup finds an entry that it compares and that holds the tag. -/
theorem lookup_some {c : Assoc TileEntry} {t : Tag} {e : TileEntry} (h : lookup c t = some e) :
    ∃ n, (n, e) ∈ c ∧ e.compared = true ∧ e.tag = t := by
  obtain ⟨⟨n, e'⟩, hf, rfl⟩ := Option.map_eq_some_iff.1 h
  have hp := List.find?_some hf
  simp only [Bool.and_eq_true, beq_iff_eq] at hp
  exact ⟨n, List.mem_of_find?_eq_some hf, hp⟩

theorem lookup_eq_none {c : Assoc TileEntry} {t : Tag} :
    lookup c t = none ↔ ∀ e ∈ c, ¬(e.2.compared = true ∧ e.2.tag = t) := by
  simp [lookup, -not_and]

/-! ### Allocation (R16) -/

theorem earliest_mem (xs : Assoc TileEntry) (best : Option (Nat × TileEntry)) (e : Nat × TileEntry)
    (h : xs.foldl (fun best e => match best with
      | none => some e
      | some b => if e.2.order < b.2.order then some e else some b) best = some e) : best = some e ∨ e ∈ xs := by
  induction xs generalizing best with
  | nil => exact Or.inl h
  | cons x rest ih =>
    rcases ih _ h with hx | hx
    · cases best with
      | none =>
        cases Option.some.inj hx
        exact Or.inr (List.mem_cons_self ..)
      | some b =>
        dsimp only at hx
        split at hx
        · cases Option.some.inj hx
          exact Or.inr (List.mem_cons_self ..)
        · exact Or.inl hx
    · exact Or.inr (List.mem_cons_of_mem _ hx)

/-- The entry that an allocation takes without an INVALID one is a VALID entry of the cache. -/
theorem earliestValid_some {c : Assoc TileEntry} {n : Nat} (h : earliestValid c = some n) :
    ∃ e, (n, e) ∈ c ∧ e.isValid = true := by
  obtain ⟨⟨m, e⟩, hf, rfl⟩ := Option.map_eq_some_iff.1 h
  rcases earliest_mem _ _ _ hf with hn | hm
  · cases hn
  · exact ⟨e, List.mem_filter.1 hm⟩

/-- An allocation takes one of the 64 entries. -/
theorem WarpUnit.allocationEntry_lt {w : WarpUnit} (h : w.cacheSound = true) {n : Nat} (ha : allocationEntry w.cache = some n) :
    n < 64 := by
  rw [allocationEntry] at ha
  split at ha
  · rename_i m hm
    cases Option.some.inj ha
    exact (Assoc.lowestFree_spec hm).1
  · obtain ⟨e, he, -⟩ := earliestValid_some ha
    exact ((w.cacheSound_iff.1 h).2.1 _ he).1

/-- The unit with entry `n` FILLING for the tag, its fill issued at `now` (R16, R17). -/
def WarpUnit.fill (w : WarpUnit) (n now : Nat) (t : Tag) : WarpUnit :=
  { w with cache := Assoc.insert w.cache n (.filling t w.nextOrder now false false), nextOrder := w.nextOrder + 1 }

/-- An entry allocated for a tag that no compared entry holds keeps the cache sound. -/
theorem WarpUnit.cacheSound_fill {w : WarpUnit} (h : w.cacheSound = true) {n : Nat} (hn : n < 64) (now : Nat) {t : Tag}
    (ht : lookup w.cache t = none) : (w.fill n now t).cacheSound = true := by
  obtain ⟨hwf, hb, hp⟩ := w.cacheSound_iff.1 h
  have hclash : ∀ e ∈ w.cache, entriesClash e (n, .filling t w.nextOrder now false false) = false := fun e he =>
    entriesClash_eq_false.2 ⟨fun ⟨hc, _, hte⟩ => lookup_eq_none.1 ht e he ⟨hc, hte⟩, (hb e he).2.ne⟩
  refine (WarpUnit.cacheSound_iff _).2 ⟨Assoc.wf_insert _ _ hwf, fun e he => ?_,
    Assoc.pairwise_insert _ _ hp hclash fun e he => entriesClash_symm (hclash e he)⟩
  rcases Assoc.mem_insert he with rfl | he
  · exact ⟨hn, Nat.lt_succ_self _⟩
  · exact ⟨(hb e he).1, Nat.lt_succ_of_lt (hb e he).2⟩

/-- A lookup of a tag: a hit or a miss with no entry to take leaves the unit; a miss fills the entry allocated. -/
theorem WarpUnit.lookupTag_cases (w : WarpUnit) (now : Nat) (t : Tag) :
    (w.lookupTag now t).1 = w
      ∨ ∃ n, lookup w.cache t = none ∧ allocationEntry w.cache = some n ∧ (w.lookupTag now t).1 = w.fill n now t := by
  unfold WarpUnit.lookupTag
  split
  · exact Or.inl rfl
  · split
    · exact Or.inr ⟨_, ‹_›, ‹_›, rfl⟩
    · exact Or.inl rfl

theorem WarpUnit.lookupTag_sound {w : WarpUnit} (h : w.cacheSound = true) (now : Nat) (t : Tag) :
    (w.lookupTag now t).1.cacheSound = true := by
  rcases w.lookupTag_cases now t with he | ⟨n, ht, ha, he⟩
  · rwa [he]
  · rw [he]
    exact WarpUnit.cacheSound_fill h (WarpUnit.allocationEntry_lt h ha) now ht

/-- A lookup changes the cache and the order of allocation alone. -/
theorem WarpUnit.lookupTag_frame (w : WarpUnit) (now : Nat) (t : Tag) :
    ∃ c n, (w.lookupTag now t).1 = { w with cache := c, nextOrder := n } := by
  rcases w.lookupTag_cases now t with he | ⟨n, -, -, he⟩
  · exact ⟨w.cache, w.nextOrder, he⟩
  · exact ⟨_, _, he⟩

theorem WarpUnit.lookupTags_cons (w : WarpUnit) (now : Nat) (t : Tag) (ts : List Tag) :
    w.lookupTags now (t :: ts) =
      if (w.lookupTag now t).2 = true then (w.lookupTag now t).1.lookupTags now ts else ((w.lookupTag now t).1, t :: ts) := by
  rw [WarpUnit.lookupTags]
  rcases w.lookupTag now t with ⟨u, _ | _⟩ <;> rfl

theorem WarpUnit.lookupTags_sound {w : WarpUnit} (h : w.cacheSound = true) (now : Nat) (ts : List Tag) :
    (w.lookupTags now ts).1.cacheSound = true := by
  induction ts generalizing w with
  | nil => exact h
  | cons t rest ih =>
    rw [WarpUnit.lookupTags_cons]
    split
    · exact ih (WarpUnit.lookupTag_sound h now t)
    · exact WarpUnit.lookupTag_sound h now t

/-- Lookups change the cache and the order of allocation alone. -/
theorem WarpUnit.lookupTags_frame (w : WarpUnit) (now : Nat) (ts : List Tag) :
    ∃ c n, (w.lookupTags now ts).1 = { w with cache := c, nextOrder := n } := by
  induction ts generalizing w with
  | nil => exact ⟨w.cache, w.nextOrder, rfl⟩
  | cons t rest ih =>
    obtain ⟨c, n, h⟩ := w.lookupTag_frame now t
    rw [WarpUnit.lookupTags_cons]
    split
    · obtain ⟨c', n', h'⟩ := ih (w.lookupTag now t).1
      exact ⟨c', n', h'.trans (by rw [h])⟩
    · exact ⟨c, n, h⟩

/-! ### Storage going bad, fills ending and the purge (R17 to R22) -/

theorem TileEntry.spoilTag_kept (n : Nat) (e : TileEntry) : EntryKept (n, e) (n, e.spoilTag) := by
  cases e <;> exact ⟨rfl, rfl, rfl, id⟩

theorem TileEntry.spoilData_kept (n : Nat) (e : TileEntry) : EntryKept (n, e) (n, e.spoilData) := by
  cases e <;> exact ⟨rfl, rfl, rfl, id⟩

/-- The read that an entry owns, completed, leaves the entry VALID with its tag and place, or INVALID. -/
theorem TileEntry.completed_kept {n : Nat} {e d : TileEntry} {ring : SlotRing} (h : e.completed ring = some d) :
    EntryKept (n, e) (n, d) := by
  cases e with
  | filling t o i c b =>
    cases c with
    | false =>
      cases Option.some.inj h
      exact ⟨rfl, rfl, rfl, id⟩
    | true => cases h
  | valid t o data tb db =>
    cases Option.some.inj h
    exact EntryKept.refl _

theorem WarpUnit.completeRead_sound {w : WarpUnit} (h : w.cacheSound = true) (ring : SlotRing) (read : Nat) :
    ({ w with cache := completeRead w.cache ring read } : WarpUnit).cacheSound = true := by
  refine WarpUnit.cacheSound_filterMap h _ fun a b hab => ?_
  split at hab
  · obtain ⟨d, hd, rfl⟩ := Option.map_eq_some_iff.1 hab
    exact TileEntry.completed_kept hd
  · cases Option.some.inj hab
    exact EntryKept.refl _

/-- The purge keeps a VALID entry of the SHOWN slot, and at most cancels one that is FILLING. -/
theorem TileEntry.purged_kept {n : Nat} {shown : Option SlotNo} {e d : TileEntry} (h : e.purged shown = some d) :
    EntryKept (n, e) (n, d) := by
  cases e with
  | filling t o i c b =>
    cases Option.some.inj h
    refine ⟨rfl, rfl, rfl, fun hc => ?_⟩
    simp only [TileEntry.compared, Bool.not_eq_true', Bool.or_eq_false_iff] at hc ⊢
    exact hc.1
  | valid t o data tb db =>
    rw [TileEntry.purged] at h
    split at h
    · cases Option.some.inj h
      exact EntryKept.refl _
    · cases h

theorem WarpUnit.purgeCache_sound {w : WarpUnit} (h : w.cacheSound = true) (shown : Option SlotNo) :
    ({ w with cache := purgeCache shown w.cache } : WarpUnit).cacheSound = true :=
  WarpUnit.cacheSound_filterMap h _ fun a b hab => by
    obtain ⟨d, hd, rfl⟩ := Option.map_eq_some_iff.1 hab
    exact TileEntry.purged_kept hd

theorem WarpUnit.cacheSound_empty (w : WarpUnit) (h : w.cache = []) : w.cacheSound = true :=
  w.cacheSound_iff.2 (by simp [h, Assoc.wf, Assoc.risingFrom])

end Sys2Proof.Machine
end

section
/-! SUPPORT. What the warp unit's work on one pixel can do, said once: cache work on one unit, and then at most one of two
things, the pixel left waiting or the pixel handed on. -/

namespace Sys2Proof.Machine

/-! ### The caches of the part -/

theorem State.cachesSound_iff (s : State) : s.cachesSound = true ↔ ∀ k, (s.warps.get k).cacheSound = true := channels_all _

/-- A change of one unit that keeps its cache sound keeps all of them sound. -/
theorem State.cachesSound_set {s : State} (h : s.cachesSound = true) {t : State} {k : Channel} {w : WarpUnit}
    (ht : t.warps = s.warps.set k w) (hw : (s.warps.get k).cacheSound = true → w.cacheSound = true) : t.cachesSound = true := by
  rw [State.cachesSound_iff] at h ⊢
  intro j
  rw [ht, Quad.get_set]
  split
  · exact hw (h k)
  · exact h j

theorem State.cachesSound_of_warps {s t : State} (ht : t.warps = s.warps) (h : s.cachesSound = true) : t.cachesSound = true := by
  rw [State.cachesSound_iff] at h ⊢
  rwa [ht]

/-- Storage going bad keeps the caches sound, and no walk changes (R20, R21). -/
theorem State.upset_sound {s : State} (u : Upset) (h : s.cachesSound = true) : (s.upset u).cachesSound = true := by
  cases u with
  | pool r i => exact h
  | tileTag k e =>
    exact State.cachesSound_set h rfl fun hw => WarpUnit.cacheSound_modify hw _ _ fun _ => TileEntry.spoilTag_kept ..
  | tileData k e =>
    exact State.cachesSound_set h rfl fun hw => WarpUnit.cacheSound_modify hw _ _ fun _ => TileEntry.spoilData_kept ..

theorem State.upsets_sound {s : State} (us : List Upset) (h : s.cachesSound = true) : (s.upsets us).cachesSound = true := by
  induction us generalizing s with
  | nil => exact h
  | cons u rest ih => exact ih (State.upset_sound u h)

theorem State.setWarp_walk (s : State) (k j : Channel) {w : WarpUnit} (h : w.walk = (s.warps.get j).walk) :
    ((s.setWarp j w).warps.get k).walk = (s.warps.get k).walk := by
  rw [State.setWarp_warps, Quad.get_set]
  split
  · rename_i hk
    rw [hk, h]
  · rfl

theorem State.upset_walk (s : State) (u : Upset) (k : Channel) : ((s.upset u).warps.get k).walk = (s.warps.get k).walk := by
  cases u with
  | pool r i => rfl
  | tileTag j e => exact s.setWarp_walk k j rfl
  | tileData j e => exact s.setWarp_walk k j rfl

theorem State.upsets_walk (s : State) (us : List Upset) (k : Channel) :
    ((s.upsets us).warps.get k).walk = (s.warps.get k).walk := by
  induction us generalizing s with
  | nil => rfl
  | cons u rest ih => exact (ih (s.upset u)).trans (s.upset_walk u k)

/-! ### Cache work -/

/-- From `s` to `t` the unit of channel `k` has worked on its cache: its walk is as it was and its cache sound if it was;
besides, only the log, latches and notices have changed. -/
def State.cacheWork (s t : State) (k : Channel) : Prop :=
  ∃ (w : WarpUnit) (gs : List FaultRecord) (o : Bool) (l : BitVec 45) (ns : List Notice),
    t = { s with warps := s.warps.set k w, faults := gs, overflow := o, latches := l, notices := ns }
      ∧ w.walk = (s.warps.get k).walk ∧ ((s.warps.get k).cacheSound = true → w.cacheSound = true)

theorem State.cacheWork_refl (s : State) (k : Channel) : s.cacheWork s k :=
  ⟨s.warps.get k, s.faults, s.overflow, s.latches, s.notices, by rw [Quad.set_get], rfl, id⟩

theorem State.cacheWork_trans {a b c : State} {k : Channel} (h : a.cacheWork b k) (g : b.cacheWork c k) : a.cacheWork c k := by
  obtain ⟨w, gs, o, l, ns, rfl, hw, hs⟩ := h
  obtain ⟨w', gs', o', l', ns', rfl, hw', hs'⟩ := g
  simp only [Quad.get_set_same, Quad.set_set] at hw' hs' ⊢
  exact ⟨w', gs', o', l', ns', rfl, hw'.trans hw, fun h => hs' (hs h)⟩

theorem State.setWarp_cacheWork (s : State) (k : Channel) {w : WarpUnit} (hw : w.walk = (s.warps.get k).walk)
    (hs : (s.warps.get k).cacheSound = true → w.cacheSound = true) : s.cacheWork (s.setWarp k w) k :=
  ⟨w, s.faults, s.overflow, s.latches, s.notices, rfl, hw, hs⟩

theorem State.recordFaults_cacheWork (s : State) (k : Channel) (fs : List FaultRecord) : s.cacheWork (s.recordFaults fs) k := by
  obtain ⟨gs, o, l, ns, h⟩ := s.recordFaults_spec fs
  exact ⟨s.warps.get k, gs, o, l, ns, by rw [Quad.set_get, h], rfl, id⟩

theorem State.raise_cacheWork (s : State) (k : Channel) (c : Cond) : s.cacheWork (s.raise c) k := by
  obtain ⟨ns, h⟩ := s.raise_spec c
  exact ⟨s.warps.get k, s.faults, s.overflow, _, ns, by rw [Quad.set_get, h], rfl, id⟩

theorem State.lookUp_cacheWork (s : State) (k : Channel) (ts : List Tag) : s.cacheWork (s.lookUp k ts).1 k := by
  cases ts with
  | nil => exact s.cacheWork_refl k
  | cons t rest =>
    refine State.cacheWork_trans (s.setWarp_cacheWork k ?_ ?_) (State.recordFaults_cacheWork _ k _)
    · obtain ⟨c, n, h⟩ :=
        WarpUnit.lookupTags_frame { s.warps.get k with cache := dropBadTags (s.warps.get k).cache } s.now (t :: rest)
      rw [h]
    · exact fun h => WarpUnit.lookupTags_sound (WarpUnit.cacheSound_filter h _) s.now (t :: rest)

theorem State.allocateAnew_cacheWork (s : State) (k : Channel) (ts : List Tag) : s.cacheWork (s.allocateAnew k ts).1 k := by
  cases ts with
  | nil => exact s.cacheWork_refl k
  | cons t rest =>
    rw [State.allocateAnew]
    split
    · rename_i w hw
      have hw : w = ((s.warps.get k).lookupTag s.now t).1 := by rw [hw]
      refine State.cacheWork_trans (s.setWarp_cacheWork k ?_ fun h => ?_) (State.lookUp_cacheWork _ k rest)
      · obtain ⟨c, n, h⟩ := (s.warps.get k).lookupTag_frame s.now t
        rw [hw, h]
      · rw [hw]
        exact WarpUnit.lookupTag_sound h s.now t
    · exact s.cacheWork_refl k

theorem State.refetch_cacheWork (s : State) (k : Channel) (t : Tag) : s.cacheWork (s.refetch k t) k := by
  refine State.cacheWork_trans (s.setWarp_cacheWork k ?_ fun h => ?_) (State.recordFaults_cacheWork _ k [_])
  · obtain ⟨c, n, h⟩ := WarpUnit.lookupTag_frame { s.warps.get k with cache := dropTag (s.warps.get k).cache t } s.now t
    rw [h]
  · exact WarpUnit.lookupTag_sound (WarpUnit.cacheSound_filter h _) s.now t

theorem State.refetches_cacheWork (k : Channel) (ts : List Tag) (s : State) :
    s.cacheWork (ts.foldl (fun s t => s.refetch k t) s) k := by
  induction ts generalizing s with
  | nil => exact s.cacheWork_refl k
  | cons t rest ih => exact State.cacheWork_trans (s.refetch_cacheWork k t) (ih _)

/-! ### The work on a pixel -/

/-- From `s` to `t` the unit has worked on the pixel of the walk: cache work, after which the pixel may have been left
waiting or handed to the light unit. -/
def State.pixelWork (s t : State) (k : Channel) (walk : Walk) : Prop :=
  ∃ u, s.cacheWork u k ∧ (t = u ∨ (∃ p, t = u.leaveWaiting k walk p) ∨ ∃ how, t = u.handPixel k walk how)

theorem State.cacheWork_pixelWork {a b c : State} {k : Channel} {walk : Walk} (h : a.cacheWork b k) (g : b.pixelWork c k walk) :
    a.pixelWork c k walk := by
  obtain ⟨u, hu, ht⟩ := g
  exact ⟨u, State.cacheWork_trans h hu, ht⟩

theorem State.leaveWaiting_pixelWork {s u : State} {k : Channel} (h : s.cacheWork u k) (walk : Walk) (p : WaitingPixel) :
    s.pixelWork (u.leaveWaiting k walk p) k walk := ⟨u, h, Or.inr (Or.inl ⟨p, rfl⟩)⟩

theorem State.handPixel_pixelWork {s u : State} {k : Channel} (h : s.cacheWork u k) (walk : Walk) (how : Handed) :
    s.pixelWork (u.handPixel k walk how) k walk := ⟨u, h, Or.inr (Or.inr ⟨how, rfl⟩)⟩

theorem State.samplePixel_pixelWork (s : State) (k : Channel) (walk : Walk) (slot : SlotNo) (x : Slot) (p : WaitingPixel) :
    s.pixelWork (s.samplePixel k walk slot x p) k walk := by
  rw [State.samplePixel]
  split
  · exact State.handPixel_pixelWork (s.recordFaults_cacheWork k _) walk _
  · exact ⟨s, s.cacheWork_refl k, Or.inl rfl⟩

theorem State.readTiles_pixelWork (s : State) (k : Channel) (walk : Walk) (slot : SlotNo) (x : Slot) (p : WaitingPixel) :
    s.pixelWork (s.readTiles k walk slot x p) k walk := by
  rw [State.readTiles]
  split
  · exact s.samplePixel_pixelWork k walk slot x p
  · exact State.leaveWaiting_pixelWork (State.refetches_cacheWork k _ s) walk _

theorem State.settlePixel_pixelWork (s : State) (k : Channel) (walk : Walk) (slot : SlotNo) (x : Slot) (p : WaitingPixel)
    (todo : List Tag) : s.pixelWork (s.settlePixel k walk slot x p todo) k walk := by
  unfold State.settlePixel
  dsimp only
  split
  · exact State.leaveWaiting_pixelWork (s.cacheWork_refl k) walk _
  · split
    · exact State.leaveWaiting_pixelWork (s.cacheWork_refl k) walk _
    · split
      · exact s.readTiles_pixelWork k walk slot x p
      · exact State.leaveWaiting_pixelWork (s.lookUp_cacheWork k _) walk _

theorem State.seekPixel_pixelWork (s : State) (k : Channel) (walk : Walk) (p : WaitingPixel) (look : List Tag → State × List Tag)
    (h : ∀ ts, s.cacheWork (look ts).1 k) : s.pixelWork (s.seekPixel k walk p look) k walk := by
  rw [State.seekPixel]
  split
  · exact State.leaveWaiting_pixelWork (s.cacheWork_refl k) walk p
  · dsimp only
    split
    · exact State.handPixel_pixelWork (s.cacheWork_refl k) walk .black
    · exact State.cacheWork_pixelWork (h _) (State.settlePixel_pixelWork _ k walk _ _ p _)

theorem State.placePixel_pixelWork (s : State) (k : Channel) (walk : Walk) (m : TableRecord) (x : Slot) :
    s.pixelWork (s.placePixel k walk m x) k walk := by
  rw [State.placePixel]
  split
  · exact State.cacheWork_pixelWork
      (State.cacheWork_trans (s.setWarp_cacheWork k (w := { s.warps.get k with edgeMark := true }) rfl id)
        (State.raise_cacheWork _ k (Cond.sourceEdge k)))
      (State.seekPixel_pixelWork _ k walk _ _ fun ts => State.lookUp_cacheWork _ k ts)
  · exact s.seekPixel_pixelWork k walk _ _ fun ts => s.lookUp_cacheWork k ts

theorem State.newPixel_pixelWork (s : State) (k : Channel) (walk : Walk) (m : TableRecord) (params : FrameParameters) :
    s.pixelWork (s.newPixel k walk m params) k walk := by
  rw [State.newPixel]
  refine State.cacheWork_pixelWork
    (s.recordFaults_cacheWork k (m.parityFaults (s.shownFrame k) (m.cornerReads walk.col walk.line))) ?_
  generalize s.recordFaults (m.parityFaults (s.shownFrame k) (m.cornerReads walk.col walk.line)) = r
  split
  · exact State.handPixel_pixelWork (r.cacheWork_refl k) walk .black
  · split
    · exact State.handPixel_pixelWork (r.cacheWork_refl k) walk _
    · split
      · exact ⟨r, r.cacheWork_refl k, Or.inl rfl⟩
      · exact r.placePixel_pixelWork k walk m _

/-- The next pixel is worked on only within the line (R5). -/
theorem State.warpPixel_cases (s : State) (k : Channel) (walk : Walk) :
    s.warpPixel k walk = s ∨ (walk.col < s.timer.width ∧ s.pixelWork (s.warpPixel k walk) k walk) := by
  rw [State.warpPixel]
  split
  · exact Or.inl rfl
  · split
    · rename_i hcol
      split
      · exact Or.inr ⟨hcol, s.newPixel_pixelWork k walk _ _⟩
      · exact Or.inl rfl
    · exact Or.inl rfl

/-- Only a pixel that waits goes on when a fill ends (R16, R18). -/
theorem State.resumePixel_cases (s : State) (k : Channel) :
    s.resumePixel k = s ∨ ∃ walk p, (s.warps.get k).walk = some walk ∧ walk.waiting = some p
      ∧ s.pixelWork (s.resumePixel k) k walk := by
  unfold State.resumePixel
  split
  · exact Or.inl rfl
  · rename_i walk hwalk
    split
    · rename_i p hp
      split
      · exact Or.inl rfl
      · exact Or.inr ⟨walk, p, hwalk, hp, s.seekPixel_pixelWork k walk p _ fun _ => s.allocateAnew_cacheWork k _⟩
    · exact Or.inl rfl

/-- The work on a pixel keeps the caches sound. -/
theorem State.cacheWork_cachesSound {s t : State} {k : Channel} (h : s.cacheWork t k) (hs : s.cachesSound = true) :
    t.cachesSound = true := by
  obtain ⟨w, gs, o, l, ns, rfl, -, hw⟩ := h
  exact State.cachesSound_set hs rfl hw

theorem State.pixelWork_cachesSound {s t : State} {k : Channel} {walk : Walk} (h : s.pixelWork t k walk)
    (hs : s.cachesSound = true) : t.cachesSound = true := by
  obtain ⟨u, hu, ht⟩ := h
  have hus := State.cacheWork_cachesSound hu hs
  rcases ht with rfl | ⟨p, rfl⟩ | ⟨how, rfl⟩
  · exact hus
  · exact State.cachesSound_set hus rfl id
  · exact State.cachesSound_set hus rfl id

end Sys2Proof.Machine
end

section
/-! SUPPORT. The commands that leave the presentation alone: raster, straps, warp and light units and output ports. -/

namespace Sys2Proof.Machine

/-- What the presentation of frames rests on: the raster timer, the straps, the warp and light units and the ports. -/
def State.presentation (s : State) : RasterTimer × StrapRecord × Quad WarpUnit × Quad LightUnit × Quad OutputPort :=
  (s.timer, s.straps, s.warps, s.lights, s.outputs)

/-! ### Shared operations -/

@[simp] theorem State.raise_presentation (s : State) (c : Cond) : (s.raise c).presentation = s.presentation := by
  obtain ⟨ns, h⟩ := s.raise_spec c
  rw [h]
  rfl

@[simp] theorem State.raiseAll_presentation (s : State) (cs : List Cond) : (s.raiseAll cs).presentation = s.presentation := by
  obtain ⟨l, ns, h⟩ := s.raiseAll_spec cs
  rw [h]
  rfl

@[simp] theorem State.recordFaults_presentation (s : State) (fs : List FaultRecord) :
    (s.recordFaults fs).presentation = s.presentation := by
  obtain ⟨gs, o, l, ns, h⟩ := s.recordFaults_spec fs
  rw [h]
  rfl

@[simp] theorem State.recordFault_presentation (s : State) (f : FaultRecord) :
    (s.recordFault f).presentation = s.presentation := s.recordFaults_presentation [f]

@[simp] theorem State.levelNotices_presentation (s before : State) :
    (s.levelNotices before).presentation = s.presentation := by
  obtain ⟨ns, h⟩ := s.levelNotices_spec before
  rw [h]
  rfl

@[simp] theorem State.setEnables_presentation (s : State) (new : BitVec 45) :
    (s.setEnables new).presentation = s.presentation := by
  obtain ⟨ns, h⟩ := s.setEnables_spec new
  rw [h]
  rfl

@[simp] theorem State.runStore_presentation (s : State) (n : Nat) : (s.runStore n).presentation = s.presentation := by
  obtain ⟨gs, o, l, ns, h⟩ := s.runStore_spec n
  rw [h]
  rfl

@[simp] theorem State.reply_presentation (s : State) (c : Cell) (e : QueueEntry) :
    (s.reply c e).presentation = s.presentation := by
  obtain ⟨l, h⟩ := s.reply_spec c e
  rw [h]
  rfl

/-- Serving a cell leaves the presentation alone where the command does. -/
theorem State.serve_presentation (s : State) (mine : Cell → Bool) (command : Cell → State → Answer)
    (h : ∀ c t, (command c t).state.presentation = t.presentation) : (s.serve mine command).presentation = s.presentation := by
  rcases s.serve_cases mine command with he | ⟨c, rest, -, -, -, -, he⟩
  · rw [he]
  · rw [he, State.reply_presentation, h]
    rfl

@[simp] theorem Answer.refuse_state (s : State) (st : Status) : (Answer.refuse s st).state = s := rfl

@[simp] theorem State.setLoader_presentation (s : State) (x : ImageLoader) : (s.setLoader x).presentation = s.presentation := rfl

@[simp] theorem State.setDirectory_presentation (s : State) (x : Assoc TableRecord) :
    (s.setDirectory x).presentation = s.presentation := rfl

/-! ### The engine's commands -/

theorem State.identifyCommand_presentation (c : Cell) (s : State) : (s.identifyCommand c).state.presentation = s.presentation := by
  unfold State.identifyCommand
  split <;> rfl

theorem State.statusCommand_presentation (c : Cell) (s : State) : (s.statusCommand c).state.presentation = s.presentation := by
  unfold State.statusCommand
  split <;> rfl

@[simp] theorem State.storeSetting_presentation (s : State) (id : SettingId) (k : Channel) (v : Nat) :
    (s.storeSetting id k v).presentation = s.presentation := by
  unfold State.storeSetting
  split
  · exact s.setEnables_presentation _
  · rfl

theorem State.setCommand_presentation (c : Cell) (s : State) : (s.setCommand c).state.presentation = s.presentation := by
  unfold State.setCommand
  split
  · rfl
  · exact s.storeSetting_presentation _ _ _

theorem State.getCommand_presentation (c : Cell) (s : State) : (s.getCommand c).state.presentation = s.presentation := by
  unfold State.getCommand
  split <;> rfl

theorem State.clearCommand_presentation (c : Cell) (s : State) : (s.clearCommand c).state.presentation = s.presentation := by
  unfold State.clearCommand
  split <;> rfl

theorem State.faultReadCommand_presentation (c : Cell) (s : State) : (s.faultReadCommand c).state.presentation = s.presentation := by
  unfold State.faultReadCommand
  split
  · rfl
  · split <;> rfl

theorem State.resetFullCommand_presentation (c : Cell) (s : State) : (s.resetFullCommand c).state.presentation = s.presentation := by
  unfold State.resetFullCommand
  split <;> rfl

theorem State.openCommand_presentation (c : Cell) (s : State) : (s.openCommand c).state.presentation = s.presentation := by
  unfold State.openCommand
  dsimp only
  repeat' split
  all_goals rfl

theorem State.writeCommand_presentation (c : Cell) (s : State) : (s.writeCommand c).state.presentation = s.presentation := by
  unfold State.writeCommand
  dsimp only
  repeat' split
  all_goals rfl

theorem State.readCommand_presentation (c : Cell) (s : State) : (s.readCommand c).state.presentation = s.presentation := by
  unfold State.readCommand
  dsimp only
  repeat' split
  all_goals simp

theorem State.sealCommand_presentation (c : Cell) (s : State) : (s.sealCommand c).state.presentation = s.presentation := by
  unfold State.sealCommand
  repeat' split
  all_goals rfl

theorem State.dropStaged_presentation (key : Key) (s : State) : (s.dropStaged key).state.presentation = s.presentation := by
  unfold State.dropStaged
  repeat' split
  all_goals rfl

theorem State.dropLive_presentation (key : Key) (s : State) : (s.dropLive key).state.presentation = s.presentation := by
  unfold State.dropLive
  repeat' split
  all_goals rfl

theorem State.dropCommand_presentation (c : Cell) (s : State) : (s.dropCommand c).state.presentation = s.presentation := by
  unfold State.dropCommand
  repeat' split
  · rfl
  · rfl
  · exact s.dropStaged_presentation _
  · exact s.dropLive_presentation _
  · rfl

theorem State.swapCommand_presentation (c : Cell) (s : State) : (s.swapCommand c).state.presentation = s.presentation := by
  unfold State.swapCommand
  dsimp only
  repeat' split
  all_goals rfl

theorem State.listCommand_presentation (c : Cell) (s : State) : (s.listCommand c).state.presentation = s.presentation := by
  unfold State.listCommand
  dsimp only
  repeat' split
  all_goals rfl

theorem State.storeCommand_presentation (c : Cell) (s : State) : (s.storeCommand c).state.presentation = s.presentation := by
  unfold State.storeCommand
  repeat' split
  all_goals rfl

theorem State.loadCommand_presentation (c : Cell) (s : State) : (s.loadCommand c).state.presentation = s.presentation := by
  unfold State.loadCommand
  dsimp only
  repeat' split
  all_goals simp

/-! ### The image loader and the table store -/

theorem State.applyRecord_presentation (s : State) (rec : Bytes) : (s.applyRecord rec).presentation = s.presentation := by
  unfold State.applyRecord
  repeat' split
  all_goals simp

theorem State.loadLive_presentation (s : State) (t : ImageTable) : (s.loadLive t).presentation = s.presentation := by
  unfold State.loadLive
  repeat' split
  all_goals rfl

/-- A fold of operations that leave the presentation alone leaves it alone. -/
theorem foldl_presentation {α : Type} (f : State → α → State) (hf : ∀ s a, (f s a).presentation = s.presentation) (xs : List α)
    (s : State) : (xs.foldl f s).presentation = s.presentation := by
  induction xs generalizing s with
  | nil => rfl
  | cons x rest ih => exact (ih (f s x)).trans (hf s x)

theorem State.applySettings_presentation (s : State) : s.applySettings.presentation = s.presentation :=
  foldl_presentation _ State.applyRecord_presentation _ s

theorem State.applyTables_presentation (s : State) : s.applyTables.presentation = s.presentation := by
  unfold State.applyTables
  split
  · rfl
  · exact foldl_presentation _ State.loadLive_presentation _ s

theorem State.fillPageDone_presentation (s : State) (f : FillOp) (r : TableRecord) :
    (s.fillPageDone f r).presentation = s.presentation := by
  unfold State.fillPageDone
  dsimp only
  split <;> rfl

theorem State.enqueueCompletion_presentation (s : State) (c : Completion) :
    (s.enqueueCompletion c).1.presentation = s.presentation := by
  unfold State.enqueueCompletion
  repeat' split
  all_goals rfl

/-! ### Links, records and tokens -/

theorem State.take_presentation (s : State) (k : Channel) (r : Received) : (s.take k r).presentation = s.presentation :=
  State.raiseAll_presentation _ _

theorem State.loseLink_presentation (s : State) (k : Channel) : (s.loseLink k).presentation = s.presentation := by
  unfold State.loseLink
  rw [State.levelNotices_presentation]
  exact s.take_presentation k _

theorem State.takeCell_presentation (s : State) (k : Channel) (record : Bytes) :
    (s.takeCell k record).presentation = s.presentation := by
  unfold State.takeCell
  split
  · exact s.raise_presentation _
  · split
    · rfl
    · exact s.raise_presentation _

theorem State.beginSending_presentation (s : State) (k : Channel) : (s.beginSending k).presentation = s.presentation := by
  unfold State.beginSending
  dsimp only
  repeat' split
  all_goals rfl

theorem State.closeMasterRound_presentation (s : State) (r : Round) (ready : Bool) (v : Vec32) :
    (s.closeMasterRound r ready v).presentation = s.presentation := by
  obtain ⟨x, h, -⟩ := s.closeMasterRound_spec r ready v
  rw [h]
  rfl

theorem State.musterReturned_presentation (s : State) (t : MusterToken) : (s.musterReturned t).presentation = s.presentation := by
  unfold State.musterReturned
  repeat' split
  · rfl
  · rfl
  · exact State.closeMasterRound_presentation _ _ _ _
  · rw [State.closeMasterRound_presentation, State.recordFault_presentation]

theorem State.showReturned_presentation (s : State) (t : ShowToken) : (s.showReturned t).presentation = s.presentation := by
  unfold State.showReturned
  dsimp only
  split <;> rfl

theorem State.showHandled_presentation (s : State) (t : ShowToken) (token : Bytes) :
    (s.showHandled t token).presentation = s.presentation := by
  unfold State.showHandled
  dsimp only
  split <;> rfl

end Sys2Proof.Machine
end

section
/-! SUPPORT. Which commands leave the presentation alone, but for the storage cells that go bad during them. -/

namespace Sys2Proof.Machine

/-- The next state, where there is one, satisfies `P`. -/
def Leaves (o : Host.Outcome State Fault Refusal) (P : State → Prop) : Prop := ∀ t, o = .next t → P t

@[simp] theorem leaves_next {t : State} {P : State → Prop} : Leaves (.next t) P ↔ P t :=
  ⟨fun h => h t rfl, fun h _ ht => by cases ht; exact h⟩

/-- The serving of a command that leaves the presentation alone. -/
theorem leaves_serve_presentation (s : State) {mine : Cell → Bool} {command : Cell → State → Answer}
    (h : ∀ c t, (command c t).state.presentation = t.presentation) :
    Leaves (.next (s.serve mine command)) (·.presentation = s.presentation) :=
  leaves_next.2 (s.serve_presentation mine command h)

theorem execStartupHeaderReadDone_presentation (s : State) :
    Leaves (execStartupHeaderReadDone s) (·.presentation = s.presentation) := by
  unfold execStartupHeaderReadDone
  repeat' split
  all_goals exact leaves_next.2 rfl

theorem execImageCheckReadDone_presentation (s : State) : Leaves (execImageCheckReadDone s) (·.presentation = s.presentation) := by
  unfold execImageCheckReadDone
  repeat' split
  · exact leaves_next.2 (State.applySettings_presentation _)
  · exact leaves_next.2 (State.recordFault_presentation _ _)
  · exact leaves_next.2 rfl

theorem execStartupLoadDone_presentation (s : State) : Leaves (execStartupLoadDone s) (·.presentation = s.presentation) := by
  unfold execStartupLoadDone
  split
  · exact leaves_next.2 s.applyTables_presentation
  · exact leaves_next.2 rfl

theorem execInputCarrierDetected_presentation (k : Channel) (s : State) :
    Leaves (execInputCarrierDetected k s) (·.presentation = s.presentation) := by
  unfold execInputCarrierDetected
  split <;> exact leaves_next.2 rfl

theorem execInputTrainingDone_presentation (k : Channel) (s : State) :
    Leaves (execInputTrainingDone k s) (·.presentation = s.presentation) := by
  unfold execInputTrainingDone
  split <;> exact leaves_next.2 rfl

theorem execInputLinkLost_presentation (k : Channel) (s : State) :
    Leaves (execInputLinkLost k s) (·.presentation = s.presentation) := by
  unfold execInputLinkLost
  split
  · exact leaves_next.2 rfl
  · exact leaves_next.2 (s.loseLink_presentation k)
  · exact leaves_next.2 (s.loseLink_presentation k)

theorem execFrameOpen_presentation (k : Channel) (record : Bytes) (s : State) :
    Leaves (execFrameOpen k record s) (·.presentation = s.presentation) := by
  unfold execFrameOpen
  split
  · exact leaves_next.2 (s.take_presentation k _)
  · exact leaves_next.2 rfl

theorem execLine_presentation (k : Channel) (record : Bytes) (s : State) :
    Leaves (execLine k record s) (·.presentation = s.presentation) := by
  unfold execLine
  split <;> exact leaves_next.2 rfl

theorem execFrameClose_presentation (k : Channel) (record : Bytes) (s : State) :
    Leaves (execFrameClose k record s) (·.presentation = s.presentation) := by
  unfold execFrameClose
  split
  · exact leaves_next.2 (s.take_presentation k _)
  · exact leaves_next.2 rfl

theorem execCell_presentation (k : Channel) (record : Bytes) (s : State) :
    Leaves (execCell k record s) (·.presentation = s.presentation) := by
  unfold execCell
  split
  · exact leaves_next.2 (s.takeCell_presentation k record)
  · exact leaves_next.2 rfl

theorem execDefaultFillPageDone_presentation (s : State) :
    Leaves (execDefaultFillPageDone s) (·.presentation = s.presentation) := by
  unfold execDefaultFillPageDone
  repeat' split
  · exact leaves_next.2 rfl
  · exact leaves_next.2 rfl
  · exact leaves_next.2 (s.fillPageDone_presentation _ _)

theorem execCompletionEnqueue_presentation (op : OpRecord) (s : State) :
    Leaves (execCompletionEnqueue op s) (·.presentation = s.presentation) := by
  unfold execCompletionEnqueue
  split
  · split
    · exact leaves_next.2 rfl
    · rename_i c _
      show Leaves (.next (if (s.enqueueCompletion c).2 = true then _ else (s.enqueueCompletion c).1)) _
      rw [leaves_next, ← s.enqueueCompletion_presentation c]
      split <;> rfl
  · split
    · exact leaves_next.2 rfl
    · rename_i c _
      show Leaves (.next (if (s.enqueueCompletion c).2 = true then _ else (s.enqueueCompletion c).1)) _
      rw [leaves_next, ← s.enqueueCompletion_presentation c]
      split <;> rfl

theorem execStorePhaseDone_presentation (us : List Upset) (s : State) :
    Leaves (execStorePhaseDone us s) (·.presentation = (s.upsets us).presentation) := by
  unfold execStorePhaseDone
  dsimp only
  repeat' split
  · exact leaves_next.2 (State.runStore_presentation _ _)
  · exact leaves_next.2 (State.runStore_presentation _ _)
  · exact leaves_next.2 rfl

theorem execFlashWriteFailed_presentation (done : Nat) (s : State) :
    Leaves (execFlashWriteFailed done s) (·.presentation = s.presentation) := by
  unfold execFlashWriteFailed
  split
  · simp
  · exact leaves_next.2 rfl

theorem execLoadReadDone_presentation (s : State) : Leaves (execLoadReadDone s) (·.presentation = s.presentation) := by
  unfold execLoadReadDone
  repeat' split
  all_goals simp

theorem execReverseLaneSend_presentation (k : Channel) (s : State) :
    Leaves (execReverseLaneSend k s) (·.presentation = s.presentation) := by
  unfold execReverseLaneSend
  split
  · exact leaves_next.2 (s.beginSending_presentation k)
  · exact leaves_next.2 rfl

theorem execReverseSendEnd_presentation (k : Channel) (s : State) :
    Leaves (execReverseSendEnd k s) (·.presentation = s.presentation) := by
  unfold execReverseSendEnd
  dsimp only
  split <;> exact leaves_next.2 rfl

theorem execMusterHandle_presentation (token : Bytes) (s : State) :
    Leaves (execMusterHandle token s) (·.presentation = s.presentation) := by
  unfold execMusterHandle
  split <;> exact leaves_next.2 rfl

theorem execMusterReturn_presentation (token : Bytes) (s : State) :
    Leaves (execMusterReturn token s) (·.presentation = s.presentation) := by
  unfold execMusterReturn
  split
  · exact leaves_next.2 (s.musterReturned_presentation _)
  · exact leaves_next.2 rfl

theorem execShowHandle_presentation (token : Bytes) (s : State) :
    Leaves (execShowHandle token s) (·.presentation = s.presentation) := by
  unfold execShowHandle
  split
  · exact leaves_next.2 (s.showHandled_presentation _ token)
  · exact leaves_next.2 rfl

theorem execShowReturn_presentation (token : Bytes) (s : State) :
    Leaves (execShowReturn token s) (·.presentation = s.presentation) := by
  unfold execShowReturn
  split
  · exact leaves_next.2 (s.showReturned_presentation _)
  · exact leaves_next.2 rfl

end Sys2Proof.Machine

namespace Sys2Proof

open Machine Laws

/-- The commands that work on the presentation: resets, RESTART OUTPUT, the raster timer, the warp and light units and the
output ports. -/
def Instr.presents : Instr → Bool
  | .pinReset .. | .restartOutput | .resetFullEffect _ | .resetPipeline => true
  | .frameStart _ | .syncPulse _ | .ownStart _ | .lineDeadline => true
  | .warpLineBegin _ | .warpPixel .. | .tileFillComplete .. | .tileFillTimeout .. | .lightPixelWrite .. => true
  | .statusReport .. | .reverseCarrierLost _ | .reportTimeout _ | .settleExpiry _ | .relockExpiry _ => true
  | _ => false

/-- Every other command leaves the presentation alone, but for the storage cells that go bad during it. -/
theorem exec_presentation {i : Instr} (hi : i.presents = false) (s : State) :
    Leaves (exec i s) (·.presentation = (s.upsets (carriedUpsets i)).presentation) := by
  cases i with
  | pinReset | restartOutput | resetFullEffect | resetPipeline => cases hi
  | frameStart | syncPulse | ownStart | lineDeadline => cases hi
  | warpLineBegin | warpPixel | tileFillComplete | tileFillTimeout | lightPixelWrite => cases hi
  | statusReport | reverseCarrierLost | reportTimeout | settleExpiry | relockExpiry => cases hi
  | startupHeaderReadDone => exact execStartupHeaderReadDone_presentation s
  | imageCheckReadDone => exact execImageCheckReadDone_presentation s
  | startupLoadDone => exact execStartupLoadDone_presentation s
  | inputCarrierDetected k => exact execInputCarrierDetected_presentation k s
  | inputTrainingDone k => exact execInputTrainingDone_presentation k s
  | inputLinkLost k => exact execInputLinkLost_presentation k s
  | frameOpen k record => exact execFrameOpen_presentation k record s
  | line k record => exact execLine_presentation k record s
  | frameClose k record => exact execFrameClose_presentation k record s
  | recordUnknown k record => exact leaves_next.2 rfl
  | cell k record => exact execCell_presentation k record s
  | identify => exact leaves_serve_presentation s State.identifyCommand_presentation
  | status => exact leaves_serve_presentation s State.statusCommand_presentation
  | set => exact leaves_serve_presentation s State.setCommand_presentation
  | get => exact leaves_serve_presentation s State.getCommand_presentation
  | clear => exact leaves_serve_presentation s State.clearCommand_presentation
  | faultRead => exact leaves_serve_presentation s State.faultReadCommand_presentation
  | resetFull => exact leaves_serve_presentation s State.resetFullCommand_presentation
  | badCommand => exact leaves_serve_presentation s fun _ _ => rfl
  | tableOpen => exact leaves_serve_presentation s State.openCommand_presentation
  | tableWrite => exact leaves_serve_presentation s State.writeCommand_presentation
  | tableRead us => exact leaves_serve_presentation (s.upsets us) State.readCommand_presentation
  | tableSeal => exact leaves_serve_presentation s State.sealCommand_presentation
  | tableDropStaged => exact leaves_serve_presentation s State.dropCommand_presentation
  | tableDropLive => exact leaves_serve_presentation s State.dropCommand_presentation
  | tableSwap => exact leaves_serve_presentation s State.swapCommand_presentation
  | tableList => exact leaves_serve_presentation s State.listCommand_presentation
  | store => exact leaves_serve_presentation s State.storeCommand_presentation
  | load => exact leaves_serve_presentation s State.loadCommand_presentation
  | defaultFillPageDone => exact execDefaultFillPageDone_presentation s
  | completionEnqueue op => exact execCompletionEnqueue_presentation op s
  | storePhaseDone us => exact execStorePhaseDone_presentation us s
  | flashWriteFailed done => exact execFlashWriteFailed_presentation done s
  | loadReadDone => exact execLoadReadDone_presentation s
  | reverseLaneSend k => exact execReverseLaneSend_presentation k s
  | reverseSendEnd k => exact execReverseSendEnd_presentation k s
  | musterHandle token => exact execMusterHandle_presentation token s
  | musterReturn token => exact execMusterReturn_presentation token s
  | showHandle token => exact execShowHandle_presentation token s
  | showReturn token => exact execShowReturn_presentation token s

end Sys2Proof
end

section
/-! SUPPORT. What a port's move, a frame start and a line deadline leave in the units of each channel, said once for every
channel. -/

namespace Sys2Proof.Machine

/-! ### Latches -/

/-- Raising a condition: its latch, perhaps its notice, and every other latch as it was. -/
theorem State.raise_eq (s : State) (c : Cond) :
    ∃ (b : BitVec 45) (ns : List Notice), s.raise c = { s with latches := b, notices := ns }
      ∧ ∀ d : Cond, b.getLsbD d = (decide (d = c) || s.latches.getLsbD d) := by
  obtain ⟨ns, h⟩ := s.raise_spec c
  refine ⟨_, ns, h, fun d => ?_⟩
  have hl := s.raise_latch c d
  rwa [h] at hl

/-- Faults recorded: the log and the overflow flag, and of the latches at most that of FAULT_LOGGED. -/
theorem State.recordFaults_eq (s : State) (fs : List FaultRecord) :
    ∃ (gs : List FaultRecord) (o : Bool) (b : BitVec 45) (ns : List Notice),
      s.recordFaults fs = { s with faults := gs, overflow := o, latches := b, notices := ns }
      ∧ ∀ d, d ≠ Cond.faultLogged → b.getLsbD d = s.latches.getLsbD d := by
  obtain ⟨gs, o, b, ns, h⟩ := s.recordFaults_spec fs
  refine ⟨gs, o, b, ns, h, fun d hd => ?_⟩
  obtain ⟨-, -, hl⟩ := s.recordFaults_logsFaults fs
  have hv : Cond.faultLogged.val ≠ d.val := fun e => hd (Fin.ext e.symm)
  rw [h] at hl
  dsimp only at hl
  split at hl
  · rw [hl.1, BitVec.getLsbD_or, BitVec.getLsbD_twoPow, decide_eq_false hv, Bool.and_false, Bool.or_false]
  · rw [hl.1]

/-! ### A port's move (R25, R47) -/

/-- Whether a move takes the port out of ACTIVE, be it for a moment. -/
def State.leavesActive (s : State) (k : Channel) (m : OutputPort × Bool) : Bool :=
  (s.outputs.get k).state == .active && (m.1.state != .active || m.2)

/-- The warp unit of a channel after a move of its port. -/
def State.movedWarp (s : State) (k : Channel) (m : OutputPort × Bool) : WarpUnit :=
  if s.leavesActive k m then { s.warps.get k with walk := none } else s.warps.get k

/-- The light unit of a channel after a move of its port. -/
def State.movedLight (s : State) (k : Channel) (m : OutputPort × Bool) : LightUnit :=
  if s.leavesActive k m then { s.lights.get k with form := .noLines, held := [], buffers := [] } else s.lights.get k

/-- A port's move: the port and the units of its channel, and with OUTPUT_CHANGE the latch and perhaps a notice. -/
theorem State.movePort_eq (s : State) (k : Channel) (m : OutputPort × Bool) :
    ∃ (b : BitVec 45) (ns : List Notice),
      s.movePort k m = { s with
        outputs := s.outputs.set k m.1
        warps := s.warps.set k (s.movedWarp k m)
        lights := s.lights.set k (s.movedLight k m)
        latches := b
        notices := ns }
      ∧ (∀ d, d ≠ Cond.outputChange k → b.getLsbD d = s.latches.getLsbD d)
      ∧ (m.2 = false → b = s.latches ∧ ns = s.notices) := by
  have hstop : (if s.leavesActive k m = true then (s.setOutput k m.1).stopChannel k else s.setOutput k m.1) =
      { s with outputs := s.outputs.set k m.1, warps := s.warps.set k (s.movedWarp k m),
               lights := s.lights.set k (s.movedLight k m) } := by
    unfold State.movedWarp State.movedLight
    split
    · rfl
    · rw [Quad.set_get, Quad.set_get]
      rfl
  have he : s.movePort k m = if m.2 = true then
      (if s.leavesActive k m = true then (s.setOutput k m.1).stopChannel k else s.setOutput k m.1).raise (Cond.outputChange k)
      else if s.leavesActive k m = true then (s.setOutput k m.1).stopChannel k else s.setOutput k m.1 := rfl
  rw [he, hstop]
  split
  · rename_i hm
    obtain ⟨b, ns, h, hb⟩ := State.raise_eq { s with
      outputs := s.outputs.set k m.1, warps := s.warps.set k (s.movedWarp k m), lights := s.lights.set k (s.movedLight k m) }
      (Cond.outputChange k)
    exact ⟨b, ns, h, fun d hd => (hb d).trans (by rw [decide_eq_false hd, Bool.false_or]), fun hf => absurd hm (by simp [hf])⟩
  · exact ⟨s.latches, s.notices, rfl, fun _ _ => rfl, fun _ => ⟨rfl, rfl⟩⟩

/-- A move touches of the warp unit its walk alone. -/
theorem State.movedWarp_frame (s : State) (k : Channel) (m : OutputPort × Bool) :
    ∃ x, s.movedWarp k m = { s.warps.get k with walk := x } := by
  unfold State.movedWarp
  split
  · exact ⟨none, rfl⟩
  · exact ⟨(s.warps.get k).walk, rfl⟩

/-! ### The raster change (R126) -/

/-- The port of a channel after a raster change. -/
def State.rasterPort (s : State) (k : Channel) : OutputPort :=
  if s.rasterDiffers && s.hasOutput k then ((s.outputs.get k).rasterChanged s.settings s.now).1 else s.outputs.get k

/-- The move of one port in a raster change. -/
theorem State.rasterMove_eq (s : State) (k : Channel) :
    ∃ (p : OutputPort) (x : Option Walk) (u : LightUnit) (b : BitVec 45) (ns : List Notice),
      (if s.hasOutput k then s.movePort k ((s.outputs.get k).rasterChanged s.settings s.now) else s) = { s with
        outputs := s.outputs.set k p
        warps := s.warps.set k { s.warps.get k with walk := x }
        lights := s.lights.set k u
        latches := b
        notices := ns }
      ∧ p = (if s.hasOutput k then ((s.outputs.get k).rasterChanged s.settings s.now).1 else s.outputs.get k)
      ∧ (s.hasOutput k = false → x = (s.warps.get k).walk ∧ u = s.lights.get k)
      ∧ ∀ d, (∀ j, d ≠ Cond.outputChange j) → b.getLsbD d = s.latches.getLsbD d := by
  split
  · rename_i hk
    obtain ⟨b, ns, h, hb, -⟩ := s.movePort_eq k ((s.outputs.get k).rasterChanged s.settings s.now)
    obtain ⟨x, hx⟩ := s.movedWarp_frame k ((s.outputs.get k).rasterChanged s.settings s.now)
    rw [hx] at h
    exact ⟨_, x, _, b, ns, h, rfl, fun hn => absurd hk (by simp [hn]), fun d hd => hb d (hd k)⟩
  · refine ⟨s.outputs.get k, (s.warps.get k).walk, s.lights.get k, s.latches, s.notices, ?_, rfl, fun _ => ⟨rfl, rfl⟩,
      fun _ _ => rfl⟩
    have hw : s.warps.set k { s.warps.get k with walk := (s.warps.get k).walk } = s.warps := Quad.set_get _ _
    rw [hw, Quad.set_get, Quad.set_get]

/-- A raster change: afterwards the raster in force is the stored one; the driven ports of the arrangement have gone to
SETTLING, and of the warp units at most the walks have changed. -/
theorem State.rasterChange_eq (s : State) :
    ∃ (p : Quad OutputPort) (w : Quad WarpUnit) (u : Quad LightUnit) (b : BitVec 45) (ns : List Notice),
      s.rasterChange = { s with
        timer := { s.timer with width := s.settings.rasterWidth, height := s.settings.rasterHeight,
                                periodUs := s.settings.framePeriodUs }
        outputs := p
        warps := w
        lights := u
        latches := b
        notices := ns }
      ∧ (∀ k, p.get k = s.rasterPort k)
      ∧ (∀ k, ∃ x, w.get k = { s.warps.get k with walk := x } ∧
          (s.hasOutput k = false → x = (s.warps.get k).walk ∧ u.get k = s.lights.get k))
      ∧ ∀ d, (∀ j, d ≠ Cond.outputChange j) → b.getLsbD d = s.latches.getLsbD d := by
  unfold State.rasterChange State.rasterPort
  by_cases hd : s.rasterDiffers = true
  · rw [if_pos hd, hd]
    simp only [foldl_channels, Bool.true_and]
    obtain ⟨p0, x0, u0, b0, n0, h0, hp0, hx0, hb0⟩ := State.rasterMove_eq { s with timer := { s.timer with
      width := s.settings.rasterWidth, height := s.settings.rasterHeight, periodUs := s.settings.framePeriodUs } } 0
    rw [h0]
    obtain ⟨p1, x1, u1, b1, n1, h1, hp1, hx1, hb1⟩ := State.rasterMove_eq _ 1
    rw [h1]
    obtain ⟨p2, x2, u2, b2, n2, h2, hp2, hx2, hb2⟩ := State.rasterMove_eq _ 2
    rw [h2]
    obtain ⟨p3, x3, u3, b3, n3, h3, hp3, hx3, hb3⟩ := State.rasterMove_eq _ 3
    rw [h3]
    exact ⟨_, _, _, b3, n3, rfl, forall_channel.2 ⟨hp0, hp1, hp2, hp3⟩,
      forall_channel.2 ⟨⟨x0, rfl, hx0⟩, ⟨x1, rfl, hx1⟩, ⟨x2, rfl, hx2⟩, ⟨x3, rfl, hx3⟩⟩,
      fun d hd => (hb3 d hd).trans ((hb2 d hd).trans ((hb1 d hd).trans (hb0 d hd)))⟩
  · rw [if_neg hd]
    have hsame := hd
    simp only [State.rasterDiffers, Bool.or_eq_true, bne_iff_ne, ne_eq, not_or, Decidable.not_not] at hsame
    obtain ⟨⟨hw, hh⟩, hp⟩ := hsame
    refine ⟨s.outputs, s.warps, s.lights, s.latches, s.notices, by rw [hw, hh, hp], fun k => ?_,
      fun k => ⟨(s.warps.get k).walk, rfl, fun _ => ⟨rfl, rfl⟩⟩, fun _ _ => rfl⟩
    simp [hd]

/-! ### The units of a channel at a frame start (R4, R22, R33, R34) -/

/-- The warp unit of a channel after a frame start. -/
def State.startedWarp (s : State) (k : Channel) : WarpUnit :=
  if s.hasChannel k then
    { s.warps.get k with
      cache := purgeCache (shownSlot (s.rings.get k).slots) (s.warps.get k).cache
      failed := if s.frameForm k == .walked then [] else (s.warps.get k).failed
      edgeMark := false
      mesh := s.takeTable (.mesh k)
      walk := if s.frameForm k == .walked then some ⟨0, 0, false, none⟩ else none }
  else s.warps.get k

/-- The light unit of a channel after a frame start. -/
def State.startedLight (s : State) (k : Channel) : LightUnit :=
  if s.hasChannel k then { params := some (s.takeParams k), form := s.frameForm k, held := [], buffers := [], handed := none }
  else s.lights.get k

theorem State.channelStart_eq (s : State) (k : Channel) :
    ∃ (gs : List FaultRecord) (o : Bool) (b : BitVec 45) (ns : List Notice),
      s.channelStart k = { s with
        warps := s.warps.set k (s.startedWarp k)
        lights := s.lights.set k (s.startedLight k)
        faults := gs
        overflow := o
        latches := b
        notices := ns }
      ∧ ∀ d, d ≠ Cond.faultLogged → b.getLsbD d = s.latches.getLsbD d := by
  unfold State.channelStart State.startedWarp State.startedLight
  split
  · exact State.recordFaults_eq _ _
  · exact ⟨s.faults, s.overflow, s.latches, s.notices, by rw [Quad.set_get, Quad.set_get], fun _ _ => rfl⟩

theorem State.channelStarts_eq (s : State) :
    ∃ (w : Quad WarpUnit) (u : Quad LightUnit) (gs : List FaultRecord) (o : Bool) (b : BitVec 45) (ns : List Notice),
      channels.foldl State.channelStart s =
        { s with warps := w, lights := u, faults := gs, overflow := o, latches := b, notices := ns }
      ∧ (∀ k, w.get k = s.startedWarp k ∧ u.get k = s.startedLight k)
      ∧ ∀ d, d ≠ Cond.faultLogged → b.getLsbD d = s.latches.getLsbD d := by
  rw [foldl_channels]
  obtain ⟨g0, o0, b0, n0, h0, hb0⟩ := s.channelStart_eq 0
  rw [h0]
  obtain ⟨g1, o1, b1, n1, h1, hb1⟩ := State.channelStart_eq _ 1
  rw [h1]
  obtain ⟨g2, o2, b2, n2, h2, hb2⟩ := State.channelStart_eq _ 2
  rw [h2]
  obtain ⟨g3, o3, b3, n3, h3, hb3⟩ := State.channelStart_eq _ 3
  rw [h3]
  exact ⟨_, _, g3, o3, b3, n3, rfl, forall_channel.2 ⟨⟨rfl, rfl⟩, ⟨rfl, rfl⟩, ⟨rfl, rfl⟩, ⟨rfl, rfl⟩⟩,
    fun d hd => (hb3 d hd).trans ((hb2 d hd).trans ((hb1 d hd).trans (hb0 d hd)))⟩

/-! ### The new frame -/

/-- The port with the mark of a new frame on its lane, where it drives the lane (R127). -/
def OutputPort.marked (p : OutputPort) : OutputPort :=
  { p with lane := p.lane ++ if p.state.drives then [.frameStart] else [] }

theorem State.beginFrame_eq (s : State) (own : Bool) :
    ∃ p : Quad OutputPort,
      s.beginFrame own = { s with
        timer := s.timer.begin s.now s.settings.musterOffset own
        syncPulses := if s.straps.role = .master then s.syncPulses + 1 else s.syncPulses
        outputs := p }
      ∧ ∀ k, p.get k = (s.outputs.get k).marked := by
  unfold State.beginFrame
  simp only [foldl_channels, State.sendItem_eq]
  exact ⟨_, rfl, forall_channel.2 ⟨rfl, rfl, rfl, rfl⟩⟩

/-! ### The frame start as a whole -/

/-- The part when the warp and light units come to their frame start: coherence, slots, tables, raster, output modes, loss
selector and fit test have had theirs. -/
def State.framed (s : State) : State :=
  ((s.showFrame.tablesAtFrameStart.rasterChange.takeModes).lossAtFrameStart
    (Quad.of fun k => (s.outputs.get k).state.up) s.coh.handedVector).fitTest

theorem State.frameStart_eq (s : State) (own : Bool) :
    s.frameStart own = (channels.foldl State.channelStart s.framed).beginFrame own := rfl

/-- What stands then: the raster in force is the stored one, the ports have taken the raster change, and of the warp units
at most the walks have changed, on a channel that the arrangement lacks nothing. -/
theorem State.framed_units (s : State) :
    s.framed.straps = s.straps ∧ s.framed.settings = s.settings ∧ s.framed.now = s.now
      ∧ s.framed.timer = { s.timer with width := s.settings.rasterWidth, height := s.settings.rasterHeight,
                                        periodUs := s.settings.framePeriodUs }
      ∧ (∀ k, s.framed.outputs.get k = s.rasterPort k)
      ∧ ∀ k, ∃ x, s.framed.warps.get k = { s.warps.get k with walk := x } ∧
          (s.hasChannel k = false → x = (s.warps.get k).walk ∧ s.framed.lights.get k = s.lights.get k) := by
  unfold State.framed
  obtain ⟨c, g1, o1, l1, n1, h1⟩ := s.showFrame_spec
  rw [h1]
  obtain ⟨d, sw, l2, n2, h2⟩ := State.tablesAtFrameStart_spec { s with
    coh := c, rings := Quad.of fun k => ((s.setCoh s.cohAtFrameStart).decideChannel s.coh.outcome k).1,
    free := s.free + 4, faults := g1, overflow := o1, latches := l1, notices := n1 }
  rw [h2]
  obtain ⟨p, w, u, l3, n3, h3, hp, hw, -⟩ := State.rasterChange_eq { s with
    coh := c, rings := Quad.of fun k => ((s.setCoh s.cohAtFrameStart).decideChannel s.coh.outcome k).1,
    free := s.free + 4, faults := g1, overflow := o1,
    tables := { s.tables with directory := d, swap := sw }, latches := l2, notices := n2 }
  rw [h3]
  obtain ⟨x, g4, o4, l4, n4, h4⟩ := State.lossAtFrameStart_spec (State.takeModes { s with
    coh := c, rings := Quad.of fun k => ((s.setCoh s.cohAtFrameStart).decideChannel s.coh.outcome k).1,
    free := s.free + 4, faults := g1, overflow := o1,
    tables := { s.tables with directory := d, swap := sw },
    timer := { s.timer with width := s.settings.rasterWidth, height := s.settings.rasterHeight,
                            periodUs := s.settings.framePeriodUs },
    outputs := p, warps := w, lights := u, latches := l3, notices := n3 })
    (Quad.of fun k => (s.outputs.get k).state.up) s.coh.handedVector
  rw [h4]
  exact ⟨rfl, rfl, rfl, rfl, hp, hw⟩

/-- The units after a frame start: each channel's warp and light unit as its frame begins on the state that the other
blocks have left, and its port with the mark of the frame. -/
theorem State.frameStart_units (s : State) (own : Bool) :
    let t := s.frameStart own
    t.straps = s.straps
      ∧ t.timer = RasterTimer.begin { s.timer with
          width := s.settings.rasterWidth, height := s.settings.rasterHeight, periodUs := s.settings.framePeriodUs }
          s.now s.settings.musterOffset own
      ∧ ∀ k, t.warps.get k = s.framed.startedWarp k ∧ t.lights.get k = s.framed.startedLight k
          ∧ t.outputs.get k = (s.rasterPort k).marked := by
  obtain ⟨hstraps, hsettings, hnow, htimer, hports, -⟩ := s.framed_units
  obtain ⟨w, u, gs, o, b, ns, h, hu, -⟩ := s.framed.channelStarts_eq
  rw [State.frameStart_eq, h]
  obtain ⟨p, h', hp⟩ := State.beginFrame_eq { s.framed with
    warps := w, lights := u, faults := gs, overflow := o, latches := b, notices := ns } own
  rw [h']
  refine ⟨hstraps, ?_, fun k => ⟨(hu k).1, (hu k).2, ?_⟩⟩
  · show RasterTimer.begin s.framed.timer s.framed.now s.framed.settings.musterOffset own = _
    rw [htimer, hnow, hsettings]
  · rw [← hports k]
    exact hp k

/-- A frame start keeps the caches sound. -/
theorem State.frameStart_cachesSound {s : State} (own : Bool) (h : s.cachesSound = true) :
    (s.frameStart own).cachesSound = true := by
  rw [State.cachesSound_iff] at h ⊢
  obtain ⟨-, -, hu⟩ := s.frameStart_units own
  obtain ⟨-, -, -, -, -, hw⟩ := s.framed_units
  intro k
  obtain ⟨x, hx, -⟩ := hw k
  have hs : (s.framed.warps.get k).cacheSound = true := by
    rw [hx]
    exact h k
  rw [(hu k).1, State.startedWarp]
  split
  · exact WarpUnit.purgeCache_sound hs _
  · exact hs

end Sys2Proof.Machine
end

section
/-! SUPPORT. What the deadline of a line leaves (R23, R24, R121, R127), and that every command keeps the tile caches
sound. -/

namespace Sys2Proof.Machine

/-! ### The deadline on one channel -/

/-- The port of a channel after the deadline of line `v`. -/
def State.deadlinePort (s : State) (v : Nat) (k : Channel) : OutputPort :=
  { s.outputs.get k with
    lane := (s.outputs.get k).lane ++ if (s.outputs.get k).state.drives then [s.laneLine k v] else [] }

/-- The warp unit of a channel after the deadline of line `v`. -/
def State.deadlineWarp (s : State) (v : Nat) (k : Channel) : WarpUnit :=
  { s.warps.get k with walk := (s.warps.get k).walk.map fun x => x.afterDeadline v }

/-- The light unit of a channel after the deadline of line `v`. -/
def State.deadlineLight (s : State) (v : Nat) (k : Channel) : LightUnit :=
  match (s.lights.get k).lineFor s.timer.width v with
  | none => s.lights.get k
  | some (codes, _) => (s.lights.get k).afterLine v codes

/-- Whether a pixel of line `v` takes a substitute. -/
def State.deadlineLate (s : State) (v : Nat) (k : Channel) : Bool :=
  match (s.lights.get k).lineFor s.timer.width v with
  | none => false
  | some (_, late) => late

theorem State.channelDeadline_eq (s : State) (v : Nat) (k : Channel) :
    ∃ (b : BitVec 45) (ns : List Notice),
      s.channelDeadline v k = { s with
        outputs := s.outputs.set k (s.deadlinePort v k)
        warps := s.warps.set k (s.deadlineWarp v k)
        lights := s.lights.set k (s.deadlineLight v k)
        latches := b
        notices := ns }
      ∧ ∀ d : Cond, b.getLsbD d = ((decide (d = Cond.sourceLate k) && s.deadlineLate v k) || s.latches.getLsbD d) := by
  unfold State.channelDeadline State.deadlineLight State.deadlineLate
  simp only [State.sendItem_eq]
  rcases (s.lights.get k).lineFor s.timer.width v with _ | ⟨codes, _ | _⟩
  · refine ⟨s.latches, s.notices, ?_, fun d => by rw [Bool.and_false, Bool.false_or]⟩
    simp only [Quad.set_get]
    rfl
  · exact ⟨s.latches, s.notices, rfl, fun d => by rw [Bool.and_false, Bool.false_or]⟩
  · obtain ⟨b, ns, h, hb⟩ := State.raise_eq _ (Cond.sourceLate k)
    exact ⟨b, ns, h, fun d => (hb d).trans (by rw [Bool.and_true]; rfl)⟩

/-! ### The deadline on the part -/

/-- The part at the deadline of line `v` when every channel has handed its line. -/
def State.lined (s : State) (v : Nat) : State :=
  channels.foldl (fun s k => s.channelDeadline v k) (s.advanceTo (s.timer.start + s.timer.deadline v))

theorem State.lined_eq (s : State) (v : Nat) :
    ∃ (p : Quad OutputPort) (w : Quad WarpUnit) (u : Quad LightUnit) (b : BitVec 45) (ns : List Notice),
      s.lined v = { s with
        now := max s.now (s.timer.start + s.timer.deadline v)
        outputs := p
        warps := w
        lights := u
        latches := b
        notices := ns }
      ∧ (∀ k, p.get k = s.deadlinePort v k ∧ w.get k = s.deadlineWarp v k ∧ u.get k = s.deadlineLight v k)
      ∧ (∀ k, b.getLsbD (Cond.sourceLate k) = (s.deadlineLate v k || s.latches.getLsbD (Cond.sourceLate k)))
      ∧ ∀ d : Cond, (∀ k, d ≠ Cond.sourceLate k) → b.getLsbD d = s.latches.getLsbD d := by
  unfold State.lined
  rw [foldl_channels]
  obtain ⟨b0, n0, h0, hb0⟩ := State.channelDeadline_eq (s.advanceTo (s.timer.start + s.timer.deadline v)) v 0
  rw [h0]
  obtain ⟨b1, n1, h1, hb1⟩ := State.channelDeadline_eq _ v 1
  rw [h1]
  obtain ⟨b2, n2, h2, hb2⟩ := State.channelDeadline_eq _ v 2
  rw [h2]
  obtain ⟨b3, n3, h3, hb3⟩ := State.channelDeadline_eq _ v 3
  rw [h3]
  have hb : ∀ d : Cond, b3.getLsbD d =
      ((decide (d = Cond.sourceLate 3) && s.deadlineLate v 3) || ((decide (d = Cond.sourceLate 2) && s.deadlineLate v 2)
        || ((decide (d = Cond.sourceLate 1) && s.deadlineLate v 1)
          || ((decide (d = Cond.sourceLate 0) && s.deadlineLate v 0) || s.latches.getLsbD d)))) := fun d => by
    rw [hb3, hb2, hb1, hb0]
    rfl
  refine ⟨_, _, _, b3, n3, rfl,
    forall_channel.2 ⟨⟨rfl, rfl, rfl⟩, ⟨rfl, rfl, rfl⟩, ⟨rfl, rfl, rfl⟩, ⟨rfl, rfl, rfl⟩⟩, ?_, ?_⟩
  · refine forall_channel.2 ⟨?_, ?_, ?_, ?_⟩ <;> rw [hb] <;> rfl
  · intro d hd
    simp only [hb, hd, decide_false, Bool.false_and, Bool.false_or]

/-- The muster point changes the coherence unit, the slot rings, RING_OUT, the free-value counter and muster done. -/
theorem State.musterAt_spec (s : State) (v : Nat) :
    ∃ (c : Coherence) (r : Quad SlotRing) (m : List Bytes) (n : Nat),
      s.musterAt v = { s with
        coh := c
        rings := r
        ringOut := m
        free := n
        timer := { s.timer with musterDone := s.timer.musterDone || decide (v = s.timer.musterLine) } } := by
  unfold State.musterAt
  split
  · rename_i h
    simp only [Bool.and_eq_true, decide_eq_true_eq, Bool.not_eq_true'] at h
    obtain ⟨c, r, m, n, hm⟩ := State.musterPoint_spec { s with timer := { s.timer with musterDone := true } }
    refine ⟨c, r, m, n, hm.trans ?_⟩
    simp [h.1]
  · rename_i h
    refine ⟨s.coh, s.rings, s.ringOut, s.free, ?_⟩
    have hd : (s.timer.musterDone || decide (v = s.timer.musterLine)) = s.timer.musterDone := by
      cases hm : s.timer.musterDone <;> simp_all
    rw [hd]

/-- A line deadline leaves each channel's port and units as the handing of its line does, and the timer at the next line. -/
theorem State.deadlineOf_eq (s : State) (v : Nat) :
    ∃ (p : Quad OutputPort) (w : Quad WarpUnit) (u : Quad LightUnit) (b : BitVec 45) (ns : List Notice)
      (c : Coherence) (r : Quad SlotRing) (m : List Bytes) (n : Nat),
      s.deadlineOf v = { s with
        now := max s.now (s.timer.start + s.timer.deadline v)
        outputs := p
        warps := w
        lights := u
        latches := b
        notices := ns
        coh := c
        rings := r
        ringOut := m
        free := n
        timer := { s.timer with
          phase := if v + 1 < s.timer.height then .activeLines (v + 1) else .blanking
          musterDone := s.timer.musterDone || decide (v = s.timer.musterLine) } }
      ∧ ∀ k, p.get k = s.deadlinePort v k ∧ w.get k = s.deadlineWarp v k ∧ u.get k = s.deadlineLight v k := by
  obtain ⟨p, w, u, b, ns, h, hu, -, -⟩ := s.lined_eq v
  show ∃ p w u b ns c r m n,
    (if (State.musterAt { s.lined v with timer := (s.lined v).timer.afterDeadline v } v).timer.phase = .blanking then (State.musterAt { s.lined v with timer := (s.lined v).timer.afterDeadline v } v).frameEndRound
    else State.musterAt { s.lined v with timer := (s.lined v).timer.afterDeadline v } v) = _ ∧ _
  obtain ⟨c, r, m, n, hm⟩ := State.musterAt_spec { s.lined v with timer := (s.lined v).timer.afterDeadline v } v
  rw [hm, h]
  split
  · obtain ⟨c', m', n', he⟩ := State.frameEndRound_spec _
    rw [he]
    exact ⟨p, w, u, b, ns, c', r, m', n', rfl, hu⟩
  · exact ⟨p, w, u, b, ns, c, r, m, n, rfl, hu⟩

end Sys2Proof.Machine
end

section
/-! SUPPORT. What a channel presents (R5, R25, R34, R47, R129): the part of the state that a sound output rests on, and how
the moves of a port keep it. -/

namespace Sys2Proof.Machine

/-! ### Ports -/

theorem OutputPort.sound_iff (p : OutputPort) : p.sound = true ↔
    (p.expires.isSome = true ↔ p.state = .settling ∨ p.state = .retrain) ∧ (p.state = .absent → p.lock = .none) := by
  unfold OutputPort.sound
  rw [Bool.and_eq_true, beq_iff_eq, Bool.eq_iff_iff]
  simp only [Bool.or_eq_true, beq_iff_eq, bne_iff_ne, ne_eq, Decidable.imp_iff_not_or]

theorem OutputPort.relockExpired_sound (p : OutputPort) : p.relockExpired.1.sound = true :=
  (OutputPort.sound_iff _).2 (by simp [OutputPort.relockExpired])

theorem OutputPort.enterRetrain_sound (p : OutputPort) (st : Settings) (now : Nat) : (p.enterRetrain st now).1.sound = true := by
  unfold OutputPort.enterRetrain
  dsimp only
  split
  · exact OutputPort.relockExpired_sound _
  · exact (OutputPort.sound_iff _).2 (by simp)

theorem OutputPort.settleExpired_sound (p : OutputPort) (st : Settings) (now : Nat) : (p.settleExpired st now).1.sound = true := by
  unfold OutputPort.settleExpired
  dsimp only
  split
  · exact OutputPort.enterRetrain_sound _ st now
  · exact (OutputPort.sound_iff _).2 (by simp)

theorem OutputPort.enterSettling_sound (p : OutputPort) (st : Settings) (now : Nat) : (p.enterSettling st now).1.sound = true := by
  unfold OutputPort.enterSettling
  dsimp only
  split
  · exact OutputPort.settleExpired_sound _ st now
  · exact (OutputPort.sound_iff _).2 (by simp)

theorem OutputPort.presenceLost_sound (p : OutputPort) : p.presenceLost.1.sound = true :=
  (OutputPort.sound_iff _).2 (by simp [OutputPort.presenceLost])

/-- A report keeps a port sound: an ABSENT port has no lock record, so its first report takes it to SETTLING. -/
theorem OutputPort.report_sound {p : OutputPort} (h : p.sound = true) (locked : Bool) (st : Settings) (now : Nat) :
    (p.report locked st now).1.sound = true := by
  obtain ⟨hexp, habs⟩ := p.sound_iff.1 h
  unfold OutputPort.report
  dsimp only
  split
  · exact OutputPort.enterSettling_sound _ st now
  · exact OutputPort.enterRetrain_sound _ st now
  · exact (OutputPort.sound_iff _).2 (by simp)
  · rename_i hfirst _ _
    exact (OutputPort.sound_iff _).2 ⟨hexp, fun ha => absurd ha fun ha => hfirst (habs ha) ha⟩

theorem OutputPort.rasterChanged_sound {p : OutputPort} (h : p.sound = true) (st : Settings) (now : Nat) :
    (p.rasterChanged st now).1.sound = true := by
  unfold OutputPort.rasterChanged
  split
  · exact p.enterSettling_sound st now
  · exact h

/-- An item on the lane leaves a port as sound as it was. -/
theorem OutputPort.sound_lane (p : OutputPort) (lane : List LaneItem) : ({ p with lane := lane } : OutputPort).sound = p.sound := rfl

/-! ### What a channel presents -/

/-- What the invariant reads of a channel: whether the arrangement has it, its port's state, the raster, the walk, and the
light unit's form and pixels. -/
structure Presented where
  here : Bool
  port : PortState
  width : Nat
  height : Nat
  walk : Option Walk
  form : FrameForm
  held : List HeldPixel

/-- What the state presents on a channel. -/
def State.presented (s : State) (k : Channel) : Presented :=
  ⟨s.hasChannel k, (s.outputs.get k).state, s.timer.width, s.timer.height, (s.warps.get k).walk, (s.lights.get k).form,
    (s.lights.get k).held⟩

/-- The walk of a frame is within the raster, and a pixel that waits is one of the line. -/
def Walk.within (w : Walk) (width height : Nat) : Prop :=
  w.line < height ∧ w.col ≤ width ∧ (w.waiting = none ∨ w.col < width)

/-- Lines are handed only for a channel of the arrangement whose port is ACTIVE; walks, within the raster, and held pixels
exist only in a walked frame. -/
structure Presented.Sound (x : Presented) : Prop where
  lines : x.form = .noLines ∨ (x.here = true ∧ x.port = .active)
  walks : ∀ w, x.walk = some w → x.form = .walked ∧ w.within x.width x.height
  holds : x.held = [] ∨ x.form = .walked

theorem State.channelPresents_iff (s : State) (k : Channel) : s.channelPresents k = true ↔ (s.presented k).Sound := by
  have hs : (s.presented k).Sound ↔ ((s.presented k).form = .noLines ∨ (s.hasChannel k = true ∧ (s.outputs.get k).state = .active))
      ∧ (∀ w, (s.warps.get k).walk = some w → (s.lights.get k).form = .walked ∧ w.within s.timer.width s.timer.height)
      ∧ ((s.lights.get k).held = [] ∨ (s.lights.get k).form = .walked) :=
    ⟨fun ⟨h1, h2, h3⟩ => ⟨h1, h2, h3⟩, fun ⟨h1, h2, h3⟩ => ⟨h1, h2, h3⟩⟩
  rw [hs]
  unfold State.channelPresents
  cases (s.warps.get k).walk <;> simp [State.presented, walkInside, Walk.within, and_assoc]

/-- The next deadline is of a line of the raster. -/
def RasterTimer.deadlineInside (t : RasterTimer) : Prop := ∀ v, t.phase = .activeLines v → v < t.height

theorem State.outputsSound_iff (s : State) : s.outputsSound = true ↔
    (∀ k, (s.presented k).Sound ∧ (s.outputs.get k).sound = true) ∧ s.timer.deadlineInside := by
  unfold State.outputsSound RasterTimer.deadlineInside
  rw [Bool.and_eq_true, channels_all]
  simp only [Bool.and_eq_true, State.channelPresents_iff]
  cases s.timer.phase <;> simp

/-- A channel that hands no line, walks no frame and holds no pixel presents soundly whatever its port does. -/
theorem Presented.sound_of_stopped {x : Presented} (hf : x.form = .noLines) (hw : x.walk = none) (hh : x.held = []) : x.Sound :=
  ⟨Or.inl hf, fun w h => absurd (hw.symm.trans h) (by simp), Or.inl hh⟩

/-- A channel whose port is not ACTIVE, or that the arrangement lacks, hands no line, walks no frame and holds no pixel. -/
theorem Presented.Sound.stopped {x : Presented} (h : x.Sound) (hx : ¬(x.here = true ∧ x.port = .active)) :
    x.form = .noLines ∧ x.walk = none ∧ x.held = [] := by
  have hf : x.form = .noLines := h.lines.resolve_right hx
  have hnw : x.form ≠ .walked := by simp [hf]
  refine ⟨hf, ?_, h.holds.resolve_right hnw⟩
  cases hw : x.walk with
  | none => rfl
  | some w => exact absurd (h.walks w hw).1 hnw

/-- The invariant of the outputs is kept by a change that presents the same on every channel with sound ports. -/
theorem State.outputsSound_of_presented {s t : State} (h : s.outputsSound = true) (hp : ∀ k, t.presented k = s.presented k)
    (ho : ∀ k, (t.outputs.get k).sound = true) (ht : t.timer.phase = s.timer.phase) (hh : t.timer.height = s.timer.height) :
    t.outputsSound = true := by
  obtain ⟨hk, hd⟩ := s.outputsSound_iff.1 h
  refine t.outputsSound_iff.2 ⟨fun k => ⟨by rw [hp]; exact (hk k).1, ho k⟩, ?_⟩
  unfold RasterTimer.deadlineInside
  rwa [ht, hh]

/-- The invariant reads the presentation alone. -/
theorem State.outputsSound_of_presentation {s t : State} (ht : t.presentation = s.presentation) (h : s.outputsSound = true) :
    t.outputsSound = true := by
  have htimer : t.timer = s.timer := congrArg (·.1) ht
  have hstraps : t.straps = s.straps := congrArg (·.2.1) ht
  have hwarps : t.warps = s.warps := congrArg (·.2.2.1) ht
  have hlights : t.lights = s.lights := congrArg (·.2.2.2.1) ht
  have houtputs : t.outputs = s.outputs := congrArg (·.2.2.2.2) ht
  refine State.outputsSound_of_presented h (fun k => ?_) (fun k => ?_) (by rw [htimer]) (by rw [htimer])
  · rw [State.presented, State.presented, State.hasChannel, State.hasChannel, htimer, hstraps, hwarps, hlights, houtputs]
  · rw [houtputs]
    exact ((s.outputsSound_iff.1 h).1 k).2

/-- Storage going bad changes nothing that the invariant reads. -/
theorem State.upsets_outputsSound {s : State} (us : List Upset) (h : s.outputsSound = true) :
    (s.upsets us).outputsSound = true := by
  have hwalk := s.upsets_walk us
  obtain ⟨dir, w, hu⟩ := s.upsets_spec us
  rw [hu] at hwalk ⊢
  refine State.outputsSound_of_presented h (fun k => ?_) (fun k => ((s.outputsSound_iff.1 h).1 k).2) rfl rfl
  show Presented.mk _ _ _ _ _ _ _ = Presented.mk _ _ _ _ _ _ _
  rw [Presented.mk.injEq]
  exact ⟨rfl, rfl, rfl, rfl, hwalk k, rfl, rfl⟩

/-- A change on one channel that presents soundly there keeps the invariant. -/
theorem State.outputsSound_of_channel {s t : State} {k : Channel} (h : s.outputsSound = true) (ht : t.timer = s.timer)
    (hother : ∀ j, j ≠ k → t.presented j = s.presented j ∧ t.outputs.get j = s.outputs.get j)
    (hk : (t.presented k).Sound) (hp : (t.outputs.get k).sound = true) : t.outputsSound = true := by
  obtain ⟨hs, hd⟩ := s.outputsSound_iff.1 h
  refine t.outputsSound_iff.2 ⟨fun j => ?_, by rwa [ht]⟩
  by_cases hj : j = k
  · rw [hj]
    exact ⟨hk, hp⟩
  · obtain ⟨hpj, hoj⟩ := hother j hj
    rw [hpj, hoj]
    exact hs j

/-! ### Moves of a port -/

/-- A move to a sound port keeps the invariant: a port that leaves ACTIVE stops its channel, and one that was not ACTIVE
presented nothing. -/
theorem State.movePort_outputsSound {s : State} (h : s.outputsSound = true) (k : Channel) {m : OutputPort × Bool}
    (hm : m.1.sound = true) : (s.movePort k m).outputsSound = true := by
  obtain ⟨b, ns, he, -, -⟩ := s.movePort_eq k m
  have hk := ((s.outputsSound_iff.1 h).1 k).1
  rw [he]
  refine State.outputsSound_of_channel (k := k) h rfl (fun j hj => ?_) ?_ (by simpa using hm)
  · simp [State.presented, State.hasChannel, hj]
  · by_cases hl : s.leavesActive k m = true
    · refine Presented.sound_of_stopped ?_ ?_ ?_ <;> simp [State.presented, State.movedWarp, State.movedLight, hl]
    · have hw : s.movedWarp k m = s.warps.get k := if_neg hl
      have hu : s.movedLight k m = s.lights.get k := if_neg hl
      by_cases ha : (s.outputs.get k).state = .active
      · have hma : m.1.state = .active := by
          by_contra hne
          simp [State.leavesActive, ha, hne] at hl
        convert hk using 1
        simp [State.presented, State.hasChannel, hw, hu, ha, hma]
      · obtain ⟨hf, hn, hh⟩ := hk.stopped fun hx => ha hx.2
        refine Presented.sound_of_stopped ?_ ?_ ?_
        · simpa [State.presented, hu] using hf
        · simpa [State.presented, hw] using hn
        · simpa [State.presented, hu] using hh

end Sys2Proof.Machine
end

section
/-! SUPPORT. Frame starts, line deadlines, the work on pixels and the resets keep the outputs sound. -/

namespace Sys2Proof.Machine

/-! ### Frame starts -/

/-- A form that hands lines needs a channel of the arrangement with its port ACTIVE (R34). -/
theorem State.frameForm_lines (s : State) (k : Channel) :
    s.frameForm k = .noLines ∨ (s.hasChannel k = true ∧ (s.outputs.get k).state = .active) := by
  unfold State.frameForm
  split
  · exact Or.inl rfl
  · rename_i h
    simp only [Bool.or_eq_true, Bool.not_eq_true', bne_iff_ne, ne_eq, not_or, Bool.not_eq_false, Decidable.not_not] at h
    exact Or.inr h

/-- A frame start on a raster with lines keeps the outputs sound. -/
theorem State.frameStart_outputsSound {s : State} (own : Bool) (hh : 0 < s.settings.rasterHeight) (h : s.outputsSound = true) :
    (s.frameStart own).outputsSound = true := by
  obtain ⟨hstraps, htimer, hu⟩ := s.frameStart_units own
  obtain ⟨hfstraps, -, -, -, hfports, hfw⟩ := s.framed_units
  obtain ⟨hs, -⟩ := s.outputsSound_iff.1 h
  have hchan : ∀ k, s.framed.hasChannel k = s.hasChannel k := fun k => by rw [State.hasChannel, hfstraps]; rfl
  refine (State.outputsSound_iff _).2 ⟨fun k => ?_, ?_⟩
  · obtain ⟨hw, hl, ho⟩ := hu k
    obtain ⟨x, hx, hlack⟩ := hfw k
    have hhere : (s.frameStart own).hasChannel k = s.hasChannel k := by rw [State.hasChannel, hstraps]; rfl
    constructor
    · by_cases hk : s.hasChannel k = true
      · have hform : ((s.frameStart own).lights.get k).form = s.framed.frameForm k := by
          rw [hl, State.startedLight, if_pos ((hchan k).trans hk)]
        have hwalk : ((s.frameStart own).warps.get k).walk =
            if s.framed.frameForm k == .walked then some ⟨0, 0, false, none⟩ else none := by
          rw [hw, State.startedWarp, if_pos ((hchan k).trans hk)]
        have hheld : ((s.frameStart own).lights.get k).held = [] := by
          rw [hl, State.startedLight, if_pos ((hchan k).trans hk)]
        refine ⟨?_, fun w hw => ?_, Or.inl hheld⟩
        · refine (s.framed.frameForm_lines k).imp hform.trans fun ⟨_, ha⟩ => ⟨hhere.trans hk, ?_⟩
          show ((s.frameStart own).outputs.get k).state = _
          rw [ho, ← hfports k]
          exact ha
        · have hw' := hwalk.symm.trans hw
          split at hw'
          · rename_i hf
            cases Option.some.inj hw'
            refine ⟨hform.trans (eq_of_beq hf), ?_, Nat.zero_le _, Or.inl rfl⟩
            show 0 < (s.frameStart own).timer.height
            rw [htimer]
            exact hh
          · cases hw'
      · rw [Bool.not_eq_true] at hk
        obtain ⟨hf, hn, hd⟩ := (hs k).1.stopped fun hx => Bool.false_ne_true (hk.symm.trans hx.1)
        have hlight : (s.frameStart own).lights.get k = s.lights.get k := by
          rw [hl, State.startedLight, if_neg (by rw [hchan, hk]; simp), (hlack hk).2]
        refine Presented.sound_of_stopped ?_ ?_ ?_
        · show ((s.frameStart own).lights.get k).form = _
          rw [hlight]
          exact hf
        · show ((s.frameStart own).warps.get k).walk = _
          rw [hw, State.startedWarp, if_neg (by rw [hchan, hk]; simp), hx]
          exact (hlack hk).1.trans hn
        · show ((s.frameStart own).lights.get k).held = _
          rw [hlight]
          exact hd
    · rw [ho, OutputPort.marked, OutputPort.sound_lane, State.rasterPort]
      split
      · exact OutputPort.rasterChanged_sound (hs k).2 _ _
      · exact (hs k).2
  · intro v hv
    rw [htimer] at hv ⊢
    cases hv
    exact hh

theorem State.settingsSound_height {s : State} (h : s.settingsSound = true) : 0 < s.settings.rasterHeight := by
  simp only [State.settingsSound, rasterLegal, Bool.and_eq_true, decide_eq_true_eq] at h
  omega

theorem State.ownerFrame_outputsSound {s : State} (hh : 0 < s.settings.rasterHeight) (h : s.outputsSound = true) :
    s.ownerFrame.outputsSound = true :=
  State.outputsSound_of_presentation (State.levelNotices_presentation _ _) (State.frameStart_outputsSound false hh h)

theorem State.followerFrame_outputsSound {s : State} (own : Bool) (hh : 0 < s.settings.rasterHeight) (h : s.outputsSound = true) :
    (s.followerFrame own).outputsSound = true :=
  State.outputsSound_of_presentation (State.levelNotices_presentation _ _)
    (State.frameStart_outputsSound (s := s.setCoh (s.coh.countStart own)) own hh h)

theorem State.firstFrame_outputsSound {s : State} (hh : 0 < s.settings.rasterHeight) (h : s.outputsSound = true) :
    s.firstFrame.outputsSound = true := by
  unfold State.firstFrame
  split
  · exact h
  · exact State.ownerFrame_outputsSound hh h
  · exact State.ownerFrame_outputsSound hh h

/-! ### Resets -/

theorem State.resetValues_outputsSound (s : State) (straps : StrapRecord) (fs : List FaultRecord) (o : Bool) :
    (s.resetValues straps fs o).outputsSound = true := by
  refine (State.outputsSound_iff _).2 ⟨fun k => ⟨?_, ?_⟩, fun v hv => by cases hv⟩
  · refine Presented.sound_of_stopped ?_ ?_ ?_ <;>
      simp [State.presented, State.resetValues, State.reset, WarpUnit.reset, LightUnit.reset]
  · simp [State.resetValues, OutputPort.reset, OutputPort.sound]

/-- A PIPELINE reset ends every walk and drops every held pixel, and goes on with code 0 in a walked frame alone. -/
theorem State.pipelineReset_outputsSound {s : State} (h : s.outputsSound = true) : s.pipelineReset.outputsSound = true := by
  refine State.outputsSound_of_presentation (State.levelNotices_presentation _ _) ?_
  obtain ⟨hs, hd⟩ := s.outputsSound_iff.1 h
  refine (State.outputsSound_iff _).2 ⟨fun k => ⟨?_, (hs k).2⟩, hd⟩
  have hlight : ∀ l : LightUnit, l.pipelineReset.held = [] ∧ (l.pipelineReset.form = .noLines ↔ l.form = .noLines) := fun l => by
    unfold LightUnit.pipelineReset
    split <;> simp_all
  refine ⟨?_, fun w hw => ?_, Or.inl ?_⟩
  · refine (hs k).1.lines.imp_left fun hf => ?_
    simpa [State.presented, State.fitTest, State.setTables, State.clearSlots] using (hlight _).2.2 hf
  · simp [State.presented, State.fitTest, State.setTables, WarpUnit.pipelineReset] at hw
  · simpa [State.presented, State.fitTest, State.setTables] using (hlight _).1

/-! ### Line deadlines -/

/-- The lines that a light unit hands change neither its form nor the pixels it holds. -/
theorem State.deadlineLight_frame (s : State) (v : Nat) (k : Channel) :
    (s.deadlineLight v k).form = (s.lights.get k).form ∧ (s.deadlineLight v k).held = (s.lights.get k).held := by
  unfold State.deadlineLight
  split <;> exact ⟨rfl, rfl⟩

/-- A walk within the raster stays within it at the deadline of a line of the raster (R24). -/
theorem Walk.afterDeadline_within {w : Walk} {v width height : Nat} (hv : v < height) (h : w.within width height) :
    (w.afterDeadline v).within width height := by
  unfold Walk.afterDeadline
  split
  · exact ⟨hv, h.2.1, Or.inl rfl⟩
  · exact h

theorem State.deadlineOf_outputsSound {s : State} {v : Nat} (hv : s.timer.phase = .activeLines v) (h : s.outputsSound = true) :
    (s.deadlineOf v).outputsSound = true := by
  obtain ⟨hs, hd⟩ := s.outputsSound_iff.1 h
  obtain ⟨p, w, u, b, ns, c, r, m, n, he, hu⟩ := s.deadlineOf_eq v
  rw [he]
  refine (State.outputsSound_iff _).2 ⟨fun k => ?_, fun v' hv' => ?_⟩
  · obtain ⟨hp, hw, hl⟩ := hu k
    obtain ⟨hform, hheld⟩ := s.deadlineLight_frame v k
    obtain ⟨hlines, hwalks, hholds⟩ := (hs k).1
    refine ⟨⟨hlines.imp (fun hf => ?_) fun ha => ⟨ha.1, ?_⟩, fun x hx => ?_, hholds.imp (fun hn => ?_) fun hf => ?_⟩, ?_⟩
    · exact (congrArg LightUnit.form hl).trans (hform.trans hf)
    · exact (congrArg OutputPort.state hp).trans ha.2
    · rw [show (State.presented _ k).walk = (s.deadlineWarp v k).walk from congrArg WarpUnit.walk hw] at hx
      obtain ⟨x', hx', rfl⟩ := Option.map_eq_some_iff.1 hx
      obtain ⟨hf, hin⟩ := hwalks x' hx'
      exact ⟨(congrArg LightUnit.form hl).trans (hform.trans hf), Walk.afterDeadline_within (hd v hv) hin⟩
    · exact (congrArg LightUnit.held hl).trans (hheld.trans hn)
    · exact (congrArg LightUnit.form hl).trans (hform.trans hf)
    · exact (congrArg OutputPort.sound hp).trans (hs k).2
  · dsimp only at hv' ⊢
    split at hv'
    · cases hv'
      assumption
    · cases hv'

/-! ### Pixels -/

/-- A change of one channel's units alone, in a walked frame, keeps the outputs sound where the walk stays within the
raster. -/
theorem State.outputsSound_of_units {s t : State} {k : Channel} {w : WarpUnit} {l : LightUnit} (h : s.outputsSound = true)
    (htimer : t.timer = s.timer) (hstraps : t.straps = s.straps) (houtputs : t.outputs = s.outputs)
    (hw : t.warps = s.warps.set k w) (hl : t.lights = s.lights.set k l) (hform : l.form = (s.lights.get k).form)
    (hwalk : ∀ x, w.walk = some x → (s.lights.get k).form = .walked ∧ x.within s.timer.width s.timer.height)
    (hheld : l.held = [] ∨ (s.lights.get k).form = .walked) : t.outputsSound = true := by
  have hs := (s.outputsSound_iff.1 h).1
  have hchan : ∀ j, t.hasChannel j = s.hasChannel j := fun j => by rw [State.hasChannel, hstraps]; rfl
  refine State.outputsSound_of_channel (k := k) h htimer (fun j hj => ⟨?_, by rw [houtputs]⟩) ?_ (by rw [houtputs]; exact (hs k).2)
  · simp [State.presented, hchan, htimer, houtputs, hw, hl, hj]
  · refine ⟨?_, fun x hx => ?_, ?_⟩
    · simpa [State.presented, hchan, houtputs, hl, hform] using (hs k).1.lines
    · simp only [State.presented, hw, hl, htimer, Quad.get_set_same, hform] at hx ⊢
      exact hwalk x hx
    · simpa [State.presented, hl, hform] using hheld

/-- The work on a pixel of the line keeps the outputs sound. -/
theorem State.pixelWork_outputsSound {s t : State} {k : Channel} {walk : Walk} (h : s.outputsSound = true)
    (hwalk : (s.warps.get k).walk = some walk) (hcol : walk.col < s.timer.width) (hp : s.pixelWork t k walk) :
    t.outputsSound = true := by
  obtain ⟨u, ⟨w, gs, o, b, ns, rfl, hw, -⟩, ht⟩ := hp
  obtain ⟨hform, hin⟩ := ((s.outputsSound_iff.1 h).1 k).1.walks walk hwalk
  rcases ht with rfl | ⟨p, rfl⟩ | ⟨how, rfl⟩
  · exact State.outputsSound_of_units (l := s.lights.get k) h rfl rfl rfl rfl (Quad.set_get _ _).symm rfl
      (fun x hx => ((s.outputsSound_iff.1 h).1 k).1.walks x (hw.symm.trans hx)) (Or.inr hform)
  · refine State.outputsSound_of_units (l := s.lights.get k) h rfl rfl rfl (Quad.set_set ..) (Quad.set_get _ _).symm rfl
      (fun x hx => ?_) (Or.inr hform)
    cases Option.some.inj hx
    exact ⟨hform, hin.1, hin.2.1, Or.inr hcol⟩
  · refine State.outputsSound_of_units h rfl rfl rfl (Quad.set_set ..) rfl rfl (fun x hx => ?_) (Or.inr hform)
    cases Option.some.inj hx
    exact ⟨hform, hin.1, hcol, Or.inl rfl⟩

theorem State.warpPixel_outputsSound {s : State} {k : Channel} {walk : Walk} (h : s.outputsSound = true)
    (hwalk : (s.warps.get k).walk = some walk) : (s.warpPixel k walk).outputsSound = true := by
  rcases s.warpPixel_cases k walk with he | ⟨hcol, hp⟩
  · rwa [he]
  · exact State.pixelWork_outputsSound h hwalk hcol hp

/-- The pixel that goes on is one of the line. -/
theorem State.resumePixel_outputsSound {s : State} (k : Channel) (h : s.outputsSound = true) :
    (s.resumePixel k).outputsSound = true := by
  rcases s.resumePixel_cases k with he | ⟨walk, p, hwalk, hwait, hp⟩
  · rwa [he]
  · obtain ⟨-, -, -, hcol⟩ := ((s.outputsSound_iff.1 h).1 k).1.walks walk hwalk
    exact State.pixelWork_outputsSound h hwalk (hcol.resolve_left (by simp [hwait])) hp

/-- Work on a cache alone presents nothing else. -/
theorem State.setCache_outputsSound {s : State} (k : Channel) {w : WarpUnit} (hw : w.walk = (s.warps.get k).walk)
    (h : s.outputsSound = true) : (s.setWarp k w).outputsSound = true :=
  State.outputsSound_of_presented h
    (fun j => by simp only [State.presented, State.setWarp_walk s j k hw]; rfl)
    (fun j => ((s.outputsSound_iff.1 h).1 j).2) rfl rfl

theorem State.fillTimeout_outputsSound {s : State} (k : Channel) (read : Nat) (t : Tag) (cancelled : Bool)
    (h : s.outputsSound = true) : (s.fillTimeout k read t cancelled).outputsSound = true :=
  State.outputsSound_of_presentation (State.recordFault_presentation _ _) (State.setCache_outputsSound k rfl h)

theorem State.lightPixelWrite_outputsSound {s : State} {k : Channel} {params : FrameParameters} {p : HeldPixel}
    {rest : List HeldPixel} (hheld : (s.lights.get k).held = p :: rest) (h : s.outputsSound = true) :
    (s.lightPixelWrite k params p rest).outputsSound = true := by
  refine State.outputsSound_of_presentation (State.recordFaults_presentation _ _) ?_
  have hk := ((s.outputsSound_iff.1 h).1 k).1
  have hform : (s.lights.get k).form = .walked := hk.holds.resolve_left fun hn => by cases hheld.symm.trans hn
  exact State.outputsSound_of_units (w := s.warps.get k) h rfl rfl rfl (Quad.set_get _ _).symm rfl rfl hk.walks (Or.inr hform)

end Sys2Proof.Machine
end

section
/-! SUPPORT. Every command keeps the tile caches and the outputs sound: the two invariants as step statements. -/

namespace Sys2Proof.Machine

/-! ### Events of an output port -/

/-- What an event of a port leaves: nothing changed, or the port moved, at a moment that may be later, to a sound port if
it was sound. -/
def State.portEvent (s : State) (k : Channel) (t : State) : Prop :=
  t = s ∨ ∃ n m, t = (s.advanceTo n).movePort k m ∧ ((s.outputs.get k).sound = true → m.1.sound = true)

theorem State.advanceTo_now_self (s : State) : s.advanceTo s.now = s := by
  rw [State.advanceTo, Nat.max_self]

/-- A move at the present moment. -/
theorem State.portEvent_now {s : State} {k : Channel} {m : OutputPort × Bool}
    (hm : (s.outputs.get k).sound = true → m.1.sound = true) : s.portEvent k (s.movePort k m) :=
  Or.inr ⟨s.now, m, by rw [State.advanceTo_now_self], hm⟩

theorem execStatusReport_portEvent (k : Channel) (locked : Bool) (s : State) :
    Leaves (execStatusReport k locked s) (s.portEvent k) := by
  unfold execStatusReport
  split
  · exact leaves_next.2 (State.portEvent_now fun h => OutputPort.report_sound h locked _ _)
  · exact leaves_next.2 (Or.inl rfl)

theorem execReverseCarrierLost_portEvent (k : Channel) (s : State) : Leaves (execReverseCarrierLost k s) (s.portEvent k) := by
  unfold execReverseCarrierLost
  split
  · exact leaves_next.2 (State.portEvent_now fun _ => OutputPort.presenceLost_sound _)
  · exact leaves_next.2 (Or.inl rfl)

theorem execReportTimeout_portEvent (k : Channel) (s : State) : Leaves (execReportTimeout k s) (s.portEvent k) := by
  unfold execReportTimeout
  split
  · exact leaves_next.2 (Or.inr ⟨_, _, rfl, fun _ => OutputPort.presenceLost_sound _⟩)
  · exact leaves_next.2 (Or.inl rfl)

theorem execSettleExpiry_portEvent (k : Channel) (s : State) : Leaves (execSettleExpiry k s) (s.portEvent k) := by
  unfold execSettleExpiry
  dsimp only
  split
  · exact leaves_next.2 (Or.inr ⟨_, _, rfl, fun _ => OutputPort.settleExpired_sound _ _ _⟩)
  · exact leaves_next.2 (Or.inl rfl)

theorem execRelockExpiry_portEvent (k : Channel) (s : State) : Leaves (execRelockExpiry k s) (s.portEvent k) := by
  unfold execRelockExpiry
  dsimp only
  split
  · exact leaves_next.2 (Or.inr ⟨_, _, rfl, fun _ => OutputPort.relockExpired_sound _⟩)
  · exact leaves_next.2 (Or.inl rfl)

/-- RESTART OUTPUT refuses, or moves a port to a sound one. -/
theorem State.restartCommand_cases (c : Cell) (s : State) :
    (s.restartCommand c).state = s ∨ ∃ k m, (s.restartCommand c).state = s.movePort k m ∧ m.1.sound = true := by
  unfold State.restartCommand
  repeat' split
  · exact Or.inl rfl
  · exact Or.inl rfl
  · exact Or.inl rfl
  · exact Or.inl rfl
  · exact Or.inr ⟨_, _, rfl, OutputPort.enterSettling_sound _ _ _⟩

/-! ### Frame starts and resets -/

/-- What a command of the raster timer leaves: nothing changed, or a frame start at a moment that may be later. -/
def State.frameEvent (s t : State) : Prop :=
  t = s ∨ (∃ n, t = (s.advanceTo n).ownerFrame) ∨ ∃ n own, t = (s.advanceTo n).followerFrame own

theorem execFrameStart_frameEvent (us : List Upset) (s : State) : Leaves (execFrameStart us s) (s.upsets us).frameEvent := by
  unfold execFrameStart
  dsimp only
  split
  · exact leaves_next.2 (Or.inl rfl)
  · exact leaves_next.2 (Or.inr (Or.inl ⟨_, rfl⟩))
  · exact leaves_next.2 (Or.inr (Or.inl ⟨_, rfl⟩))

theorem execSyncPulse_frameEvent (us : List Upset) (s : State) : Leaves (execSyncPulse us s) (s.upsets us).frameEvent := by
  unfold execSyncPulse
  dsimp only
  split
  · exact leaves_next.2 (Or.inr (Or.inr ⟨_, false, by rw [State.advanceTo_now_self]⟩))
  · exact leaves_next.2 (Or.inl rfl)
  · exact leaves_next.2 (Or.inl rfl)

theorem execOwnStart_frameEvent (us : List Upset) (s : State) : Leaves (execOwnStart us s) (s.upsets us).frameEvent := by
  unfold execOwnStart
  dsimp only
  split
  · exact leaves_next.2 (Or.inr (Or.inr ⟨_, true, rfl⟩))
  · exact leaves_next.2 (Or.inl rfl)
  · exact leaves_next.2 (Or.inl rfl)

/-- What a pin or FULL reset leaves: nothing changed, or the reset values, on which the first frame start may follow. -/
def State.resetEvent (s t : State) : Prop :=
  t = s ∨ ∃ u straps fs o, t = (State.resetValues u straps fs o).firstFrame

theorem execPinReset_resetEvent (arr role : BitVec 2) (pos : BitVec 3) (done : Nat) (s : State) :
    Leaves (execPinReset arr role pos done s) s.resetEvent := leaves_next.2 (Or.inr ⟨_, _, _, _, rfl⟩)

theorem execResetFullEffect_resetEvent (done : Nat) (s : State) : Leaves (execResetFullEffect done s) s.resetEvent := by
  unfold execResetFullEffect
  repeat' split
  · exact leaves_next.2 (Or.inr ⟨_, _, _, _, rfl⟩)
  · exact leaves_next.2 (Or.inl rfl)
  · exact leaves_next.2 (Or.inl rfl)

theorem State.resetPipelineCommand_cases (c : Cell) (s : State) :
    (s.resetPipelineCommand c).state = s ∨ (s.resetPipelineCommand c).state = s.pipelineReset := by
  unfold State.resetPipelineCommand
  split
  · exact Or.inl rfl
  · exact Or.inr rfl

/-! ### Serving a command that works on the presentation -/

/-- Serving keeps an invariant of the presentation that the command keeps. -/
theorem State.serve_keeps {P : State → Prop} (hP : ∀ s t : State, t.presentation = s.presentation → P s → P t) {s : State}
    {mine : Cell → Bool} {command : Cell → State → Answer} (hc : ∀ c t, P t → P (command c t).state) (h : P s) :
    Leaves (.next (s.serve mine command)) P := by
  refine leaves_next.2 ?_
  rcases s.serve_cases mine command with he | ⟨c, rest, -, -, -, -, he⟩
  · rwa [he]
  · rw [he]
    exact hP _ _ (State.reply_presentation _ _ _) (hc c _ (hP s _ rfl h))

/-! ### The caches -/

theorem State.presentation_warps {s t : State} (h : t.presentation = s.presentation) : t.warps = s.warps :=
  congrArg (·.2.2.1) h

theorem State.cachesSound_of_presentation {s t : State} (ht : t.presentation = s.presentation) (h : s.cachesSound = true) :
    t.cachesSound = true := State.cachesSound_of_warps (State.presentation_warps ht) h

theorem State.ownerFrame_cachesSound {s : State} (h : s.cachesSound = true) : s.ownerFrame.cachesSound = true :=
  State.cachesSound_of_presentation (State.levelNotices_presentation _ _) (State.frameStart_cachesSound false h)

theorem State.frameEvent_cachesSound {s t : State} (h : s.cachesSound = true) (ht : s.frameEvent t) : t.cachesSound = true := by
  rcases ht with rfl | ⟨n, rfl⟩ | ⟨n, own, rfl⟩
  · exact h
  · exact State.ownerFrame_cachesSound (s := s.advanceTo n) h
  · exact State.cachesSound_of_presentation (State.levelNotices_presentation _ _)
      (State.frameStart_cachesSound (s := (s.advanceTo n).setCoh (s.coh.countStart own)) own h)

theorem State.resetEvent_cachesSound {s t : State} (h : s.cachesSound = true) (ht : s.resetEvent t) : t.cachesSound = true := by
  rcases ht with rfl | ⟨u, straps, fs, o, rfl⟩
  · exact h
  · have hr : (u.resetValues straps fs o).cachesSound = true :=
      (State.cachesSound_iff _).2 fun k => WarpUnit.cacheSound_empty _ (by simp [State.resetValues, WarpUnit.reset])
    unfold State.firstFrame
    split
    · exact hr
    · exact State.ownerFrame_cachesSound hr
    · exact State.ownerFrame_cachesSound hr

theorem State.pipelineReset_cachesSound (s : State) : s.pipelineReset.cachesSound = true := by
  refine State.cachesSound_of_presentation (State.levelNotices_presentation _ _) ?_
  exact (State.cachesSound_iff _).2 fun k =>
    WarpUnit.cacheSound_empty _ (by simp [State.fitTest, State.setTables, WarpUnit.pipelineReset])

theorem State.movePort_cachesSound {s : State} (k : Channel) (m : OutputPort × Bool) (h : s.cachesSound = true) :
    (s.movePort k m).cachesSound = true := by
  obtain ⟨b, ns, hm, -, -⟩ := s.movePort_eq k m
  obtain ⟨x, hx⟩ := s.movedWarp_frame k m
  rw [hm, hx]
  exact State.cachesSound_set h rfl id

theorem State.portEvent_cachesSound {s t : State} {k : Channel} (h : s.cachesSound = true) (ht : s.portEvent k t) :
    t.cachesSound = true := by
  rcases ht with rfl | ⟨n, m, rfl, -⟩
  · exact h
  · exact State.movePort_cachesSound k m h

theorem State.deadlineOf_cachesSound {s : State} (v : Nat) (h : s.cachesSound = true) : (s.deadlineOf v).cachesSound = true := by
  obtain ⟨p, w, u, b, ns, c, r, m, n, hd, hu⟩ := s.deadlineOf_eq v
  rw [hd]
  refine (State.cachesSound_iff _).2 fun k => ?_
  show (w.get k).cacheSound = true
  rw [(hu k).2.1]
  exact (State.cachesSound_iff s).1 h k

theorem State.warpPixel_cachesSound {s : State} (k : Channel) (walk : Walk) (h : s.cachesSound = true) :
    (s.warpPixel k walk).cachesSound = true := by
  rcases s.warpPixel_cases k walk with he | ⟨-, hw⟩
  · rwa [he]
  · exact State.pixelWork_cachesSound hw h

theorem State.resumePixel_cachesSound {s : State} (k : Channel) (h : s.cachesSound = true) :
    (s.resumePixel k).cachesSound = true := by
  rcases s.resumePixel_cases k with he | ⟨walk, p, -, -, hw⟩
  · rwa [he]
  · exact State.pixelWork_cachesSound hw h

theorem State.fillTimeout_cachesSound {s : State} (k : Channel) (read : Nat) (t : Tag) (cancelled : Bool)
    (h : s.cachesSound = true) : (s.fillTimeout k read t cancelled).cachesSound = true :=
  State.cachesSound_of_presentation (State.recordFault_presentation _ _)
    (State.cachesSound_set h rfl fun hw => WarpUnit.cacheSound_filter hw _)

/-- Every command keeps the caches sound. -/
theorem exec_cachesSound {s : State} (h : s.cachesSound = true) (i : Instr) : Leaves (exec i s) (·.cachesSound = true) := by
  by_cases hi : i.presents = false
  · exact fun t ht => State.cachesSound_of_presentation (exec_presentation hi s t ht) (State.upsets_sound _ h)
  cases i with
  | pinReset arr role pos done =>
    exact fun t ht => State.resetEvent_cachesSound h (execPinReset_resetEvent arr role pos done s t ht)
  | resetFullEffect done => exact fun t ht => State.resetEvent_cachesSound h (execResetFullEffect_resetEvent done s t ht)
  | restartOutput =>
    refine State.serve_keeps (fun _ _ => State.cachesSound_of_presentation) (fun c t ht => ?_) h
    rcases t.restartCommand_cases c with he | ⟨k, m, he, -⟩
    · rwa [he]
    · rw [he]
      exact State.movePort_cachesSound k m ht
  | resetPipeline =>
    refine State.serve_keeps (fun _ _ => State.cachesSound_of_presentation) (fun c t ht => ?_) h
    rcases t.resetPipelineCommand_cases c with he | he
    · rwa [he]
    · rw [he]
      exact t.pipelineReset_cachesSound
  | frameStart us =>
    exact fun t ht => State.frameEvent_cachesSound (State.upsets_sound us h) (execFrameStart_frameEvent us s t ht)
  | syncPulse us =>
    exact fun t ht => State.frameEvent_cachesSound (State.upsets_sound us h) (execSyncPulse_frameEvent us s t ht)
  | ownStart us =>
    exact fun t ht => State.frameEvent_cachesSound (State.upsets_sound us h) (execOwnStart_frameEvent us s t ht)
  | lineDeadline =>
    show Leaves (execLineDeadline s) _
    unfold execLineDeadline
    split
    · exact leaves_next.2 (State.deadlineOf_cachesSound _ h)
    · exact leaves_next.2 h
  | warpLineBegin k =>
    show Leaves (execWarpLineBegin k s) _
    unfold execWarpLineBegin
    dsimp only
    repeat' split
    · exact leaves_next.2 h
    · exact leaves_next.2 (State.cachesSound_set h rfl id)
    · exact leaves_next.2 h
  | warpPixel k us =>
    show Leaves (execWarpPixel k us s) _
    unfold execWarpPixel
    dsimp only
    split
    · exact leaves_next.2 (State.upsets_sound us h)
    · exact leaves_next.2 (State.warpPixel_cachesSound k _ (State.upsets_sound us h))
  | tileFillComplete k read us =>
    show Leaves (execTileFillComplete k read us s) _
    unfold execTileFillComplete
    dsimp only
    split
    · exact leaves_next.2 (State.upsets_sound us h)
    · exact leaves_next.2 (State.resumePixel_cachesSound k (State.upsets_sound us
        (State.cachesSound_set h rfl fun hw => WarpUnit.completeRead_sound hw _ read)))
  | tileFillTimeout k read us =>
    show Leaves (execTileFillTimeout k read us s) _
    unfold execTileFillTimeout
    dsimp only
    split
    · exact leaves_next.2 (State.resumePixel_cachesSound k
        (State.fillTimeout_cachesSound (s := (s.upsets us).advanceTo _) k read _ _ (State.upsets_sound us h)))
    · exact leaves_next.2 (State.upsets_sound us h)
    · exact leaves_next.2 (State.upsets_sound us h)
  | lightPixelWrite k us =>
    show Leaves (execLightPixelWrite k us s) _
    unfold execLightPixelWrite
    dsimp only
    split
    · exact leaves_next.2 (State.cachesSound_of_presentation (State.recordFaults_presentation _ _) (State.upsets_sound us h))
    · exact leaves_next.2 (State.upsets_sound us h)
  | statusReport k locked => exact fun t ht => State.portEvent_cachesSound h (execStatusReport_portEvent k locked s t ht)
  | reverseCarrierLost k => exact fun t ht => State.portEvent_cachesSound h (execReverseCarrierLost_portEvent k s t ht)
  | reportTimeout k => exact fun t ht => State.portEvent_cachesSound h (execReportTimeout_portEvent k s t ht)
  | settleExpiry k => exact fun t ht => State.portEvent_cachesSound h (execSettleExpiry_portEvent k s t ht)
  | relockExpiry k => exact fun t ht => State.portEvent_cachesSound h (execRelockExpiry_portEvent k s t ht)
  | _ => exact absurd rfl hi

/-! ### The outputs -/

theorem State.portEvent_outputsSound {s t : State} {k : Channel} (h : s.outputsSound = true) (ht : s.portEvent k t) :
    t.outputsSound = true := by
  rcases ht with rfl | ⟨n, m, rfl, hm⟩
  · exact h
  · exact State.movePort_outputsSound (s := s.advanceTo n) h k (hm ((s.outputsSound_iff.1 h).1 k).2)

theorem State.frameEvent_outputsSound {s t : State} (hh : 0 < s.settings.rasterHeight) (h : s.outputsSound = true)
    (ht : s.frameEvent t) : t.outputsSound = true := by
  rcases ht with rfl | ⟨n, rfl⟩ | ⟨n, own, rfl⟩
  · exact h
  · exact State.ownerFrame_outputsSound (s := s.advanceTo n) hh h
  · exact State.followerFrame_outputsSound (s := s.advanceTo n) own hh h

theorem State.resetEvent_outputsSound {s t : State} (h : s.outputsSound = true) (ht : s.resetEvent t) :
    t.outputsSound = true := by
  rcases ht with rfl | ⟨u, straps, fs, o, rfl⟩
  · exact h
  · exact State.firstFrame_outputsSound (by decide : 0 < Settings.reset.rasterHeight) (u.resetValues_outputsSound straps fs o)

/-- Every command keeps the outputs sound, where the stored raster has lines. -/
theorem exec_outputsSound {s : State} (hh : 0 < s.settings.rasterHeight) (h : s.outputsSound = true) (i : Instr) :
    Leaves (exec i s) (·.outputsSound = true) := by
  have hu : ∀ us : List Upset, 0 < (s.upsets us).settings.rasterHeight := fun us => by
    obtain ⟨dir, w, he⟩ := s.upsets_spec us
    rw [he]
    exact hh
  by_cases hi : i.presents = false
  · exact fun t ht => State.outputsSound_of_presentation (exec_presentation hi s t ht) (State.upsets_outputsSound _ h)
  cases i with
  | pinReset arr role pos done =>
    exact fun t ht => State.resetEvent_outputsSound h (execPinReset_resetEvent arr role pos done s t ht)
  | resetFullEffect done => exact fun t ht => State.resetEvent_outputsSound h (execResetFullEffect_resetEvent done s t ht)
  | restartOutput =>
    refine State.serve_keeps (fun _ _ => State.outputsSound_of_presentation) (fun c t ht => ?_) h
    rcases t.restartCommand_cases c with he | ⟨k, m, he, hm⟩
    · rwa [he]
    · rw [he]
      exact State.movePort_outputsSound ht k hm
  | resetPipeline =>
    refine State.serve_keeps (fun _ _ => State.outputsSound_of_presentation) (fun c t ht => ?_) h
    rcases t.resetPipelineCommand_cases c with he | he
    · rwa [he]
    · rw [he]
      exact State.pipelineReset_outputsSound ht
  | frameStart us =>
    exact fun t ht => State.frameEvent_outputsSound (hu us) (State.upsets_outputsSound us h) (execFrameStart_frameEvent us s t ht)
  | syncPulse us =>
    exact fun t ht => State.frameEvent_outputsSound (hu us) (State.upsets_outputsSound us h) (execSyncPulse_frameEvent us s t ht)
  | ownStart us =>
    exact fun t ht => State.frameEvent_outputsSound (hu us) (State.upsets_outputsSound us h) (execOwnStart_frameEvent us s t ht)
  | lineDeadline =>
    show Leaves (execLineDeadline s) _
    unfold execLineDeadline
    split
    · rename_i v hv
      exact leaves_next.2 (State.deadlineOf_outputsSound hv h)
    · exact leaves_next.2 h
  | warpLineBegin k =>
    show Leaves (execWarpLineBegin k s) _
    unfold execWarpLineBegin
    dsimp only
    split
    · exact leaves_next.2 h
    · rename_i x hx
      split
      · rename_i hb
        simp only [State.mayBegin, Bool.and_eq_true, decide_eq_true_eq] at hb
        have hform := (((s.outputsSound_iff.1 h).1 k).1.walks x hx).1
        refine leaves_next.2 (State.outputsSound_of_units (l := s.lights.get k) h rfl rfl rfl rfl (Quad.set_get _ _).symm rfl
          (fun y hy => ?_) (Or.inr hform))
        cases Option.some.inj hy
        exact ⟨hform, hb.1.1, Nat.zero_le _, Or.inl rfl⟩
      · exact leaves_next.2 h
  | warpPixel k us =>
    show Leaves (execWarpPixel k us s) _
    unfold execWarpPixel
    dsimp only
    split
    · exact leaves_next.2 (State.upsets_outputsSound us h)
    · rename_i walk hwalk
      exact leaves_next.2 (State.warpPixel_outputsSound (State.upsets_outputsSound us h) hwalk)
  | tileFillComplete k read us =>
    show Leaves (execTileFillComplete k read us s) _
    unfold execTileFillComplete
    dsimp only
    split
    · exact leaves_next.2 (State.upsets_outputsSound us h)
    · exact leaves_next.2 (State.resumePixel_outputsSound k (State.upsets_outputsSound us (State.setCache_outputsSound k rfl h)))
  | tileFillTimeout k read us =>
    show Leaves (execTileFillTimeout k read us s) _
    unfold execTileFillTimeout
    dsimp only
    split
    · exact leaves_next.2 (State.resumePixel_outputsSound k
        (State.fillTimeout_outputsSound (s := (s.upsets us).advanceTo _) k read _ _ (State.upsets_outputsSound us h)))
    · exact leaves_next.2 (State.upsets_outputsSound us h)
    · exact leaves_next.2 (State.upsets_outputsSound us h)
  | lightPixelWrite k us =>
    show Leaves (execLightPixelWrite k us s) _
    unfold execLightPixelWrite
    dsimp only
    split
    · rename_i p rest params hheld _
      exact leaves_next.2 (State.lightPixelWrite_outputsSound hheld (State.upsets_outputsSound us h))
    · exact leaves_next.2 (State.upsets_outputsSound us h)
  | statusReport k locked => exact fun t ht => State.portEvent_outputsSound h (execStatusReport_portEvent k locked s t ht)
  | reverseCarrierLost k => exact fun t ht => State.portEvent_outputsSound h (execReverseCarrierLost_portEvent k s t ht)
  | reportTimeout k => exact fun t ht => State.portEvent_outputsSound h (execReportTimeout_portEvent k s t ht)
  | settleExpiry k => exact fun t ht => State.portEvent_outputsSound h (execSettleExpiry_portEvent k s t ht)
  | relockExpiry k => exact fun t ht => State.portEvent_outputsSound h (execRelockExpiry_portEvent k s t ht)
  | _ => exact absurd rfl hi

/-! ### The steps -/

/-- A step carries out the front command on the rest of the queue, or lets a period of REFCLK pass: an invariant of the
presentation that every command keeps, under the settings as they are, is kept by the step. -/
theorem step_keeps {P : State → Prop} (hP : ∀ s t : State, t.presentation = s.presentation → P s → P t) {s : State}
    (hexec : ∀ u, u.settings = s.settings → P u → ∀ i, Leaves (exec i u) P) (h : P s) : Leaves (step s) P := by
  unfold step
  split
  · exact leaves_next.2 (hP s _ rfl h)
  · rename_i c rest _
    exact hexec { s with pending := rest } rfl (hP s _ rfl h) c

/-- Settles O7: every command keeps each unit's cache sound, since every change of a cache keeps, removes or allocates
entries one by one. -/
theorem cachesStaySound : Obligations.CachesStaySound := fun _ t h ht =>
  step_keeps (fun _ _ => State.cachesSound_of_presentation) (fun _ _ hu i => exec_cachesSound hu i) h t ht

/-- Settles O11, by the invariant of what each channel presents. -/
theorem outputsStaySound : Obligations.OutputsStaySound := fun _ t hset h ht =>
  step_keeps (fun _ _ => State.outputsSound_of_presentation)
    (fun _ hu h i => exec_outputsSound (hu ▸ State.settingsSound_height hset) h i) h t ht

end Sys2Proof.Machine
end

section
/-! SUPPORT. The arithmetic of sampling (R8 to R12): a weighted mean of four values lies between the least and the greatest
of them, and a clamped position within the source. -/

namespace Sys2Proof.Machine

/-- The sum of four values with the weights of a point in a square of side `s` lies between `s²` times their bounds. -/
theorem weightedSum_between {f g s a b c d lo hi : Int} (hf : 0 ≤ f) (hfs : f ≤ s) (hg : 0 ≤ g) (hgs : g ≤ s)
    (ha : lo ≤ a ∧ a ≤ hi) (hb : lo ≤ b ∧ b ≤ hi) (hc : lo ≤ c ∧ c ≤ hi) (hd : lo ≤ d ∧ d ≤ hi) :
    lo * (s * s) ≤ (s - f) * (s - g) * a + f * (s - g) * b + (s - f) * g * c + f * g * d
      ∧ (s - f) * (s - g) * a + f * (s - g) * b + (s - f) * g * c + f * g * d ≤ hi * (s * s) := by
  have hsf := sub_nonneg.2 hfs
  have hsg := sub_nonneg.2 hgs
  have w00 := mul_nonneg hsf hsg
  have w10 := mul_nonneg hf hsg
  have w01 := mul_nonneg hsf hg
  have w11 := mul_nonneg hf hg
  have hsum : ∀ m : Int, m * (s * s) = (s - f) * (s - g) * m + f * (s - g) * m + (s - f) * g * m + f * g * m := fun m => by ring
  rw [hsum lo, hsum hi]
  exact ⟨add_le_add (add_le_add (add_le_add (mul_le_mul_of_nonneg_left ha.1 w00) (mul_le_mul_of_nonneg_left hb.1 w10))
      (mul_le_mul_of_nonneg_left hc.1 w01)) (mul_le_mul_of_nonneg_left hd.1 w11),
    add_le_add (add_le_add (add_le_add (mul_le_mul_of_nonneg_left ha.2 w00) (mul_le_mul_of_nonneg_left hb.2 w10))
      (mul_le_mul_of_nonneg_left hc.2 w01)) (mul_le_mul_of_nonneg_left hd.2 w11)⟩

/-- A division rounded half up stays within the bounds of the exact quotient. -/
theorem roundedDiv_between {x n lo hi : Int} (hn : 0 < n) (hlo : lo * n ≤ x) (hhi : x ≤ hi * n) :
    lo ≤ (x + n / 2) / n ∧ (x + n / 2) / n ≤ hi := by
  constructor
  · rw [Int.le_ediv_iff_mul_le hn]
    omega
  · rw [← Int.lt_add_one_iff, Int.ediv_lt_iff_lt_mul hn, add_mul, one_mul]
    omega

/-- Stage 1: the interpolation stays between the corner values (R8). -/
theorem GridCell.interpolate_between (spacing u v : Nat) {a b c d lo hi : Int} (hs : 0 < spacing) (ha : lo ≤ a ∧ a ≤ hi)
    (hb : lo ≤ b ∧ b ≤ hi) (hc : lo ≤ c ∧ c ≤ hi) (hd : lo ≤ d ∧ d ≤ hi) :
    lo ≤ (gridCell spacing u v).interpolate spacing a b c d ∧ (gridCell spacing u v).interpolate spacing a b c d ≤ hi := by
  have hpos : (0 : Int) < spacing := by exact_mod_cast hs
  have hoff : ∀ x : Nat, (0 : Int) ≤ (x % spacing : Nat) ∧ ((x % spacing : Nat) : Int) ≤ spacing := fun x =>
    ⟨Int.natCast_nonneg _, by exact_mod_cast (Nat.mod_lt x hs).le⟩
  obtain ⟨hlo, hhi⟩ := weightedSum_between (hoff u).1 (hoff u).2 (hoff v).1 (hoff v).2 ha hb hc hd
  exact roundedDiv_between (mul_pos hpos hpos) hlo hhi

/-- Stage 2: a clamped coordinate and its neighbours lie within the source, and the clamp changes what lies outside (R9,
R10). -/
theorem clampSource_inside (n : Nat) (x : Int) (hn : 1 ≤ n) : clampSource n x ≤ 64 * (n - 1) ∧ neighbour0 (clampSource n x) < n
    ∧ neighbour1 n (clampSource n x) < n ∧ (clampChanges n x = false ↔ 0 ≤ x ∧ x ≤ 64 * ((n : Int) - 1)) := by
  have hle : clampSource n x ≤ 64 * (n - 1) := by
    unfold clampSource clampInt
    omega
  refine ⟨hle, ?_, ?_, ?_⟩
  · unfold neighbour0
    omega
  · unfold neighbour1
    split <;> omega
  · rw [clampChanges, bne_eq_false_iff_eq]
    unfold clampSource clampInt
    omega

/-- Bilinear sampling is the interpolation on a grid of spacing 64 (R8, R12). -/
theorem bilinear_eq_interpolate (x y a b c d : Nat) :
    (bilinear x y a b c d : Int) = (gridCell 64 x y).interpolate 64 a b c d := by
  have hx : x % 64 ≤ 64 := (Nat.mod_lt x (by decide)).le
  have hy : y % 64 ≤ 64 := (Nat.mod_lt y (by decide)).le
  unfold bilinear GridCell.interpolate gridCell
  push_cast [Nat.cast_sub hx, Nat.cast_sub hy]
  norm_num

/-- Settles O55. -/
theorem samplingStaysBetweenNeighbours : Obligations.SamplingStaysBetweenNeighbours := by
  refine ⟨fun spacing u v a b c d lo hi hs la lb lc ld ha hb hc hd =>
    GridCell.interpolate_between spacing u v hs ⟨la, ha⟩ ⟨lb, hb⟩ ⟨lc, hc⟩ ⟨ld, hd⟩, clampSource_inside, ?_⟩
  intro x y a b c d lo hi la lb lc ld ha hb hc hd
  have h := GridCell.interpolate_between 64 x y (a := a) (b := b) (c := c) (d := d) (lo := lo) (hi := hi) (by decide)
    (by omega) (by omega) (by omega) (by omega)
  rw [← bilinear_eq_interpolate] at h
  exact_mod_cast h

end Sys2Proof.Machine
end

section
/-! SUPPORT. RESTART OUTPUT (R133) and the PIPELINE reset (R165) as the engine serves them. -/

namespace Sys2Proof.Machine

/-! ### RESTART OUTPUT -/

theorem channelOf_oneByte : ∀ k : Channel, channelOf (byteAt (oneByte k) 0) = some k := by decide

/-- RESTART OUTPUT of output `k`. -/
theorem State.restartCommand_of_payload {c : Cell} {k : Channel} (hp : c.payload = oneByte k) (s : State) :
    s.restartCommand c =
      if !s.hasOutput k then .refuse s .unavailable
      else if (s.outputs.get k).state = .absent then .refuse s .state
      else { state := s.movePort k ((s.outputs.get k).enterSettling s.settings s.now), status := .ok } := by
  have hl : (oneByte k).length = 1 := rfl
  unfold State.restartCommand
  rw [hp, hl, if_neg (by decide), channelOf_oneByte]

/-- A countdown that is not 0 is loaded and no condition raised (R130). -/
theorem OutputPort.enterSettling_of_pos (p : OutputPort) (st : Settings) (now : Nat) (h : 0 < st.settleMs) :
    p.enterSettling st now = ({ p with state := .settling, expires := some (now + st.settleMs * 100000) }, false) :=
  if_neg h.ne'

/-- A move without OUTPUT_CHANGE raises nothing. -/
theorem State.movePort_quiet (s : State) (k : Channel) (p : OutputPort) :
    s.movePort k (p, false) = { s with
      outputs := s.outputs.set k p
      warps := s.warps.set k (s.movedWarp k (p, false))
      lights := s.lights.set k (s.movedLight k (p, false)) } := by
  obtain ⟨b, ns, h, -, hquiet⟩ := s.movePort_eq k (p, false)
  obtain ⟨rfl, rfl⟩ := hquiet rfl
  exact h

/-- A port that was not ACTIVE leaves its units as they are. -/
theorem State.moved_of_inactive {s : State} {k : Channel} {m : OutputPort × Bool} (h : (s.outputs.get k).state ≠ .active) :
    s.movedWarp k m = s.warps.get k ∧ s.movedLight k m = s.lights.get k := by
  simp [State.movedWarp, State.movedLight, State.leavesActive, h]

/-- A port that leaves ACTIVE stops its units (R25, R47). -/
theorem State.moved_of_leaving {s : State} {k : Channel} {m : OutputPort × Bool} (h : (s.outputs.get k).state = .active)
    (hm : m.1.state ≠ .active) : (s.movedWarp k m).walk = none ∧ (s.movedLight k m).form = .noLines := by
  simp [State.movedWarp, State.movedLight, State.leavesActive, h, hm]

/-- Settles O31: the move of the port stops its channel where the port was ACTIVE, and raises nothing. -/
theorem restartOutputSettles : Obligations.RestartOutputSettles := by
  intro s c rest k hs hc hp
  have hcmd := State.restartCommand_of_payload hp { s with cells := rest }
  have hout : ({ s with cells := rest } : State).hasOutput k = s.hasChannel k := rfl
  rw [hout] at hcmd
  refine ⟨fun hk => ?_, fun hk ha => ?_, fun hk ha hm => ?_⟩
  · rw [hk, if_pos (by decide)] at hcmd
    exact congrArg Host.Outcome.next (State.serve_replied hs _ _ hc hcmd)
  · rw [hk, if_neg (by decide), if_pos ha] at hcmd
    exact congrArg Host.Outcome.next (State.serve_replied hs _ _ hc hcmd)
  · rw [hk, if_neg (by decide), if_neg ha, OutputPort.enterSettling_of_pos _ _ _ hm] at hcmd
    let m : OutputPort × Bool :=
      ({ s.outputs.get k with state := .settling, expires := some (s.now + s.settings.settleMs * 100000) }, false)
    refine ⟨s.warps.set k (s.movedWarp k m), s.lights.set k (s.movedLight k m), ?_, fun hna => ?_, fun hact => ?_,
      fun j hj => ⟨Quad.get_set_other _ _ hj, Quad.get_set_other _ _ hj⟩⟩
    · refine congrArg Host.Outcome.next ((State.serve_served hs _ _ hc).trans ?_)
      simp only [hcmd, State.movePort_quiet]
      rfl
    · obtain ⟨hw, hl⟩ := State.moved_of_inactive (m := m) hna
      rw [hw, hl]
      exact ⟨Quad.set_get _ _, Quad.set_get _ _⟩
    · rw [Quad.get_set_same, Quad.get_set_same]
      exact State.moved_of_leaving hact (by simp)

end Sys2Proof.Machine
end

section
/-! SUPPORT. The notices that a step's level conditions queue (R183 to R185), and the PIPELINE reset (R165). -/

namespace Sys2Proof.Machine

/-! ### The order of the notice queue -/

theorem noticesRiseFrom_cons {lo : Nat} {n : Notice} {ns : List Notice} :
    noticesRiseFrom lo (n :: ns) = true ↔ lo ≤ n.cond.val ∧ noticesRiseFrom (n.cond.val + 1) ns = true := by
  simp [noticesRiseFrom]

/-- A notice of a condition that no other notice names takes its place in the order. -/
theorem noticesRiseFrom_insertNotice {lo : Nat} {n : Notice} {ns : List Notice} (h : noticesRiseFrom lo ns = true)
    (hlo : lo ≤ n.cond.val) (hn : ∀ m ∈ ns, m.cond ≠ n.cond) : noticesRiseFrom lo (insertNotice n ns) = true := by
  induction ns generalizing lo with
  | nil => simpa [insertNotice, noticesRiseFrom] using hlo
  | cons m ns ih =>
    obtain ⟨hm, hns⟩ := noticesRiseFrom_cons.1 h
    have hne : m.cond ≠ n.cond := hn m (by simp)
    unfold insertNotice
    split
    next hlt => exact noticesRiseFrom_cons.2 ⟨hlo, noticesRiseFrom_cons.2 ⟨Nat.succ_le_of_lt hlt, hns⟩⟩
    next hge =>
      have hle : m.cond.val + 1 ≤ n.cond.val := by
        have : m.cond.val ≠ n.cond.val := fun he => hne (Fin.ext he)
        have : ¬ n.cond.val < m.cond.val := hge
        omega
      exact noticesRiseFrom_cons.2 ⟨hm, ih hns hle fun x hx => hn x (by simp [hx])⟩

theorem mem_insertNotice {n m : Notice} {ns : List Notice} : m ∈ insertNotice n ns ↔ m ∈ ns ∨ m = n := by
  obtain ⟨before, behind, h, h', -, -⟩ := insertNotice_split n ns
  rw [h', h]
  simp only [List.mem_append, List.mem_cons]
  tauto

/-! ### Conditions queued in turn -/

/-- Queuing a condition adds its notice where none waits. -/
theorem State.mem_queueNotice {s : State} {c : Cond} {n : Notice} : n ∈ (s.queueNotice c).notices ↔
    n ∈ s.notices ∨ ((∀ m ∈ s.notices, m.cond ≠ c) ∧ n = s.noticeOf c) := by
  unfold State.queueNotice
  split
  next h =>
    have : ¬ ∀ m ∈ s.notices, m.cond ≠ c := by simpa using h
    simp [this]
  next h =>
    have : ∀ m ∈ s.notices, m.cond ≠ c := by simpa using h
    rw [mem_insertNotice]
    exact or_congr_right ⟨fun he => ⟨this, he⟩, And.right⟩

theorem State.queueNotice_rises {s : State} (h : noticesRiseFrom 0 s.notices = true) (c : Cond) :
    noticesRiseFrom 0 (s.queueNotice c).notices = true := by
  unfold State.queueNotice
  split
  next => exact h
  next hn => exact noticesRiseFrom_insertNotice h (Nat.zero_le _) (by simpa [State.noticeOf] using hn)

/-- The notice of a condition does not depend on the queue. -/
theorem State.noticeOf_queueNotice (s : State) (c d : Cond) : (s.queueNotice c).noticeOf d = s.noticeOf d := by
  unfold State.queueNotice
  split <;> rfl

theorem State.queueNotices_rises (cs : List Cond) {s : State} (h : noticesRiseFrom 0 s.notices = true) :
    noticesRiseFrom 0 (cs.foldl State.queueNotice s).notices = true := by
  induction cs generalizing s with
  | nil => exact h
  | cons c cs ih => exact ih (State.queueNotice_rises h c)

/-- The notices after the conditions of a list have been queued in turn. -/
theorem State.mem_queueNotices {cs : List Cond} {s : State} {n : Notice} : n ∈ (cs.foldl State.queueNotice s).notices ↔
    n ∈ s.notices ∨ (n.cond ∈ cs ∧ (∀ m ∈ s.notices, m.cond ≠ n.cond) ∧ n = s.noticeOf n.cond) := by
  induction cs generalizing s with
  | nil => simp
  | cons c cs ih =>
    have hof : (s.noticeOf c).cond = c := rfl
    rw [List.foldl_cons, ih, State.noticeOf_queueNotice]
    simp only [State.mem_queueNotice, List.mem_cons]
    constructor
    · rintro ((h | ⟨h, rfl⟩) | ⟨hc, hfree, he⟩)
      · exact .inl h
      · exact .inr ⟨.inl hof, h, rfl⟩
      · exact .inr ⟨.inr hc, fun m hm => hfree m (.inl hm), he⟩
    · rintro (h | ⟨hc, hfree, he⟩)
      · exact .inl (.inl h)
      by_cases hnc : n.cond = c
      · exact .inl (.inr ⟨hnc ▸ hfree, hnc ▸ he⟩)
      · refine .inr ⟨hc.resolve_left hnc, ?_, he⟩
        rintro m (hm | ⟨-, rfl⟩)
        · exact hfree m hm
        · exact Ne.symm hnc

/-- The level conditions that rise from `before` to `s`, where they are enabled (R183). -/
def State.risen (s before : State) (c : Cond) : Bool := s.enabled c && !before.level c && s.level c

/-- The notices of level conditions are those of the enabled ones that rise. -/
theorem State.levelNotices_eq (s before : State) :
    s.levelNotices before = (Cond.levels.filter (s.risen before)).foldl State.queueNotice s := by
  have hfold : ∀ (cs : List Cond) (ns : List Notice),
      cs.foldl (fun t c => if t.enabled c && !before.level c && t.level c then t.queueNotice c else t) { s with notices := ns }
        = (cs.filter (s.risen before)).foldl State.queueNotice { s with notices := ns } := by
    intro cs
    induction cs with
    | nil => exact fun _ => rfl
    | cons c cs ih =>
      intro ns
      obtain ⟨ms, hq⟩ : ∃ ms, ({ s with notices := ns } : State).queueNotice c = { s with notices := ms } :=
        ⟨_, State.queueNotice_eq _ _⟩
      have hg : (({ s with notices := ns } : State).enabled c && !before.level c && ({ s with notices := ns } : State).level c)
          = s.risen before c := rfl
      rw [List.foldl_cons, List.filter_cons, hg]
      split
      · rw [List.foldl_cons, hq]
        exact ih ms
      · exact ih ns
  exact hfold _ s.notices

theorem State.levelNotices_rises {s : State} (h : noticesRiseFrom 0 s.notices = true) (before : State) :
    noticesRiseFrom 0 (s.levelNotices before).notices = true := by
  rw [State.levelNotices_eq]
  exact State.queueNotices_rises _ h

/-- What the level conditions of a step add to the queue. -/
theorem State.mem_levelNotices {s before : State} {n : Notice} : n ∈ (s.levelNotices before).notices ↔
    n ∈ s.notices ∨ ((Cond.isLevel n.cond = true ∧ s.risen before n.cond = true) ∧ (∀ m ∈ s.notices, m.cond ≠ n.cond)
      ∧ n = s.noticeOf n.cond) := by
  rw [State.levelNotices_eq, State.mem_queueNotices]
  simp [Cond.levels, Cond.all, and_comm]

/-! ### The level conditions (R180, R182) -/

/-- The level conditions by name. -/
theorem Cond.isLevel_cases : ∀ c : Cond, Cond.isLevel c = true →
    (c = Cond.ringLost ∨ c = Cond.syncLost ∨ c = Cond.coherenceLoose ∨ c = Cond.strapFault)
      ∨ ∃ k : Channel, c = Cond.inputDown k ∨ c = Cond.tablesUnfit k ∨ c = Cond.setMissing k := by decide

theorem Cond.tablesUnfit_isLevel : ∀ k : Channel, Cond.isLevel (Cond.tablesUnfit k) = true := by decide

/-- The level of a condition with a channel and an index of R180. -/
theorem State.level_ofChannel (s : State) : ∀ (k : Channel) (i : Fin 9), s.level (Cond.ofChannel k i) =
    if i.val = 1 then (s.inputs.get k).link != .locked
    else if i.val = 7 then s.tables.unfit.get k
    else if i.val = 8 then s.loss.setMissing.get k
    else false := by
  have hc : ∀ (k : Channel) (i : Fin 9),
      Cond.channel (Cond.ofChannel k i) = some k ∧ Cond.index (Cond.ofChannel k i) = i.val := by decide
  intro k i
  obtain ⟨h1, h2⟩ := hc k i
  unfold State.level
  rw [h1, h2]

theorem State.level_tablesUnfit (s : State) (k : Channel) : s.level (Cond.tablesUnfit k) = s.tables.unfit.get k :=
  s.level_ofChannel k 7

/-- With the coherence unit at its reset values, and the straps, the links and SET_MISSING as they were, TABLES_UNFIT alone
can rise. -/
theorem State.risen_of_cohReset {s t : State} (hcoh : t.coh = .reset) (hstraps : t.straps = s.straps)
    (hlink : ∀ k, (t.inputs.get k).link = (s.inputs.get k).link) (hloss : t.loss = s.loss) (c : Cond) :
    (Cond.isLevel c = true ∧ t.risen s c = true) ↔ t.enabled c = true
      ∧ ∃ k : Channel, c = Cond.tablesUnfit k ∧ s.tables.unfit.get k = false ∧ t.tables.unfit.get k = true := by
  have hkept : ∀ d : Cond, t.level d = s.level d → ¬ t.risen s d = true := fun d hd => by simp [State.risen, hd]
  have hfalse : ∀ d : Cond, t.level d = false → ¬ t.risen s d = true := fun d hd => by simp [State.risen, hd]
  constructor
  · rintro ⟨hl, hr⟩
    obtain (rfl | rfl | rfl | rfl) | ⟨k, rfl | rfl | rfl⟩ := Cond.isLevel_cases c hl
    · exact absurd hr (hfalse _ (congrArg Coherence.ringLost hcoh))
    · exact absurd hr (hfalse _ (congrArg Coherence.syncLost hcoh))
    · exact absurd hr (hfalse _ (congrArg (fun x => x.mode == CoherenceMode.loose) hcoh))
    · exact absurd hr (hkept _ (congrArg StrapRecord.fault hstraps))
    · refine absurd hr (hkept _ ?_)
      rw [Cond.inputDown, State.level_ofChannel, State.level_ofChannel, hlink]
      rfl
    · simp only [State.risen, State.level_tablesUnfit, Bool.and_eq_true, Bool.not_eq_true'] at hr
      exact ⟨hr.1.1, k, rfl, hr.1.2, hr.2⟩
    · refine absurd hr (hkept _ ?_)
      rw [Cond.setMissing, State.level_ofChannel, State.level_ofChannel, hloss]
      rfl
  · rintro ⟨he, k, rfl, hs, ht⟩
    exact ⟨Cond.tablesUnfit_isLevel k, by simp [State.risen, State.level_tablesUnfit, he, hs, ht]⟩

/-! ### The PIPELINE reset -/

theorem find_unlockAll (dir : Assoc TableRecord) (n : Nat) :
    Assoc.find (unlockAll dir) n = (Assoc.find dir n).map fun r => { r with locked := false } := by
  induction dir with
  | nil => rfl
  | cons e dir ih =>
    obtain ⟨j, r⟩ := e
    show (if j = n then _ else _) = Option.map _ (if j = n then _ else _)
    split
    · rfl
    · exact ih

/-- The state after a PIPELINE reset, before the notices of the level conditions. -/
def State.pipelineCleared (s : State) : State :=
  let t := s.clearSlots
  ({ t with
      coh := .reset
      warps := Quad.of fun k => (t.warps.get k).pipelineReset
      lights := Quad.of fun k => (t.lights.get k).pipelineReset
      tables := { t.tables with directory := unlockAll t.tables.directory, swap := none } } : State).fitTest

theorem State.pipelineReset_eq (s : State) : s.pipelineReset = s.pipelineCleared.levelNotices s := rfl

/-- A light unit after a PIPELINE reset (R48). -/
theorem LightUnit.pipelineReset_spec (l : LightUnit) : l.pipelineReset.params = l.params ∧ l.pipelineReset.held = []
    ∧ l.pipelineReset.form = if l.form = .walked then .zeroed else l.form := by
  unfold LightUnit.pipelineReset
  split <;> simp [*]

theorem State.pipelineReset_noticesFollow (s : State) :
    s.noticesFollow s.pipelineReset (fun _ => False) (fun c => s.enabled c = true
      ∧ ∃ k : Channel, c = Cond.tablesUnfit k ∧ s.tables.unfit.get k = false
        ∧ s.pipelineCleared.tables.unfit.get k = true) := by
  intro hrise
  refine ⟨State.levelNotices_rises (s := s.pipelineCleared) hrise s, fun n => ?_⟩
  have hrisen := State.risen_of_cohReset (s := s) (t := s.pipelineCleared) rfl rfl
    (fun k => by simp [State.pipelineCleared, State.clearSlots, State.fitTest, State.setTables]) rfl n.cond
  have hcoh : s.pipelineReset.coh = .reset := by
    obtain ⟨ns, h⟩ := s.pipelineCleared.levelNotices_spec s
    rw [State.pipelineReset_eq, h]
    rfl
  have hnotice : n = s.pipelineCleared.noticeOf n.cond ↔ n.channel = Cond.channel n.cond ∧ n.frame = none := by
    have hof : s.pipelineCleared.noticeOf n.cond = ⟨n.cond, Cond.channel n.cond, none⟩ := by
      unfold State.noticeOf
      congr 1
      cases Cond.channel n.cond with
      | none => rfl
      | some k => exact Quad.get_all none k
    rw [hof]
    obtain ⟨c, k, f⟩ := n
    simp
  rw [State.pipelineReset_eq, State.mem_levelNotices, hrisen, hnotice]
  refine or_congr (by simp; rfl) (and_congr_right fun _ => and_congr_right fun _ => and_congr_right fun _ => ?_)
  rw [← State.pipelineReset_eq, hcoh]
  cases n.channel with
  | none => rfl
  | some k => exact Eq.congr_right (Quad.get_all none k).symm

/-- Settles O16: the blocks cleared as `pipelineCleared` gives them, and of the level conditions TABLES_UNFIT alone can rise. -/
theorem pipelineResetClears : Obligations.PipelineResetClears := by
  intro s c rest hs hc hp
  let s0 : State := { s with cells := rest }
  obtain ⟨ns, hns⟩ := s0.pipelineCleared.levelNotices_spec s0
  have hcmd : s0.resetPipelineCommand c = { state := s0.pipelineReset, status := .ok } := by
    unfold State.resetPipelineCommand
    rw [hp]
    rfl
  have hexec : exec .resetPipeline s = .next (s0.pipelineReset.replied c rest .ok [] false) := by
    refine congrArg Host.Outcome.next ((State.serve_served hs _ _ (by simp [hc, hp])).trans ?_)
    simp only [show ({ s with cells := rest } : State) = s0 from rfl, hcmd, State.pipelineReset_eq, hns]
    rfl
  let u : State := s0.pipelineCleared
  refine ⟨u.inputs, u.rings, u.warps, u.lights, u.tables.directory, u.tables.unfit, ns, hexec.trans ?_, fun k => ?_, ?_,
    find_unlockAll _⟩
  · rw [State.pipelineReset_eq, hns]
    rfl
  · obtain ⟨hparams, hheld, hform⟩ := (s.lights.get k).pipelineReset_spec
    have hlight : u.lights.get k = (s.lights.get k).pipelineReset := Quad.get_of _ k
    have hring : u.rings.get k = { s.rings.get k with
        slots := Trio.of fun i => ((s.rings.get k).slots.get i).emptied, quiet := 255 } := Quad.get_of _ k
    rw [hlight, hring]
    exact ⟨Quad.get_of _ k, rfl, rfl, fun i => Trio.get_of _ i, Quad.get_of _ k, hparams, hheld, hform, Quad.get_of _ k⟩
  · have h := s0.pipelineReset_noticesFollow
    rw [State.pipelineReset_eq, hns] at h
    exact h

end Sys2Proof.Machine
end

section
/-! SUPPORT. How the work on a pixel goes where the storage it reads is good (R11, R13, R18 to R20): one equation for each
way a pixel can end. -/

namespace Sys2Proof.Machine

/-! ### Maps changed entry by entry -/

/-- A change or removal of entries one by one, key by key. -/
theorem Assoc.find_filterMap {α β : Type} {m : Assoc α} {lo : Nat} (f : Nat × α → Option (Nat × β))
    (hf : ∀ e d, f e = some d → d.1 = e.1) (h : Assoc.risingFrom lo m = true) (j : Nat) :
    Assoc.find (m.filterMap f) j = (Assoc.find m j).bind fun x => (f (j, x)).map (·.2) := by
  induction m generalizing lo with
  | nil => rfl
  | cons d rest ih =>
    obtain ⟨i, x⟩ := d
    have hrest : Assoc.risingFrom (i + 1) rest = true := by
      simp only [Assoc.risingFrom, Bool.and_eq_true] at h
      exact h.2
    have ih := ih hrest
    rw [Assoc.find_cons, List.filterMap_cons]
    by_cases hij : i = j
    · subst hij
      have hnone : Assoc.find rest i = none := by
        cases hr : Assoc.find rest i with
        | none => rfl
        | some y => exact absurd (Assoc.le_of_risingFrom hrest (Assoc.mem_of_find hr)) (Nat.not_succ_le_self i)
      rw [if_pos rfl]
      cases hfx : f (i, x) with
      | none => rw [hnone] at ih; simp [ih, hfx]
      | some d =>
        obtain ⟨i', y⟩ := d
        obtain rfl : i' = i := hf _ _ hfx
        exact (if_pos rfl).trans (by rw [Option.bind_some, hfx]; rfl)
    · rw [if_neg hij, ← ih]
      cases hfx : f (i, x) with
      | none => rfl
      | some d => exact if_neg (hf _ _ hfx ▸ hij)

theorem Assoc.find_filter {α : Type} {m : Assoc α} (p : Nat × α → Bool) (h : Assoc.wf m = true) (j : Nat) :
    Assoc.find (m.filter p) j = (Assoc.find m j).filter fun x => p (j, x) := by
  have hg := Assoc.find_filterMap (Option.guard p) (fun a b hab => by
    obtain ⟨rfl, -⟩ := Option.guard_eq_some_iff.1 hab
    rfl) h j
  rw [List.filterMap_eq_filter] at hg
  rw [hg]
  cases Assoc.find m j with
  | none => rfl
  | some x => cases hp : p (j, x) <;> simp [Option.guard, Option.filter, hp]

/-! ### Faults and units -/

theorem State.raise_withUnits (s : State) (w : Quad WarpUnit) (l : Quad LightUnit) (c : Cond) :
    ({ s with warps := w, lights := l } : State).raise c = { s.raise c with warps := w, lights := l } := by
  have hn : (({ s with warps := w, lights := l } : State).raise c).notices = (s.raise c).notices :=
    (State.raise_notices _ c).trans (s.raise_notices c).symm
  obtain ⟨ns, h⟩ := s.raise_spec c
  obtain ⟨ns', h'⟩ := ({ s with warps := w, lights := l } : State).raise_spec c
  rw [h, h'] at hn
  obtain rfl : ns' = ns := hn
  rw [h, h']

theorem State.recordFault_withUnits (s : State) (w : Quad WarpUnit) (l : Quad LightUnit) (f : FaultRecord) :
    ({ s with warps := w, lights := l } : State).recordFault f = { s.recordFault f with warps := w, lights := l } := by
  show (if _ then _ else _) = ({ (if _ then _ else _ : State) with warps := w, lights := l } : State)
  split
  · exact State.raise_withUnits { s with faults := s.faults ++ [f] } w l _
  · rfl

/-- Recording faults does not read the units. -/
theorem State.recordFaults_withUnits (s : State) (w : Quad WarpUnit) (l : Quad LightUnit) (fs : List FaultRecord) :
    ({ s with warps := w, lights := l } : State).recordFaults fs = { s.recordFaults fs with warps := w, lights := l } := by
  induction fs generalizing s with
  | nil => rfl
  | cons f fs ih => rw [State.recordFaults_cons, State.recordFaults_cons, State.recordFault_withUnits, ih]

@[simp] theorem State.recordFaults_units_eq (s : State) (fs : List FaultRecord) : (s.recordFaults fs).warps = s.warps
    ∧ (s.recordFaults fs).lights = s.lights ∧ (s.recordFaults fs).rings = s.rings ∧ (s.recordFaults fs).tables = s.tables
    ∧ (s.recordFaults fs).now = s.now := by
  obtain ⟨gs, o, l, ns, h⟩ := s.recordFaults_spec fs
  rw [h]
  exact ⟨rfl, rfl, rfl, rfl, rfl⟩

theorem State.recordFaults_setWarp (s : State) (fs : List FaultRecord) (k : Channel) (w : WarpUnit) :
    (s.recordFaults fs).setWarp k w = (s.setWarp k w).recordFaults fs := by
  refine Eq.trans ?_ (s.recordFaults_withUnits (s.warps.set k w) s.lights fs).symm
  obtain ⟨gs, o, l, ns, h⟩ := s.recordFaults_spec fs
  rw [h]
  rfl

/-- The work on a pixel's units and the recording of faults can be done in either order. -/
theorem State.recordFaults_handPixel (s : State) (fs : List FaultRecord) (k : Channel) (walk : Walk) (how : Handed) :
    (s.recordFaults fs).handPixel k walk how = (s.handPixel k walk how).recordFaults fs := by
  refine Eq.trans ?_ (s.recordFaults_withUnits (s.handPixel k walk how).warps (s.handPixel k walk how).lights fs).symm
  obtain ⟨gs, o, l, ns, h⟩ := s.recordFaults_spec fs
  rw [h]
  rfl

theorem State.setWarp_handPixel (s : State) (k : Channel) (w : WarpUnit) (walk : Walk) (how : Handed) :
    (s.setWarp k w).handPixel k walk how = { s with
      warps := s.warps.set k { w with walk := some { walk with col := walk.col + 1, waiting := none } }
      lights := s.lights.set k { s.lights.get k with held := (s.lights.get k).held ++ [⟨walk.col, walk.line, how⟩] } } := by
  rw [State.handPixel_spec, State.setWarp_warps, Quad.get_set_same, Quad.set_set]
  rfl

theorem TableRecord.parityFaults_of_good {r : TableRecord} (h : r.bad = []) (f : Option FrameNo) (read : List Nat) :
    r.parityFaults f read = [] := by
  simp [TableRecord.parityFaults, h]

theorem readFaults_of_good {r : Option TableRecord} (h : ∀ r', r = some r' → r'.bad = []) (f : Option FrameNo) (read : List Nat) :
    readFaults r f read = [] := by
  cases r with
  | none => rfl
  | some r => exact TableRecord.parityFaults_of_good (h r rfl) f read

/-! ### The ways a pixel can end -/

/-- A sample of the pixel's four neighbours as the cache holds them (R11, R12). -/
def State.sampleOf (s : State) (k : Channel) (slot : SlotNo) (x : Slot) (p : WaitingPixel) : Handed :=
  let at_ (j : Nat) : Pixel := cachedPixel (s.warps.get k).cache slot ((neighbours x.width x.height p.x p.y).getD j (0, 0))
  .sample (Sys2Proof.Machine.samplePixel (s.toneInUse k) p.x p.y (at_ 0) (at_ 1) (at_ 2) (at_ 3))

theorem State.samplePixel_of_good {s : State} {k : Channel} (h : ∀ r, s.toneInUse k = some r → r.bad = []) (walk : Walk)
    (slot : SlotNo) (x : Slot) (p : WaitingPixel) : s.samplePixel k walk slot x p = s.handPixel k walk (s.sampleOf k slot x p) := by
  unfold State.samplePixel
  simp only [readFaults_of_good h, State.recordFaults_nil]
  rfl

theorem standsFilling_of_standsValid {c : Assoc TileEntry} {t : Tag} (h : standsValid c t = true) : standsFilling c t = false := by
  unfold standsValid at h
  unfold standsFilling
  cases hl : lookup c t with
  | none => rfl
  | some e =>
    rw [hl] at h
    simpa using h

/-- A pixel with a lookup still to be made, or with a tag that is being read, waits (R13, R16). -/
theorem State.settlePixel_waits {s : State} {k : Channel} {slot : SlotNo} {x : Slot} {p : WaitingPixel} {todo : List Tag}
    (h : todo ≠ [] ∨ ∃ t ∈ p.tags slot x, standsFilling (s.warps.get k).cache t = true) (walk : Walk) :
    s.settlePixel k walk slot x p todo = s.leaveWaiting k walk { p with todo := todo } := by
  cases todo with
  | cons t ts => rfl
  | nil =>
    have hany : (p.tags slot x).any (standsFilling (s.warps.get k).cache) = true := List.any_eq_true.2 (h.resolve_left (· rfl))
    exact if_pos hany

/-- A pixel all of whose tags stand VALID is read (R11, R20). -/
theorem State.settlePixel_reads {s : State} {k : Channel} {slot : SlotNo} {x : Slot} {p : WaitingPixel}
    (h : ∀ t ∈ p.tags slot x, standsValid (s.warps.get k).cache t = true) (walk : Walk) :
    s.settlePixel k walk slot x p [] = s.readTiles k walk slot x p := by
  have hany : ¬ (p.tags slot x).any (standsFilling (s.warps.get k).cache) = true := by
    simpa using fun t ht => standsFilling_of_standsValid (h t ht)
  have hlost : (p.tags slot x).filter (fun t => !standsValid (s.warps.get k).cache t) = [] :=
    List.filter_eq_nil_iff.2 fun t ht => by simp [h t ht]
  unfold State.settlePixel
  simp only [hlost]
  exact if_neg hany

/-- A pixel whose data is good is sampled and handed (R11, R12). -/
theorem State.readTiles_samples {s : State} {k : Channel} {slot : SlotNo} {x : Slot} {p : WaitingPixel}
    (htone : ∀ r, s.toneInUse k = some r → r.bad = [])
    (hdata : ∀ t ∈ p.tags slot x, dataFails (s.warps.get k).cache t = false) (walk : Walk) : s.readTiles k walk slot x p = s.handPixel k walk (s.sampleOf k slot x p) := by
  have hgood : (p.tags slot x).filter (dataFails (s.warps.get k).cache) = [] :=
    List.filter_eq_nil_iff.2 fun t ht => by simp [hdata t ht]
  unfold State.readTiles
  simp only [hgood]
  exact State.samplePixel_of_good htone walk slot x p

/-- A pixel that needs a tile of the failed-tile set is handed as black without a lookup (R19). -/
theorem State.seekPixel_failed {s : State} {k : Channel} {slot : SlotNo} {p : WaitingPixel}
    (hslot : shownSlot (s.rings.get k).slots = some slot)
    (h : ∃ t ∈ p.tags slot ((s.rings.get k).slots.get slot), t ∈ (s.warps.get k).failed) (walk : Walk)
    (look : List Tag → State × List Tag) : s.seekPixel k walk p look = s.handPixel k walk .black := by
  unfold State.seekPixel
  simp only [hslot]
  exact if_pos (by simpa using h)

/-- Any other makes its lookups and is settled (R13). -/
theorem State.seekPixel_looks {s : State} {k : Channel} {slot : SlotNo} {p : WaitingPixel}
    (hslot : shownSlot (s.rings.get k).slots = some slot)
    (h : ∀ t ∈ p.tags slot ((s.rings.get k).slots.get slot), t ∉ (s.warps.get k).failed) (walk : Walk)
    (look : List Tag → State × List Tag) : s.seekPixel k walk p look =
      (look (p.tags slot ((s.rings.get k).slots.get slot))).1.settlePixel k walk slot ((s.rings.get k).slots.get slot) p
        (look (p.tags slot ((s.rings.get k).slots.get slot))).2 := by
  unfold State.seekPixel
  simp only [hslot]
  exact if_neg (by simpa using h)

/-! ### The pixel that waits -/

/-- A unit with no pixel waiting in a line in progress has none to go on with. -/
theorem State.resumePixel_idle {s : State} {k : Channel}
    (h : ∀ x, (s.warps.get k).walk = some x → x.waiting = none ∨ x.ended = true) : s.resumePixel k = s := by
  unfold State.resumePixel
  split
  · rfl
  next walk hwalk =>
    split
    next p hp => exact if_pos ((h walk hwalk).resolve_left (by simp [hp]))
    · rfl

/-- A pixel that waits goes on with the lookups still to be made (R16). -/
theorem State.resumePixel_waiting {s : State} {k : Channel} {walk : Walk} {p : WaitingPixel}
    (hwalk : (s.warps.get k).walk = some walk) (hp : walk.waiting = some p) (hended : walk.ended = false) :
    s.resumePixel k = s.seekPixel k walk p fun _ => s.allocateAnew k p.todo := by
  unfold State.resumePixel
  simp only [hwalk, hp, hended]
  rfl

/-- The tags that a pixel needs are those of its neighbours. -/
theorem mem_distinct {t : Tag} {ts : List Tag} : t ∈ distinct ts ↔ t ∈ ts := by
  induction ts with
  | nil => rfl
  | cons u ts ih =>
    simp only [distinct, List.mem_cons, List.mem_filter, ih, bne_iff_ne]
    tauto

theorem WaitingPixel.mem_tags {p : WaitingPixel} {slot : SlotNo} {x : Slot} {t : Tag} :
    t ∈ p.tags slot x ↔ ∃ ab ∈ neighbours x.width x.height p.x p.y, tagOf slot ab = t := by
  rw [WaitingPixel.tags, mem_distinct, List.mem_map]

end Sys2Proof.Machine
end

section
/-! SUPPORT. The ends of a fill (R17 to R19). -/

namespace Sys2Proof.Machine

/-! ### The entry that owns a read -/

theorem TileEntry.owns_iff {e : TileEntry} {read : Nat} : e.owns read = true ↔ ∃ t i c b, e = .filling t read i c b := by
  cases e with
  | filling t o i c b => simp [TileEntry.owns]
  | valid t o d a b => simp [TileEntry.owns]

/-- In a sound cache one entry at most owns a read, which is its place in the order of allocation. -/
theorem WarpUnit.owner_unique {w : WarpUnit} (h : w.cacheSound = true) {a b : Nat × TileEntry} {read : Nat} (ha : a ∈ w.cache)
    (hb : b ∈ w.cache) (hoa : a.2.owns read = true) (hob : b.2.owns read = true) : a = b := by
  obtain ⟨t, i, c, x, hea⟩ := TileEntry.owns_iff.1 hoa
  obtain ⟨t', i', c', x', heb⟩ := TileEntry.owns_iff.1 hob
  exact WarpUnit.order_unique h ha hb (by rw [hea, heb]; rfl)

theorem WarpUnit.ownerOf_eq {w : WarpUnit} (h : w.cacheSound = true) {n read : Nat} {e : TileEntry}
    (he : Assoc.find w.cache n = some e) (ho : e.owns read = true) : ownerOf w.cache read = some e := by
  have hmem := Assoc.mem_of_find he
  unfold ownerOf
  cases hf : w.cache.find? fun e => e.2.owns read with
  | none => exact absurd ho (by simpa using List.find?_eq_none.1 hf _ hmem)
  | some d =>
    have hod : d.2.owns read = true := List.find?_some (p := fun e : Nat × TileEntry => e.2.owns read) hf
    rw [WarpUnit.owner_unique h (List.mem_of_find?_eq_some hf) hmem hod ho]
    rfl

/-- Every other entry of a sound cache is left as it is where the owner of a read changes. -/
theorem WarpUnit.not_owns {w : WarpUnit} (h : w.cacheSound = true) {n j read : Nat} {e d : TileEntry}
    (he : Assoc.find w.cache n = some e) (ho : e.owns read = true) (hj : j ≠ n) (hd : Assoc.find w.cache j = some d) :
    d.owns read = false := by
  by_contra hod
  have := WarpUnit.owner_unique h (Assoc.mem_of_find hd) (Assoc.mem_of_find he) (by simpa using hod) ho
  exact hj (congrArg Prod.fst this)

/-! ### The cache after a fill has ended -/

theorem WarpUnit.find_completeRead {w : WarpUnit} (h : w.cacheSound = true) (ring : SlotRing) (read j : Nat) :
    Assoc.find (completeRead w.cache ring read) j =
      (Assoc.find w.cache j).bind fun e => if e.owns read then e.completed ring else some e := by
  rw [completeRead, Assoc.find_filterMap _ (fun a b hab => ?_) (WarpUnit.cacheSound_wf h)]
  · congr 1
    funext e
    split
    · cases e.completed ring <;> rfl
    · rfl
  · split at hab
    · obtain ⟨d, -, rfl⟩ := Option.map_eq_some_iff.1 hab
      rfl
    · cases hab
      rfl

theorem WarpUnit.find_dropRead {w : WarpUnit} (h : w.cacheSound = true) (read j : Nat) :
    Assoc.find (dropRead w.cache read) j = (Assoc.find w.cache j).filter fun e => !e.owns read :=
  Assoc.find_filter _ (WarpUnit.cacheSound_wf h) j

/-- The tile data holds the slot's pixels, line by line. -/
theorem tilePixel_tileData (x : Slot) (t : Tag) {a b : Nat} (ha : a < 16) (hb : b < 8) :
    tilePixel (x.tileData t) (t.col * 16 + a) (t.row * 8 + b) = x.pixelAt (t.col * 16 + a) (t.row * 8 + b) := by
  have hu : (t.col * 16 + a) % 16 = a := by omega
  have hv : (t.row * 8 + b) % 8 = b := by omega
  simp [tilePixel, Slot.tileData, hu, hv, ha, hb]

/-! ### The commands -/

/-- The unit after a fill has timed out: its entry INVALID, and its tag in the failed-tile set of a line in progress (R19). -/
def WarpUnit.timedOut (w : WarpUnit) (read : Nat) (tag : Tag) (cancelled : Bool) : WarpUnit :=
  { w with
    cache := dropRead w.cache read
    failed := if !cancelled && lineInProgress w.walk then w.failed ++ [tag] else w.failed }

theorem exec_tileFillComplete_owned {s : State} {k : Channel} {read : Nat} {e : TileEntry}
    (h : ownerOf (s.warps.get k).cache read = some e) : exec (.tileFillComplete k read []) s =
      .next ((s.setWarp k
        { s.warps.get k with cache := completeRead (s.warps.get k).cache (s.rings.get k) read }).resumePixel k) := by
  show execTileFillComplete k read [] s = _
  unfold execTileFillComplete
  simp only [h]
  rfl

theorem exec_tileFillTimeout_owned {s : State} {k : Channel} {read : Nat} {tag : Tag} {o issued : Nat} {cancelled bad : Bool}
    (h : ownerOf (s.warps.get k).cache read = some (.filling tag o issued cancelled bad)) :
    exec (.tileFillTimeout k read []) s = .next (((({ s with now := max s.now (issued + 2000) } : State).setWarp k
      ((s.warps.get k).timedOut read tag cancelled)).recordFault
        ⟨.fillTimeout, some k, s.shownFrame k, .tile tag.col tag.row⟩).resumePixel k) := by
  show execTileFillTimeout k read [] s = _
  unfold execTileFillTimeout
  simp only [State.upsets, List.foldl_nil, h]
  rfl

theorem lineInProgress_iff {walk : Option Walk} : lineInProgress walk = true ↔ ∃ x, walk = some x ∧ x.ended = false := by
  cases walk <;> simp [lineInProgress]

/-- Data that no entry of the tag holds bad does not fail. -/
theorem dataFails_of_good {c : Assoc TileEntry} {t : Tag} (h : ∀ e ∈ c, e.2.tag = t → e.2.dataBad = false) :
    dataFails c t = false := by
  unfold dataFails
  cases hl : lookup c t with
  | none => rfl
  | some e =>
    obtain ⟨n, hn, -, ht⟩ := lookup_some hl
    exact h _ hn ht

/-! ### The pixel that waits for the fill -/

/-- A waiting pixel whose tiles are all VALID with good data is handed as its sample. -/
theorem State.resumePixel_samples {t : State} {k : Channel} {walk : Walk} {p : WaitingPixel} {slot : SlotNo}
    (hwalk : (t.warps.get k).walk = some walk) (hp : walk.waiting = some p) (hended : walk.ended = false) (htodo : p.todo = [])
    (hslot : shownSlot (t.rings.get k).slots = some slot) (htone : ∀ r, t.toneInUse k = some r → r.bad = [])
    (htiles : ∀ ab ∈ neighbours ((t.rings.get k).slots.get slot).width ((t.rings.get k).slots.get slot).height p.x p.y,
      tagOf slot ab ∉ (t.warps.get k).failed ∧ standsValid (t.warps.get k).cache (tagOf slot ab) = true
        ∧ ∀ e ∈ (t.warps.get k).cache, e.2.tag = tagOf slot ab → e.2.dataBad = false) :
    t.resumePixel k = t.handPixel k walk (t.sampleOf k slot ((t.rings.get k).slots.get slot) p) := by
  have htags : ∀ u ∈ p.tags slot ((t.rings.get k).slots.get slot), u ∉ (t.warps.get k).failed
      ∧ standsValid (t.warps.get k).cache u = true ∧ dataFails (t.warps.get k).cache u = false := fun u hu => by
    obtain ⟨ab, hab, rfl⟩ := WaitingPixel.mem_tags.1 hu
    obtain ⟨hfailed, hvalid, hgood⟩ := htiles ab hab
    exact ⟨hfailed, hvalid, dataFails_of_good hgood⟩
  rw [State.resumePixel_waiting hwalk hp hended, State.seekPixel_looks hslot fun u hu => (htags u hu).1, htodo]
  refine (State.settlePixel_reads (fun u hu => (htags u hu).2.1) walk).trans ?_
  exact State.readTiles_samples htone (fun u hu => (htags u hu).2.2) walk

/-- A waiting pixel that needs a tile of the failed-tile set is handed as black. -/
theorem State.resumePixel_black {t : State} {k : Channel} {walk : Walk} {p : WaitingPixel} {slot : SlotNo} {tag : Tag}
    (hwalk : (t.warps.get k).walk = some walk) (hp : walk.waiting = some p) (hended : walk.ended = false)
    (hslot : shownSlot (t.rings.get k).slots = some slot) (htag : tag ∈ p.tags slot ((t.rings.get k).slots.get slot))
    (hfailed : tag ∈ (t.warps.get k).failed) : t.resumePixel k = t.handPixel k walk .black := by
  rw [State.resumePixel_waiting hwalk hp hended, State.seekPixel_failed hslot ⟨tag, htag, hfailed⟩]

/-- Settles O52: the entry that owns the read is the one of its place in the order of allocation. -/
theorem tileFillsEnd : Obligations.TileFillsEnd := by
  intro s k read w l
  refine ⟨fun hnone => ?_, fun n tag issued cancelled bad hsound hfind => ?_⟩
  · constructor
    · show execTileFillComplete k read [] s = _
      unfold execTileFillComplete
      simp only [hnone, w]
      rfl
    · show execTileFillTimeout k read [] s = _
      unfold execTileFillTimeout
      simp only [State.upsets, List.foldl_nil, hnone, w]
  have howns : (TileEntry.filling tag read issued cancelled bad).owns read = true := by simp [TileEntry.owns]
  have howner := WarpUnit.ownerOf_eq hsound hfind howns
  have hcomplete := exec_tileFillComplete_owned howner
  have htimeout := exec_tileFillTimeout_owned howner
  have hprogress := lineInProgress_iff (walk := w.walk)
  let f : FaultRecord := ⟨.fillTimeout, some k, s.shownFrame k, .tile tag.col tag.row⟩
  let out : State := ({ s with now := max s.now (issued + 2000) } : State).setWarp k (w.timedOut read tag cancelled)
  obtain ⟨hwarps, -, hrings, -, -⟩ := out.recordFaults_units_eq [f]
  have hwarp : (out.recordFault f).warps.get k = w.timedOut read tag cancelled :=
    (congrArg (Quad.get · k) hwarps).trans (Quad.get_set_same _ k _)
  refine ⟨completeRead w.cache (s.rings.get k) read, (w.timedOut read tag cancelled).cache, (w.timedOut read tag cancelled).failed,
    fun j hj => ?_, ?_, fun hc => ?_, fun hc => ?_, fun h => ?_, fun h => ?_, fun hidle => ?_, ?_⟩
  · have hother := fun d hd => WarpUnit.not_owns hsound (d := d) hfind howns hj hd
    refine ⟨(WarpUnit.find_completeRead hsound _ read j).trans ?_, (WarpUnit.find_dropRead hsound read j).trans ?_⟩ <;>
    · cases hd : Assoc.find w.cache j with
      | none => rfl
      | some d => simp [hother d hd]
  · exact (WarpUnit.find_dropRead hsound read n).trans (by rw [hfind]; simp [howns])
  · rw [WarpUnit.find_completeRead hsound, hfind, Option.bind_some, if_pos howns, hc]
    rfl
  · rw [WarpUnit.find_completeRead hsound, hfind, Option.bind_some, if_pos howns, hc]
    exact ⟨_, rfl, fun a b ha hb => tilePixel_tileData _ tag ha hb⟩
  · exact if_pos (by simpa [h.1] using hprogress.2 h.2)
  · refine if_neg fun hif => h ?_
    rw [Bool.and_eq_true, hprogress] at hif
    exact ⟨by simpa using hif.1, hif.2⟩
  · constructor
    · refine hcomplete.trans (congrArg Host.Outcome.next (State.resumePixel_idle ?_))
      simpa using hidle
    · refine htimeout.trans (congrArg Host.Outcome.next (State.resumePixel_idle fun y hy => hidle y ?_))
      rwa [hwarp] at hy
  · intro walk p slot hwalk hp hended hslot htone x ns past handed at_
    refine ⟨fun htodo htiles => ?_, fun hc ⟨ab, hab, htag⟩ => ?_⟩
    · let stored : State := s.setWarp k { w with cache := completeRead w.cache (s.rings.get k) read }
      have hw : stored.warps.get k = { w with cache := completeRead w.cache (s.rings.get k) read } := Quad.get_set_same _ k _
      have hsample := State.resumePixel_samples (t := stored) (by rwa [hw]) hp hended htodo hslot htone (by rwa [hw])
      refine hcomplete.trans (congrArg Host.Outcome.next (hsample.trans ((s.setWarp_handPixel k _ walk _).trans ?_)))
      simp only [State.sampleOf, hw]
      rfl
    · have hring : (out.recordFault f).rings.get k = s.rings.get k := congrArg (Quad.get · k) hrings
      have hadd : (w.timedOut read tag cancelled).failed = w.failed ++ [tag] :=
        if_pos (by simpa [hc] using hprogress.2 ⟨walk, hwalk, hended⟩)
      have hblack := State.resumePixel_black (t := out.recordFault f) (tag := tag) (slot := slot) (by rwa [hwarp]) hp hended
        (by rwa [hring]) (by rw [hring]; exact WaitingPixel.mem_tags.2 ⟨ab, hab, htag⟩) (by rw [hwarp, hadd]; simp)
      refine htimeout.trans (congrArg Host.Outcome.next (hblack.trans ?_))
      refine (State.recordFaults_handPixel out [f] k walk .black).trans (congrArg (State.recordFaults · [f]) ?_)
      exact State.setWarp_handPixel _ k _ walk _

end Sys2Proof.Machine
end

section
/-! SUPPORT. What one lookup of a tag does (R15, R16): the entry it finds, or the entry it allocates. -/

namespace Sys2Proof.Machine

/-! ### The lowest INVALID entry -/

theorem Assoc.lowestFree_eq_some {α : Type} {m : Assoc α} {bound n : Nat} (hn : n < bound) (hfree : Assoc.find m n = none)
    (hlow : ∀ j, j < n → Assoc.find m j ≠ none) : Assoc.lowestFree m bound = some n := by
  cases h : Assoc.lowestFree m bound with
  | none =>
    have := List.find?_eq_none.1 h n (List.mem_range.2 hn)
    simp [hfree] at this
  | some i =>
    obtain ⟨-, hi, hbelow⟩ := Assoc.lowestFree_spec h
    rcases lt_trichotomy i n with hlt | rfl | hgt
    · exact absurd hi (hlow i hlt)
    · rfl
    · exact absurd hfree (hbelow n hgt)

theorem Assoc.lowestFree_eq_none {α : Type} {m : Assoc α} {bound : Nat} (h : ∀ j, j < bound → Assoc.find m j ≠ none) :
    Assoc.lowestFree m bound = none :=
  List.find?_eq_none.2 fun j hj => by simpa [Option.isNone_iff_eq_none] using h j (List.mem_range.1 hj)

/-! ### The VALID entry allocated longest ago -/

/-- The earlier allocated of two entries, the first where they tie. -/
def earlier (best : Option (Nat × TileEntry)) (e : Nat × TileEntry) : Option (Nat × TileEntry) :=
  match best with
  | none => some e
  | some b => if e.2.order < b.2.order then some e else some b

theorem earliestValid_eq (c : Assoc TileEntry) :
    earliestValid c = ((c.filter fun e => e.2.isValid).foldl earlier none).map (·.1) := rfl

/-- The earlier of two entries is one of them and no later than either. -/
theorem earlier_spec (best : Option (Nat × TileEntry)) (e : Nat × TileEntry) : ∃ b, earlier best e = some b
    ∧ (b = e ∨ best = some b) ∧ b.2.order ≤ e.2.order ∧ ∀ a, best = some a → b.2.order ≤ a.2.order := by
  cases best with
  | none => exact ⟨e, rfl, .inl rfl, le_rfl, by simp⟩
  | some a =>
    by_cases h : e.2.order < a.2.order
    · exact ⟨e, if_pos h, .inl rfl, le_rfl, by simpa using h.le⟩
    · exact ⟨a, if_neg h, .inr rfl, not_lt.1 h, by simp⟩

/-- Going through a list for the earliest entry ends with one that is no later than any. -/
theorem foldl_earlier_spec (xs : Assoc TileEntry) (a : Nat × TileEntry) : ∃ b, xs.foldl earlier (some a) = some b
    ∧ (b = a ∨ b ∈ xs) ∧ b.2.order ≤ a.2.order ∧ ∀ x ∈ xs, b.2.order ≤ x.2.order := by
  induction xs generalizing a with
  | nil => exact ⟨a, rfl, .inl rfl, le_rfl, by simp⟩
  | cons x xs ih =>
    obtain ⟨c, hc, hfrom, hx, ha⟩ := earlier_spec (some a) x
    obtain ⟨b, hb, hmem, hbc, hleast⟩ := ih c
    have hbx : b.2.order ≤ x.2.order := hbc.trans hx
    refine ⟨b, by rw [List.foldl_cons, hc, hb], ?_, hbc.trans (ha a rfl), by simpa using ⟨hbx, fun n e he => hleast _ he⟩⟩
    rcases hmem with rfl | hmem
    · rcases hfrom with rfl | hfrom
      · exact .inr (List.mem_cons_self ..)
      · exact .inl (Option.some.inj hfrom).symm
    · exact .inr (List.mem_cons_of_mem _ hmem)

/-- In a sound cache the allocation takes the VALID entry with the least place in the order of allocation. -/
theorem WarpUnit.earliestValid_of_least {w : WarpUnit} (h : w.cacheSound = true) {n : Nat} {e : TileEntry} (he : (n, e) ∈ w.cache)
    (hv : e.isValid = true) (hleast : ∀ f ∈ w.cache, f.2.isValid = true → e.order ≤ f.2.order) :
    earliestValid w.cache = some n := by
  have hmem : (n, e) ∈ w.cache.filter fun e => e.2.isValid := List.mem_filter.2 ⟨he, hv⟩
  rw [earliestValid_eq]
  cases hxs : w.cache.filter fun e => e.2.isValid with
  | nil =>
    rw [hxs] at hmem
    cases hmem
  | cons a xs =>
    obtain ⟨b, hb, hfrom, hba, hbx⟩ := foldl_earlier_spec xs a
    have hb_mem : b ∈ w.cache.filter fun e => e.2.isValid := by
      rw [hxs]
      exact List.mem_cons.2 hfrom
    obtain ⟨hbc, hbv⟩ := List.mem_filter.1 hb_mem
    have hbe : b.2.order ≤ e.order := by
      rw [hxs] at hmem
      rcases List.mem_cons.1 hmem with rfl | hmem
      · exact hba
      · exact hbx _ hmem
    have heq : b = (n, e) := WarpUnit.order_unique h hbc he (le_antisymm hbe (hleast b hbc hbv))
    rw [List.foldl_cons]
    exact congrArg (Option.map _) (hb.trans (congrArg some heq))

theorem earliestValid_eq_none {c : Assoc TileEntry} (h : ∀ f ∈ c, f.2.isValid = false) : earliestValid c = none := by
  rw [earliestValid_eq, List.filter_eq_nil_iff.2 fun f hf => by simp [h f hf]]
  rfl

/-! ### One lookup -/

theorem WarpUnit.lookupTag_hit {w : WarpUnit} {t : Tag} (h : ∃ e ∈ w.cache, e.2.compared = true ∧ e.2.tag = t) (now : Nat) :
    w.lookupTag now t = (w, true) := by
  unfold WarpUnit.lookupTag
  cases hl : lookup w.cache t with
  | some e => rfl
  | none =>
    obtain ⟨e, he, hc⟩ := h
    exact absurd hc (lookup_eq_none.1 hl e he)

/-- A miss fills the entry that the allocation takes. -/
theorem WarpUnit.lookupTag_fills {w : WarpUnit} {t : Tag} {n : Nat} (h : ¬∃ e ∈ w.cache, e.2.compared = true ∧ e.2.tag = t)
    (ha : allocationEntry w.cache = some n) (now : Nat) : w.lookupTag now t = (w.fill n now t, true) := by
  have hl : lookup w.cache t = none := lookup_eq_none.2 fun e he hc => h ⟨e, he, hc⟩
  unfold WarpUnit.lookupTag
  rw [hl, ha]
  rfl

/-- A miss with no entry to take waits. -/
theorem WarpUnit.lookupTag_waits {w : WarpUnit} {t : Tag} (h : ¬∃ e ∈ w.cache, e.2.compared = true ∧ e.2.tag = t)
    (ha : allocationEntry w.cache = none) (now : Nat) : w.lookupTag now t = (w, false) := by
  have hl : lookup w.cache t = none := lookup_eq_none.2 fun e he hc => h ⟨e, he, hc⟩
  unfold WarpUnit.lookupTag
  rw [hl, ha]

theorem allocationEntry_of_free {c : Assoc TileEntry} {n : Nat} (h : Assoc.lowestFree c Config.tileEntries = some n) :
    allocationEntry c = some n := by
  unfold allocationEntry
  rw [h]

theorem allocationEntry_of_full {c : Assoc TileEntry} (h : ∀ m, m < 64 → Assoc.find c m ≠ none) :
    allocationEntry c = earliestValid c := by
  unfold allocationEntry
  rw [show Assoc.lowestFree c Config.tileEntries = none from Assoc.lowestFree_eq_none h]

/-- One lookup of a tag in a sound cache. -/
theorem WarpUnit.lookupTag_spec (w : WarpUnit) (now : Nat) (t : Tag) (hsound : w.cacheSound = true) :
    ((∃ e ∈ w.cache, e.2.compared = true ∧ e.2.tag = t) → w.lookupTag now t = (w, true))
    ∧ (¬(∃ e ∈ w.cache, e.2.compared = true ∧ e.2.tag = t) → ∀ n : Nat, n < 64 → Assoc.find w.cache n = none →
        (∀ m, m < n → Assoc.find w.cache m ≠ none) → w.lookupTag now t = (w.fill n now t, true))
    ∧ (¬(∃ e ∈ w.cache, e.2.compared = true ∧ e.2.tag = t) → (∀ m, m < 64 → Assoc.find w.cache m ≠ none) →
        (∀ (n : Nat) (e : TileEntry), (n, e) ∈ w.cache → e.isValid = true →
          (∀ f ∈ w.cache, f.2.isValid = true → e.order ≤ f.2.order) → w.lookupTag now t = (w.fill n now t, true))
        ∧ ((∀ f ∈ w.cache, f.2.isValid = false) → w.lookupTag now t = (w, false))) := by
  refine ⟨fun hit => WarpUnit.lookupTag_hit hit now, fun hmiss n hn hfree hlow => ?_,
    fun hmiss hfull => ⟨fun n e he hv hleast => ?_, fun hnone => ?_⟩⟩
  · exact WarpUnit.lookupTag_fills hmiss (allocationEntry_of_free (Assoc.lowestFree_eq_some hn hfree hlow)) now
  · exact WarpUnit.lookupTag_fills hmiss
      ((allocationEntry_of_full hfull).trans (WarpUnit.earliestValid_of_least hsound he hv hleast)) now
  · exact WarpUnit.lookupTag_waits hmiss ((allocationEntry_of_full hfull).trans (earliestValid_eq_none hnone)) now

end Sys2Proof.Machine
end

section
/-! SUPPORT. A pixel of the walk from its first work on (R5 to R13, R19 to R21), with the state said in the order in which
its units, its latches and its faults change. -/

namespace Sys2Proof.Machine

/-! ### Faults recorded beside an event condition -/

theorem State.recordFaults_append (s : State) (fs gs : List FaultRecord) :
    s.recordFaults (fs ++ gs) = (s.recordFaults fs).recordFaults gs := List.foldl_append

/-- Faults recorded beside a latch that has just been set: log and overflow flag as without it, and the latch stays. -/
theorem State.recordFaults_latched (s : State) {b : BitVec 45} (ns : List Notice) (fs : List FaultRecord) {extra : Cond → Bool}
    (hb : ∀ c : Cond, b.getLsbD c = (s.latches.getLsbD c || extra c)) :
    ∃ (b' : BitVec 45) (qs : List Notice),
      ({ s with latches := b, notices := ns } : State).recordFaults fs = { s with
        faults := (s.recordFaults fs).faults, overflow := (s.recordFaults fs).overflow, latches := b', notices := qs }
      ∧ ∀ c : Cond, b'.getLsbD c = ((s.recordFaults fs).latches.getLsbD c || extra c) := by
  let t : State := { s with latches := b, notices := ns }
  obtain ⟨hlog, hover, hlatch⟩ := s.recordFaults_logsFaults fs
  obtain ⟨hlog', hover', hlatch'⟩ := t.recordFaults_logsFaults fs
  obtain ⟨gs, o, l, qs, h⟩ := t.recordFaults_spec fs
  have hf : gs = (s.recordFaults fs).faults := by
    rw [h] at hlog'
    exact hlog'.trans hlog.symm
  have ho : o = (s.recordFaults fs).overflow := by
    rw [h] at hover'
    exact Bool.eq_iff_iff.2 (hover'.trans hover.symm)
  subst hf ho
  refine ⟨l, qs, h, fun c => ?_⟩
  rw [h] at hlatch'
  by_cases hif : fs ≠ [] ∧ s.faults.length < 8
  · rw [if_pos hif] at hlatch
    have hl : l = b ||| BitVec.twoPow 45 Cond.faultLogged := ((if_pos hif).mp hlatch').1
    rw [hl, hlatch.1, BitVec.getLsbD_or, BitVec.getLsbD_or, hb, Bool.or_right_comm]
  · rw [if_neg hif] at hlatch
    have hl : l = b := ((if_neg hif).mp hlatch').1
    rw [hl, hlatch.1, hb]

/-! ### The edge mark (R9) -/

/-- The state with the edge mark of the unit set and SOURCE_EDGE raised for the first edge pixel of a frame. -/
def State.edgeMarked (s : State) (k : Channel) (edge : Bool) : State :=
  if edge && !(s.warps.get k).edgeMark then
    (s.setWarp k { s.warps.get k with edgeMark := true }).raise (Cond.sourceEdge k)
  else s

theorem State.edgeMarked_eq (s : State) (k : Channel) (edge : Bool) : ∃ (b : BitVec 45) (ns : List Notice),
    s.edgeMarked k edge = { s with
      warps := s.warps.set k { s.warps.get k with edgeMark := (s.warps.get k).edgeMark || edge }, latches := b, notices := ns }
    ∧ ∀ c : Cond, b.getLsbD c = (s.latches.getLsbD c
        || decide (c = Cond.sourceEdge k ∧ edge = true ∧ (s.warps.get k).edgeMark = false)) := by
  unfold State.edgeMarked
  split
  next h =>
    simp only [Bool.and_eq_true, Bool.not_eq_true'] at h
    obtain ⟨b, ns, hr, hb⟩ := (s.setWarp k { s.warps.get k with edgeMark := true }).raise_eq (Cond.sourceEdge k)
    refine ⟨b, ns, ?_, fun c => ?_⟩
    · rw [hr, h.1, h.2]
      rfl
    · rw [hb, Bool.or_comm]
      simp [h.1, h.2]
  next h =>
    refine ⟨s.latches, s.notices, ?_, fun c => ?_⟩
    · have he : ((s.warps.get k).edgeMark || edge) = (s.warps.get k).edgeMark := by
        cases edge <;> cases hm : (s.warps.get k).edgeMark <;> simp_all
      rw [he]
      exact (congrArg (fun w => { s with warps := w }) (Quad.set_get s.warps k)).symm
    · have : ¬(c = Cond.sourceEdge k ∧ edge = true ∧ (s.warps.get k).edgeMark = false) := fun hc => h (by simp [hc.2.1, hc.2.2])
      simp [this]

/-- The state after the edge mark, the units worked on and the faults recorded. -/
theorem State.edgeMarked_recordFaults (s : State) (k : Channel) (edge : Bool) (u : WarpUnit) (v : LightUnit) (fs : List FaultRecord) :
    ∃ (b : BitVec 45) (qs : List Notice),
      ({ s.edgeMarked k edge with warps := s.warps.set k u, lights := s.lights.set k v } : State).recordFaults fs = { s with
        warps := s.warps.set k u, lights := s.lights.set k v, faults := (s.recordFaults fs).faults,
        overflow := (s.recordFaults fs).overflow, latches := b, notices := qs }
      ∧ ∀ c : Cond, b.getLsbD c = ((s.recordFaults fs).latches.getLsbD c
          || decide (c = Cond.sourceEdge k ∧ edge = true ∧ (s.warps.get k).edgeMark = false)) := by
  obtain ⟨b, ns, h, hb⟩ := s.edgeMarked_eq k edge
  obtain ⟨b', qs, hr, hb'⟩ := s.recordFaults_latched ns fs hb
  refine ⟨b', qs, ?_, hb'⟩
  rw [h]
  have := ({ s with latches := b, notices := ns } : State).recordFaults_withUnits (s.warps.set k u) (s.lights.set k v) fs
  rw [hr] at this
  exact this

/-! ### A unit's work with its faults -/

/-- The state with the unit of a channel worked on and the faults found on the way recorded. -/
def State.worked (s : State) (k : Channel) (u : WarpUnit) (fs : List FaultRecord) : State := (s.setWarp k u).recordFaults fs

theorem State.worked_warp (s : State) (k : Channel) (u : WarpUnit) (fs : List FaultRecord) : (s.worked k u fs).warps.get k = u :=
  (congrArg (Quad.get · k) ((s.setWarp k u).recordFaults_units_eq fs).1).trans (Quad.get_set_same _ k u)

theorem State.worked_frame (s : State) (k : Channel) (u : WarpUnit) (fs : List FaultRecord) :
    (s.worked k u fs).lights = s.lights ∧ (s.worked k u fs).rings = s.rings ∧ (s.worked k u fs).tables = s.tables
      ∧ (s.worked k u fs).now = s.now := ((s.setWarp k u).recordFaults_units_eq fs).2

theorem State.worked_worked (s : State) (k : Channel) (u v : WarpUnit) (fs gs : List FaultRecord) :
    (s.worked k u fs).worked k v gs = s.worked k v (fs ++ gs) := by
  unfold State.worked
  rw [State.recordFaults_setWarp, ← State.recordFaults_append, State.setWarp, State.setWarp_warps, Quad.set_set]
  rfl

theorem State.worked_leaveWaiting (s : State) (k : Channel) (u : WarpUnit) (fs : List FaultRecord) (walk : Walk) (p : WaitingPixel) :
    (s.worked k u fs).leaveWaiting k walk p = s.worked k { u with walk := some { walk with waiting := some p } } fs := by
  have h := s.worked_worked k u { u with walk := some { walk with waiting := some p } } fs []
  rw [List.append_nil] at h
  rw [State.leaveWaiting, State.worked_warp]
  exact h

theorem State.worked_handPixel (s : State) (k : Channel) (u : WarpUnit) (fs : List FaultRecord) (walk : Walk) (how : Handed) :
    (s.worked k u fs).handPixel k walk how = ({ s with
      warps := s.warps.set k { u with walk := some { walk with col := walk.col + 1, waiting := none } }
      lights := s.lights.set k { s.lights.get k with held := (s.lights.get k).held ++ [⟨walk.col, walk.line, how⟩] } }
        : State).recordFaults fs := by
  rw [State.worked, State.recordFaults_handPixel, State.setWarp_handPixel]

/-- Tags looked up: the entries whose tag fails given up with TAG_PARITY, then the lookups in order (R13, R21). -/
theorem State.lookUp_eq (s : State) (k : Channel) {ts : List Tag} (h : ts ≠ []) :
    s.lookUp k ts =
      (s.worked k (WarpUnit.lookupTags { s.warps.get k with cache := dropBadTags (s.warps.get k).cache } s.now ts).1
          ((badTags (s.warps.get k).cache).map fun _ => ⟨.tagParity, some k, s.shownFrame k, .absent⟩),
        (WarpUnit.lookupTags { s.warps.get k with cache := dropBadTags (s.warps.get k).cache } s.now ts).2) := by
  cases ts with
  | nil => exact absurd rfl h
  | cons t ts => rfl

/-- The unit with the entry that a lookup of the tag finds given up, and the tile read again (R20). -/
def WarpUnit.refetched (u : WarpUnit) (now : Nat) (t : Tag) : WarpUnit :=
  (WarpUnit.lookupTag { u with cache := dropTag u.cache t } now t).1

/-- Tiles whose data failed, each given up, recorded and read again in turn (R20). -/
theorem State.worked_refetches (k : Channel) (ts : List Tag) (s : State) (u : WarpUnit) (fs : List FaultRecord) :
    ts.foldl (fun s t => s.refetch k t) (s.worked k u fs) =
      s.worked k (ts.foldl (fun u t => u.refetched s.now t) u)
        (fs ++ ts.map fun t => ⟨.dataParity, some k, s.shownFrame k, .tile t.col t.row⟩) := by
  induction ts generalizing u fs with
  | nil => simp
  | cons t ts ih =>
    obtain ⟨-, hrings, -, hnow⟩ := s.worked_frame k u fs
    have hone : (s.worked k u fs).refetch k t =
        s.worked k (u.refetched s.now t) (fs ++ [⟨.dataParity, some k, s.shownFrame k, .tile t.col t.row⟩]) := by
      rw [← State.worked_worked s k u, State.refetch, State.worked_warp, State.shownFrame, State.shownFrame, hrings, hnow]
      rfl
    rw [List.foldl_cons, hone, ih, List.foldl_cons, List.map_cons, List.append_assoc]
    rfl

/-! ### Data parity in the terms of the statement -/

/-- Whether an entry that a lookup of the tag compares holds bad data. -/
def tagDataBad (c : Assoc TileEntry) (t : Tag) : Bool := c.any fun e => e.2.compared && (e.2.tag == t && e.2.dataBad)

theorem WarpUnit.dataFails_eq {w : WarpUnit} (h : w.cacheSound = true) (t : Tag) : dataFails w.cache t = tagDataBad w.cache t := by
  unfold dataFails
  cases hl : lookup w.cache t with
  | none =>
    refine (List.any_eq_false.2 fun e he => ?_).symm
    have := lookup_eq_none.1 hl e he
    simp only [Bool.and_eq_true, beq_iff_eq]
    exact fun ⟨hc, ht, _⟩ => this ⟨hc, ht⟩
  | some e =>
    obtain ⟨n, hn, hc, ht⟩ := lookup_some hl
    refine Bool.eq_iff_iff.2 ⟨fun hd => List.any_eq_true.2 ⟨_, hn, by simpa [hc, ht] using hd⟩, fun hany => ?_⟩
    obtain ⟨⟨m, d⟩, hm, hd⟩ := List.any_eq_true.1 hany
    simp only [Bool.and_eq_true, beq_iff_eq] at hd
    obtain ⟨hdc, hdt, hdb⟩ := hd
    cases WarpUnit.compared_unique h hn hm hc hdc (ht.trans hdt.symm)
    exact hdb

/-- A pixel with bad data leaves its tiles to be read again, and waits (R20). -/
theorem State.readTiles_refetches {s : State} {k : Channel} {slot : SlotNo} {x : Slot} {p : WaitingPixel}
    (h : ∃ t ∈ p.tags slot x, dataFails (s.warps.get k).cache t = true) (walk : Walk) :
    s.readTiles k walk slot x p = (((p.tags slot x).filter (dataFails (s.warps.get k).cache)).foldl (fun s t => s.refetch k t)
      s).leaveWaiting k walk { p with todo := [] } := by
  obtain ⟨t, ht, hd⟩ := h
  unfold State.readTiles
  cases hbad : (p.tags slot x).filter (dataFails (s.warps.get k).cache) with
  | nil =>
    have : t ∈ (p.tags slot x).filter (dataFails (s.warps.get k).cache) := List.mem_filter.2 ⟨ht, hd⟩
    rw [hbad] at this
    cases this
  | cons t ts => rfl

/-! ### The first work on a pixel -/

theorem State.exec_warpPixel_new {s : State} {k : Channel} {walk : Walk} {m : TableRecord} {q : FrameParameters}
    (hwalk : (s.warps.get k).walk = some walk) (hended : walk.ended = false) (hwait : walk.waiting = none)
    (hcol : walk.col < s.timer.width) (hm : s.record (s.warps.get k).mesh = some m) (hq : (s.lights.get k).params = some q) :
    exec (.warpPixel k []) s = .next (s.newPixel k walk m q) := by
  show execWarpPixel k [] s = _
  unfold execWarpPixel State.warpPixel
  simp only [State.upsets, List.foldl_nil, hwalk, hended, hwait, hm, hq, if_pos hcol]
  rfl

theorem State.newPixel_outside {s : State} {k : Channel} {walk : Walk} {m : TableRecord} {q : FrameParameters} (hbad : m.bad = [])
    (h : m.inside walk.col walk.line = false) : s.newPixel k walk m q = s.handPixel k walk .black := by
  unfold State.newPixel
  rw [TableRecord.parityFaults_of_good hbad, State.recordFaults_nil, h]
  rfl

theorem State.newPixel_flat {s : State} {k : Channel} {walk : Walk} {m : TableRecord} {q : FrameParameters} (hbad : m.bad = [])
    (h : m.inside walk.col walk.line = true) {f : Rgb Nat} (hf : q.flatSample = some f) :
    s.newPixel k walk m q = s.handPixel k walk (.sample f) := by
  unfold State.newPixel
  rw [TableRecord.parityFaults_of_good hbad, State.recordFaults_nil, h, hf]
  rfl

/-- An inside pixel of a VIDEO frame is placed in the source and sought (R9, R13). -/
theorem State.newPixel_video {s : State} {k : Channel} {walk : Walk} {m : TableRecord} {q : FrameParameters} {slot : SlotNo}
    (hbad : m.bad = []) (h : m.inside walk.col walk.line = true) (hf : q.flatSample = none)
    (hslot : shownSlot (s.rings.get k).slots = some slot) {px py : Int}
    (hpx : m.interpolate walk.col walk.line Entry.pointX = px) (hpy : m.interpolate walk.col walk.line Entry.pointY = py) :
    let x := (s.rings.get k).slots.get slot
    let y := s.edgeMarked k (clampChanges x.width px || clampChanges x.height py)
    s.newPixel k walk m q = y.seekPixel k walk ⟨clampSource x.width px, clampSource x.height py, []⟩ (y.lookUp k) := by
  unfold State.newPixel State.placePixel
  rw [TableRecord.parityFaults_of_good hbad, State.recordFaults_nil, h, hf, hpx, hpy]
  simp only [hslot]
  rfl

/-! ### Sizes of a slot SHOWN -/

theorem shownSlot_state {t : Trio Slot} {i : SlotNo} (h : shownSlot t = some i) : (t.get i).state = .shown := by
  have hmem := List.mem_of_mem_head? h
  simpa [slotsWhere] using (List.mem_filter.1 hmem).2

/-- The SHOWN slot of a sound part holds a frame of at least 16 × 8 pixels (R78). -/
theorem State.shown_size {s : State} (hs : s.slotsSound = true) {k : Channel} {i : SlotNo}
    (h : shownSlot (s.rings.get k).slots = some i) :
    16 ≤ ((s.rings.get k).slots.get i).width ∧ 8 ≤ ((s.rings.get k).slots.get i).height := by
  have hk := (channels_all _).1 hs k
  simp only [State.channelSlotsSound, Bool.and_eq_true, slotNos_all] at hk
  obtain ⟨⟨⟨⟨⟨hslot, -⟩, -⟩, -⟩, -⟩, -⟩ := hk
  have hi := hslot i
  simp only [slotSound, Bool.and_eq_true, shownSlot_state h, reduceCtorEq, if_false, sourceSizeLegal, decide_eq_true_eq] at hi
  obtain ⟨-, ⟨⟨⟨⟨⟨hw, -⟩, hh⟩, -⟩, -⟩, -⟩, -⟩ := hi
  exact ⟨hw, hh⟩

theorem clampSource_eq {n : Nat} (hn : 1 ≤ n) (x : Int) :
    (clampSource n x : Int) = if x < 0 then 0 else min x (64 * ((n : Int) - 1)) := by
  unfold clampSource clampInt
  split <;> omega

end Sys2Proof.Machine
end

section
/-! SUPPORT. The warp unit's lines and pixels as the commands work them (R5 to R13, R15 to R21). -/

namespace Sys2Proof.Machine

/-! ### The state after the edge mark -/

theorem State.edgeMarked_frame (s : State) (k : Channel) (edge : Bool) :
    (s.edgeMarked k edge).lights = s.lights ∧ (s.edgeMarked k edge).rings = s.rings ∧ (s.edgeMarked k edge).tables = s.tables
      ∧ (s.edgeMarked k edge).now = s.now := by
  obtain ⟨b, ns, h, -⟩ := s.edgeMarked_eq k edge
  rw [h]
  exact ⟨rfl, rfl, rfl, rfl⟩

theorem State.edgeMarked_warp (s : State) (k : Channel) (edge : Bool) : (s.edgeMarked k edge).warps.get k =
    { s.warps.get k with edgeMark := (s.warps.get k).edgeMark || edge } := by
  obtain ⟨b, ns, h, -⟩ := s.edgeMarked_eq k edge
  rw [h]
  exact Quad.get_set_same _ k _

theorem State.edgeMarked_warps_set (s : State) (k : Channel) (edge : Bool) (u : WarpUnit) :
    (s.edgeMarked k edge).warps.set k u = s.warps.set k u := by
  obtain ⟨b, ns, h, -⟩ := s.edgeMarked_eq k edge
  rw [h]
  exact Quad.set_set _ k _ _

/-- A unit's work after the edge mark, with its light unit as it was. -/
theorem State.edgeMarked_worked (s : State) (k : Channel) (edge : Bool) (u : WarpUnit) (fs : List FaultRecord) :
    (s.edgeMarked k edge).worked k u fs = ({ s.edgeMarked k edge with
      warps := s.warps.set k u, lights := s.lights.set k (s.lights.get k) } : State).recordFaults fs := by
  rw [State.worked, State.setWarp, State.edgeMarked_warps_set, Quad.set_get, ← (s.edgeMarked_frame k edge).1]

/-- The tags of a pixel's neighbours looked up for the first time. -/
def State.looked (s : State) (k : Channel) (ts : List Tag) : WarpUnit × List Tag :=
  WarpUnit.lookupTags { s.warps.get k with cache := dropBadTags (s.warps.get k).cache } s.now ts

/-- The TAG_PARITY records of the entries that the comparisons find (R21). -/
def State.tagFaults (s : State) (k : Channel) : List FaultRecord :=
  (badTags (s.warps.get k).cache).map fun _ => ⟨.tagParity, some k, s.shownFrame k, .absent⟩

/-- A pixel none of whose tiles has failed looks its tags up and is settled (R13, R19). -/
theorem State.seekPixel_new {s : State} {k : Channel} {slot : SlotNo} {p : WaitingPixel}
    (hslot : shownSlot (s.rings.get k).slots = some slot)
    (h : ∀ t ∈ p.tags slot ((s.rings.get k).slots.get slot), t ∉ (s.warps.get k).failed) (walk : Walk) :
    let x := (s.rings.get k).slots.get slot
    let r := s.looked k (p.tags slot x)
    s.seekPixel k walk p (s.lookUp k) = (s.worked k r.1 (s.tagFaults k)).settlePixel k walk slot x p r.2 := by
  have hne : p.tags slot ((s.rings.get k).slots.get slot) ≠ [] := List.cons_ne_nil _ _
  rw [State.seekPixel_looks hslot h, State.lookUp_eq s k hne]
  rfl

theorem State.worked_toneInUse (s : State) (k : Channel) (u : WarpUnit) (fs : List FaultRecord) :
    (s.worked k u fs).toneInUse k = s.toneInUse k := by
  obtain ⟨gs, o, l, ns, h⟩ := (s.setWarp k u).recordFaults_spec fs
  rw [State.worked, h]
  rfl

/-- A pixel with a lookup that must wait, or with a tag that is being read, waits after its lookups. -/
theorem State.seekPixel_new_waits {s : State} {k : Channel} {slot : SlotNo} {p : WaitingPixel} {x : Slot} {r : WarpUnit × List Tag}
    (hslot : shownSlot (s.rings.get k).slots = some slot) (hx : (s.rings.get k).slots.get slot = x)
    (hfresh : ∀ t ∈ p.tags slot x, t ∉ (s.warps.get k).failed) (hr : s.looked k (p.tags slot x) = r)
    (h : r.2 ≠ [] ∨ ∃ t ∈ p.tags slot x, standsFilling r.1.cache t = true) (walk : Walk) :
    s.seekPixel k walk p (s.lookUp k) =
      s.worked k { r.1 with walk := some { walk with waiting := some { p with todo := r.2 } } } (s.tagFaults k) := by
  subst hx hr
  rw [State.seekPixel_new hslot hfresh]
  refine (State.settlePixel_waits ?_ walk).trans (s.worked_leaveWaiting k _ _ walk _)
  rwa [State.worked_warp]

/-- A pixel whose tags all stand VALID after the lookups is read. -/
theorem State.seekPixel_new_reads {s : State} {k : Channel} {slot : SlotNo} {p : WaitingPixel} {x : Slot} {r : WarpUnit × List Tag}
    (hslot : shownSlot (s.rings.get k).slots = some slot) (hx : (s.rings.get k).slots.get slot = x)
    (hfresh : ∀ t ∈ p.tags slot x, t ∉ (s.warps.get k).failed) (hr : s.looked k (p.tags slot x) = r)
    (hdone : r.2 = []) (hvalid : ∀ t ∈ p.tags slot x, standsValid r.1.cache t = true) (walk : Walk) :
    s.seekPixel k walk p (s.lookUp k) = (s.worked k r.1 (s.tagFaults k)).readTiles k walk slot x p := by
  subst hx hr
  rw [State.seekPixel_new hslot hfresh]
  simp only [hdone]
  exact State.settlePixel_reads (by rwa [State.worked_warp]) walk

/-- With good data it is handed as its sample. -/
theorem State.worked_samples {s : State} {k : Channel} {u : WarpUnit} (htone : ∀ r, s.toneInUse k = some r → r.bad = [])
    {slot : SlotNo} {x : Slot} {p : WaitingPixel} (hdata : ∀ t ∈ p.tags slot x, dataFails u.cache t = false)
    (fs : List FaultRecord) (walk : Walk) :
    let at_ (j : Nat) : Pixel := cachedPixel u.cache slot ((neighbours x.width x.height p.x p.y).getD j (0, 0))
    (s.worked k u fs).readTiles k walk slot x p = ({ s with
      warps := s.warps.set k { u with walk := some { walk with col := walk.col + 1, waiting := none } }
      lights := s.lights.set k { s.lights.get k with
        held := (s.lights.get k).held ++ [⟨walk.col, walk.line,
          .sample (Sys2Proof.Machine.samplePixel (s.toneInUse k) p.x p.y (at_ 0) (at_ 1) (at_ 2) (at_ 3))⟩] } }
        : State).recordFaults fs := by
  intro at_
  rw [State.readTiles_samples (by rwa [State.worked_toneInUse]) (by rwa [State.worked_warp]), State.worked_handPixel,
    State.sampleOf, State.worked_toneInUse, State.worked_warp]

/-- With bad data its tiles are read again in turn, and it waits. -/
theorem State.worked_refetched {s : State} {k : Channel} {u : WarpUnit} (hu : u.cacheSound = true) {slot : SlotNo} {x : Slot}
    {p : WaitingPixel} (hdata : ∃ t ∈ p.tags slot x, tagDataBad u.cache t = true) (fs : List FaultRecord) (walk : Walk) :
    (s.worked k u fs).readTiles k walk slot x p =
      s.worked k { ((p.tags slot x).filter (tagDataBad u.cache)).foldl (fun v t => v.refetched s.now t) u with
          walk := some { walk with waiting := some { p with todo := [] } } }
        (fs ++ ((p.tags slot x).filter (tagDataBad u.cache)).map fun t =>
          ⟨.dataParity, some k, s.shownFrame k, .tile t.col t.row⟩) := by
  have hfails : dataFails u.cache = tagDataBad u.cache := funext (WarpUnit.dataFails_eq hu)
  rw [State.readTiles_refetches (by rwa [State.worked_warp, hfails]), State.worked_warp, hfails, State.worked_refetches,
    State.worked_leaveWaiting]

/-- The unit begins the next line where its line has ended and the deadline four lines before has passed (R6). -/
theorem State.exec_warpLineBegin {s : State} {k : Channel} {walk : Walk} (hwalk : (s.warps.get k).walk = some walk)
    (hline : walk.line + 1 < s.timer.height)
    (hended : walk.ended = true ∨ (s.lights.get k).lineComputed s.timer.width walk.line = true)
    (hdeadline : walk.line + 1 < 4 ∨ s.timer.passed (walk.line - 3) = true) :
    exec (.warpLineBegin k) s = .next { s with
      warps := s.warps.set k { s.warps.get k with failed := [], walk := some ⟨walk.line + 1, 0, false, none⟩ } } := by
  have hmay : s.mayBegin k walk = true := by
    have hsub : walk.line + 1 - 4 = walk.line - 3 := by omega
    simp only [State.mayBegin, State.lineEnded, hsub, Bool.and_eq_true, Bool.or_eq_true, decide_eq_true_eq]
    exact ⟨⟨hline, hended.imp_left .inl⟩, hdeadline⟩
  show execWarpLineBegin k s = _
  unfold execWarpLineBegin
  simp only [hwalk, hmay]
  rfl

/-- Settles O51: the pixel is placed in the source with the edge mark set, then its tags are looked up, and the four ways it
can end are those of `seekPixel`. -/
theorem warpPixelHandsPixel : Obligations.WarpPixelHandsPixel := by
  refine ⟨WarpUnit.lookupTag_spec, fun s k walk hwalk => ?_⟩
  intro w l past handed hand
  refine ⟨fun hline hended hdeadline => State.exec_warpLineBegin hwalk hline hended hdeadline,
    fun m q hended hwait hcol hm hq hbad => ⟨fun ⟨c, hc, hinv⟩ => ?_, fun hvalid => ⟨fun f hf => ?_, ?_⟩⟩⟩
  · have hin : m.inside walk.col walk.line = false := List.all_eq_false.2 ⟨c, hc, by simp [hinv]⟩
    rw [State.exec_warpPixel_new hwalk hended hwait hcol hm hq, State.newPixel_outside hbad hin]
    rfl
  · rw [State.exec_warpPixel_new hwalk hended hwait hcol hm hq, State.newPixel_flat hbad (List.all_eq_true.2 hvalid) hf]
    rfl
  intro slot x hflat hsound hslot hx htone px py inX inY cx cy ns ts marked fault ends waits
  subst hx
  obtain ⟨hwidth, hheight⟩ := State.shown_size hsound hslot
  have hX := (clampSource_inside ((s.rings.get k).slots.get slot).width px (by omega)).2.2.2
  have hY := (clampSource_inside ((s.rings.get k).slots.get slot).height py (by omega)).2.2.2
  have hedge : (clampChanges ((s.rings.get k).slots.get slot).width px || clampChanges ((s.rings.get k).slots.get slot).height py)
      = decide (¬(inX ∧ inY)) := by
    refine Bool.eq_iff_iff.2 ?_
    rw [decide_eq_true_eq, ← not_iff_not, not_not, Bool.not_eq_true, Bool.or_eq_false_iff, hX, hY]
  let y := s.edgeMarked k (decide (¬(inX ∧ inY)))
  obtain ⟨hlights, hrings, htables, hnow⟩ := s.edgeMarked_frame k (decide (¬(inX ∧ inY)))
  have hwarp := s.edgeMarked_warp k (decide (¬(inX ∧ inY)))
  let p : WaitingPixel := ⟨cx, cy, []⟩
  have hexec : exec (.warpPixel k []) s = .next (y.seekPixel k walk p (y.lookUp k)) := by
    rw [State.exec_warpPixel_new hwalk hended hwait hcol hm hq,
      State.newPixel_video hbad (List.all_eq_true.2 hvalid) hflat hslot rfl rfl, hedge]
  have hends : ∀ u v fs, y.seekPixel k walk p (y.lookUp k) =
      ({ y with warps := s.warps.set k u, lights := s.lights.set k v } : State).recordFaults fs → ends u v fs := fun u v fs hy => by
    obtain ⟨b, qs, h, hb⟩ := s.edgeMarked_recordFaults k (decide (¬(inX ∧ inY))) u v fs
    refine ⟨b, qs, hexec.trans (congrArg Host.Outcome.next (hy.trans h)), fun c => ?_⟩
    refine (hb c).trans (congrArg (Bool.or _) (decide_eq_decide.2 ?_))
    rw [decide_eq_true_eq]
  have hyslot : shownSlot (y.rings.get k).slots = some slot := by rwa [hrings]
  have hyx : (y.rings.get k).slots.get slot = (s.rings.get k).slots.get slot := by rw [hrings]
  have hyfailed : (y.warps.get k).failed = w.failed := by rw [hwarp]
  refine ⟨clampSource_eq (by omega) px, clampSource_eq (by omega) py, fun ⟨t, ht, hfail⟩ => ?_, ?_⟩
  · refine hends _ _ [] ((State.seekPixel_failed (p := p) hyslot ⟨t, hyx ▸ ht, hyfailed ▸ hfail⟩ walk _).trans ?_)
    rw [State.handPixel_spec, hwarp, hlights]
    exact congrArg (fun q => { y with warps := q, lights := s.lights.set k (handed .black) })
      (s.edgeMarked_warps_set k _ _)
  intro hfresh bad tagFaults looked c dataBad
  have hyfresh : ∀ t ∈ ts, t ∉ (y.warps.get k).failed := by rwa [hyfailed]
  have hlooked : y.looked k ts = looked := by
    rw [State.looked, hwarp, hnow]
    rfl
  have hfaults : y.tagFaults k = tagFaults := by
    rw [State.tagFaults, hwarp, State.shownFrame, hrings]
    rfl
  refine ⟨fun hwaits => ?_, fun hdone hstand hcache => ?_⟩
  · refine hends _ _ _ ((State.seekPixel_new_waits (p := p) hyslot hyx hyfresh hlooked hwaits walk).trans ?_)
    rw [hfaults]
    exact s.edgeMarked_worked k _ _ _
  have hread := State.seekPixel_new_reads (p := p) hyslot hyx hyfresh hlooked hdone hstand walk
  have hmarked : marked.cacheSound = true := hcache
  have hlsound : looked.1.cacheSound = true := WarpUnit.lookupTags_sound (WarpUnit.cacheSound_filter hmarked _) s.now ts
  rw [hfaults] at hread
  refine ⟨fun hgood => ?_, fun hdata => ?_⟩
  · have hsame : y.toneInUse k = s.toneInUse k := by
      obtain ⟨b, qs, h, -⟩ := s.edgeMarked_eq k (decide (¬(inX ∧ inY)))
      exact (congrArg (State.toneInUse · k) h).trans rfl
    have hfine : ∀ t ∈ ts, dataFails looked.1.cache t = false := fun t ht => (WarpUnit.dataFails_eq hlsound t).trans (hgood t ht)
    have hsample := State.worked_samples (s := y) (k := k) (by rwa [hsame]) (slot := slot) (p := p) hfine tagFaults walk
    simp only [hsame, hlights, State.edgeMarked_warps_set, y] at hsample
    exact hends _ _ _ (hread.trans hsample)
  · have hagain := State.worked_refetched (s := y) (k := k) hlsound (slot := slot) (p := p) hdata tagFaults walk
    rw [hnow, State.shownFrame, hrings] at hagain
    exact hends _ _ _ (hread.trans (hagain.trans (s.edgeMarked_worked k _ _ _)))

end Sys2Proof.Machine
end

section
/-! SUPPORT. The line that a channel hands at its deadline (R23, R24, R34, R127), and the rounds of the muster point and the
frame end (R101 to R104, R107, R109, R110). -/

namespace Sys2Proof.Machine

/-! ### The line handed -/

/-- The codes of line `v`, with code 0 where the unit hands no line. -/
def LightUnit.codesFor (l : LightUnit) (width v : Nat) : List Pixel :=
  match l.lineFor width v with
  | some (codes, _) => codes
  | none => solidLine width Pixel.zero

theorem LightUnit.lineFor_eq_none {l : LightUnit} {width v : Nat} (h : l.form = .noLines) : l.lineFor width v = none := by
  unfold LightUnit.lineFor
  rw [h]

/-- A form that hands lines hands the line of its codes; it takes a substitute where a walked frame lacks a column. -/
theorem LightUnit.lineFor_eq_some {l : LightUnit} {width v : Nat} (h : l.form ≠ .noLines) :
    l.lineFor width v = some (l.codesFor width v, l.form == .walked && !l.lineComputed width v) := by
  unfold LightUnit.codesFor LightUnit.lineFor
  cases hf : l.form with
  | noLines => exact absurd hf h
  | dark => rfl
  | zeroed => rfl
  | flat => rfl
  | walked => rfl

theorem LightUnit.codesFor_length (l : LightUnit) (width v : Nat) : (l.codesFor width v).length = width := by
  unfold LightUnit.codesFor LightUnit.lineFor
  cases l.form <;> simp [solidLine]

theorem LightUnit.codesFor_zero {l : LightUnit} (h : l.form = .noLines ∨ l.form = .dark ∨ l.form = .zeroed) (width v : Nat) :
    l.codesFor width v = List.replicate width Pixel.zero := by
  unfold LightUnit.codesFor LightUnit.lineFor
  rcases h with h | h | h <;> rw [h] <;> rfl

theorem LightUnit.codesFor_flat {l : LightUnit} {q : FrameParameters} (h : l.form = .flat) (hq : l.params = some q) (width v : Nat) :
    l.codesFor width v = List.replicate width q.flatCodes := by
  unfold LightUnit.codesFor LightUnit.lineFor
  rw [h, hq]
  rfl

/-- A walked line holds the code written or its substitute in each column. -/
theorem LightUnit.codesFor_walked {l : LightUnit} (h : l.form = .walked) {width u : Nat} (hu : u < width) (v : Nat) :
    (l.codesFor width v)[u]? = some ((l.written v u).getD (l.substitute v u)) := by
  unfold LightUnit.codesFor LightUnit.lineFor
  rw [h]
  simp [hu]

/-- What the deadline hands a channel's lane. -/
theorem State.deadlinePort_eq (s : State) (v : Nat) (k : Channel) : s.deadlinePort v k =
    let p := s.outputs.get k
    if p.state = .active then { p with lane := p.lane ++ [.line v ((s.lights.get k).codesFor s.timer.width v)] }
    else if p.state = .settling ∨ p.state = .retrain then
      { p with lane := p.lane ++ [.line v (List.replicate s.timer.width Pixel.zero)] }
    else p := by
  have hactive : (s.outputs.get k).state = .active →
      s.laneLine k v = .line v ((s.lights.get k).codesFor s.timer.width v) := fun h => by
    unfold State.laneLine LightUnit.codesFor
    rw [h]
    cases (s.lights.get k).lineFor s.timer.width v <;> rfl
  have hother : (s.outputs.get k).state ≠ .active →
      s.laneLine k v = .line v (List.replicate s.timer.width Pixel.zero) := fun h => by
    unfold State.laneLine
    split
    next hs _ => exact absurd hs h
    · rfl
  unfold State.deadlinePort
  cases hs : (s.outputs.get k).state with
  | active => simp [hs, PortState.drives, hactive hs]
  | settling => simp [hs, PortState.drives, hother (hs ▸ by decide)]
  | retrain => simp [hs, PortState.drives, hother (hs ▸ by decide)]
  | absent =>
    simp only [hs, PortState.drives, Bool.false_eq_true, if_false, List.append_nil, reduceCtorEq, or_self]
    rw [← hs]
  | failed =>
    simp only [hs, PortState.drives, Bool.false_eq_true, if_false, List.append_nil, reduceCtorEq, or_self]
    rw [← hs]

/-- What the deadline leaves in a channel's light unit. -/
theorem State.deadlineLight_eq {s : State} {k : Channel} (h : (s.lights.get k).form ≠ .noLines) (v : Nat) :
    s.deadlineLight v k = (s.lights.get k).afterLine v ((s.lights.get k).codesFor s.timer.width v) := by
  unfold State.deadlineLight
  rw [LightUnit.lineFor_eq_some h]

theorem State.deadlineLight_noLines {s : State} {k : Channel} (h : (s.lights.get k).form = .noLines) (v : Nat) :
    s.deadlineLight v k = s.lights.get k := by
  unfold State.deadlineLight
  rw [LightUnit.lineFor_eq_none h]

/-- A line is late where it is walked and a column of it is not written (R24). -/
theorem State.deadlineLate_eq (s : State) (v : Nat) (k : Channel) : s.deadlineLate v k =
    ((s.lights.get k).form == .walked && !(s.lights.get k).lineComputed s.timer.width v) := by
  unfold State.deadlineLate
  by_cases h : (s.lights.get k).form = .noLines
  · rw [LightUnit.lineFor_eq_none h, h]
    rfl
  · rw [LightUnit.lineFor_eq_some h]

/-! ### The rounds of the muster point -/

/-- The presence bits that a part writes into a vector (R142). -/
def State.ownBits (s : State) (x base : Vec32) : Prop := ∀ n : Nat, n < 32 → x.getLsbD n =
  if s.straps.firstBit ≤ n ∧ n < s.straps.firstBit + 4 then (confirmedNibble s.loss.confirmed).testBit (n - s.straps.firstBit)
  else base.getLsbD n

theorem State.ownBits_writeOwnBits (s : State) (v : Vec32) : s.ownBits (s.writeOwnBits v) v := s.writeOwnBits_bit v

/-- The proposal of a master's round: its newest common frame, or the returned floor (R101). -/
def State.proposal (s : State) : Option FrameNo :=
  match s.newestCommon with
  | some f => some f
  | none => s.coh.floor

/-- A token with the flag bits of three values carries them (R169). -/
theorem MusterToken.carries (seq hop : BitVec 8) (p f : Option FrameNo) (ready : Bool) (pw fw : Nat) (vec : Vec32) :
    let m : MusterToken :=
      ⟨seq, presentBit p 1 ||| presentBit f 2 ||| (if ready then 4 else 0), frameWord p pw, frameWord f fw, hop, vec⟩
    m.proposal = p ∧ m.floor = f ∧ m.allReady = ready := by
  cases p <;> cases f <;> cases ready <;>
    simp [MusterToken.proposal, MusterToken.floor, MusterToken.allReady, presentBit, frameWord]

/-- A master opens a round. -/
theorem State.openRound_eq (s : State) : ∃ m : MusterToken,
    s.openRound = { s with
      rings := (s.reserve s.proposal).rings
      coh := { s.coh with seq := s.coh.seq + 1, round := some ⟨s.coh.seq + 1, m.proposal⟩, floor := none }
      ringOut := s.ringOut ++ [musterBytes m]
      free := s.free + 3 }
    ∧ m.seq = s.coh.seq + 1 ∧ m.proposal = s.proposal ∧ m.floor = s.newestCommon ∧ m.allReady = s.readyFor m.proposal
    ∧ m.hop = 0 ∧ s.ownBits m.vector (BitVec.allOnes 32) := by
  let m : MusterToken := ⟨s.coh.seq + 1, presentBit s.proposal 1 ||| presentBit s.newestCommon 2
    ||| (if s.readyFor s.proposal then 4 else 0), frameWord s.proposal (s.useFree 1).freeValue,
    frameWord s.newestCommon (s.useFree 2).freeValue, 0, s.writeOwnBits (BitVec.allOnes 32)⟩
  obtain ⟨hp, hf, hr⟩ : m.proposal = s.proposal ∧ m.floor = s.newestCommon ∧ m.allReady = s.readyFor s.proposal :=
    MusterToken.carries _ _ _ _ _ _ _ _
  refine ⟨m, ?_, rfl, hp, hf, hp ▸ hr, rfl, s.ownBits_writeOwnBits _⟩
  rw [hp]
  rfl

/-- A solo part decides its round at once. -/
theorem State.soloRound_eq (s : State) : ∃ n : Nat,
    s.soloRound = { s with
      rings := (s.reserve s.newestCommon).rings
      coh := { s.coh with
        repeatCount := (closeOutcome s.settings.coherenceLimit s.coh.repeatCount s.newestCommon (s.readyFor s.newestCommon)).2
        pending := some ⟨(closeOutcome s.settings.coherenceLimit s.coh.repeatCount s.newestCommon
          (s.readyFor s.newestCommon)).1, none⟩ }
      free := n } := ⟨s.free + 1, rfl⟩

theorem State.followerMuster_eq (s : State) : s.followerMuster = { s with
    coh := { s.coh with musterMark := true, pending := if s.coh.ringLost then some ⟨.loose, none⟩ else s.coh.pending } } := by
  by_cases h : s.coh.ringLost = true
  · rw [if_pos h]
    exact if_pos h
  · rw [if_neg h]
    exact if_neg h

/-- The outcome of a round that failed (R103). -/
theorem closeOutcome_failed (limit count : Nat) (p : Option FrameNo) : closeOutcome limit count p false =
    (if limit ≤ min (count + 1) 255 then .loose else .repeat, min (count + 1) 255) := by
  cases p <;> rfl

end Sys2Proof.Machine
end

section
/-! SUPPORT. The coherence unit at a line deadline, by role (R101 to R104, R107, R109, R110, R122), and the deadline as a
whole. -/

namespace Sys2Proof.Machine

/-! ### The muster point where it falls -/

theorem State.musterAt_due {s : State} {v : Nat} (h : v = s.timer.musterLine ∧ s.timer.musterDone = false) :
    s.musterAt v = ({ s with timer := { s.timer with musterDone := true } } : State).musterPoint :=
  if_pos (by simp [h.1, h.2])

theorem State.musterAt_idle {s : State} {v : Nat} (h : ¬(v = s.timer.musterLine ∧ s.timer.musterDone = false)) :
    s.musterAt v = s :=
  if_neg (by simpa using h)

theorem State.musterPoint_follower {s : State} (h : s.straps.role = .follower) : s.musterPoint = s.followerMuster := by
  unfold State.musterPoint
  rw [h]

theorem State.musterPoint_solo {s : State} (h : s.straps.role = .solo) :
    s.musterPoint = (s.setCoh { s.coh with musterMark := true }).soloRound := by
  unfold State.musterPoint
  rw [h]

theorem State.musterPoint_master {s : State} (h : s.straps.role = .master) :
    s.musterPoint = (s.setCoh { s.coh with musterMark := true }).openRound := by
  unfold State.musterPoint
  rw [h]

/-! ### The frame end (R104) -/

theorem State.frameEndRound_idle {s : State} (h : s.straps.role = .master → s.coh.round = none) : s.frameEndRound = s := by
  unfold State.frameEndRound
  split
  next r hrole hr => simp [h hrole] at hr
  · rfl

/-- A master whose round is open closes it as not ready. -/
theorem State.frameEndRound_closes {s : State} {r : Round} (hrole : s.straps.role = .master) (hr : s.coh.round = some r) :
    let count := min (s.coh.repeatCount + 1) 255
    let failed : RoundOutcome := if s.settings.coherenceLimit ≤ count then .loose else .repeat
    ∃ (x : ShowToken) (n : Nat),
      s.frameEndRound = { s with
        coh := { s.coh with repeatCount := count, round := none, pending := some ⟨failed, some x.vector⟩,
                            showSent := some ⟨r.seq, x.vector, false⟩ }
        ringOut := s.ringOut ++ [showBytes x]
        free := n }
      ∧ x.seq = r.seq ∧ x.echo = r.proposal ∧ x.outcome = some failed
      ∧ s.ownBits x.vector (match s.coh.showApplied with | some y => y.vector | none => BitVec.allOnes 32) := by
  let base : Vec32 := match s.coh.showApplied with
    | some y => y.vector
    | none => BitVec.allOnes 32
  obtain ⟨x, hx, hseq, hvec, hecho, hout⟩ := s.closeMasterRound_spec r false (s.writeOwnBits base)
  have hend : s.frameEndRound = s.closeMasterRound r false (s.writeOwnBits base) := by
    unfold State.frameEndRound
    split
    next r' _ hr' =>
      obtain rfl : r = r' := Option.some.inj (hr.symm.trans hr')
      rfl
    next hno => exact (hno r hrole hr).elim
  rw [closeOutcome_failed] at hx hout
  refine ⟨x, s.free + 2, hend.trans ?_, hseq, hecho, hout, hvec ▸ s.ownBits_writeOwnBits base⟩
  rw [hvec]
  exact hx

/-! ### The part when its lines are handed -/

/-- The part at the deadline of line `v`, with every line handed and the timer moved on. -/
def State.pastLine (s : State) (v : Nat) : State := { s.lined v with timer := (s.lined v).timer.afterDeadline v }

theorem State.pastLine_eq (s : State) (v : Nat) :
    ∃ (p : Quad OutputPort) (w : Quad WarpUnit) (u : Quad LightUnit) (b : BitVec 45) (ns : List Notice),
      s.pastLine v = { s with
        now := max s.now (s.timer.start + s.timer.deadline v)
        outputs := p
        warps := w
        lights := u
        latches := b
        notices := ns
        timer := s.timer.afterDeadline v }
      ∧ (∀ k, b.getLsbD (Cond.sourceLate k) = (s.deadlineLate v k || s.latches.getLsbD (Cond.sourceLate k)))
      ∧ ∀ d : Cond, (∀ k, d ≠ Cond.sourceLate k) → b.getLsbD d = s.latches.getLsbD d := by
  obtain ⟨p, w, u, b, ns, h, -, hlate, hother⟩ := s.lined_eq v
  exact ⟨p, w, u, b, ns, by rw [State.pastLine, h], hlate, hother⟩

/-- After the lines the muster point falls where it is due, and after the last line the frame ends. -/
theorem State.deadlineOf_eq_rounds (s : State) (v : Nat) : s.deadlineOf v =
    if s.timer.height ≤ v + 1 then ((s.pastLine v).musterAt v).frameEndRound else (s.pastLine v).musterAt v := by
  have hphase : ((s.pastLine v).musterAt v).timer.phase = .blanking ↔ s.timer.height ≤ v + 1 := by
    obtain ⟨c, r, m, n, hm⟩ := (s.pastLine v).musterAt_spec v
    obtain ⟨p, w, u, b, ns, h, -⟩ := s.pastLine_eq v
    rw [hm, h]
    show (if v + 1 < s.timer.height then RasterPhase.activeLines (v + 1) else .blanking) = .blanking ↔ _
    split
    next hlt => simpa using hlt
    next hge => simpa using hge
  exact if_congr hphase rfl rfl

theorem State.deadlineOf_latches (s : State) (v : Nat) : (s.deadlineOf v).latches = (s.pastLine v).latches := by
  obtain ⟨c, r, m, n, hm⟩ := (s.pastLine v).musterAt_spec v
  rw [State.deadlineOf_eq_rounds, hm]
  split
  · obtain ⟨c', m', n', he⟩ := State.frameEndRound_spec _
    rw [he]
  · rfl

/-! ### The coherence unit, by role -/

theorem State.deadlineOf_other {s : State} (h : s.straps.role ≠ .master) (v : Nat) :
    s.deadlineOf v = (s.pastLine v).musterAt v := by
  obtain ⟨c, r, m, n, hm⟩ := (s.pastLine v).musterAt_spec v
  obtain ⟨p, w, u, b, ns, hp, -⟩ := s.pastLine_eq v
  have hidle : ((s.pastLine v).musterAt v).frameEndRound = (s.pastLine v).musterAt v :=
    State.frameEndRound_idle fun hrole => absurd hrole (by rw [hm, hp]; exact h)
  rw [State.deadlineOf_eq_rounds, hidle, ite_self]

/-- A follower's muster point (R107, R109). -/
theorem State.musterAt_follower {s : State} (h : s.straps.role = .follower) (v : Nat) :
    (s.musterAt v).rings = s.rings ∧ (s.musterAt v).ringOut = s.ringOut ∧ (s.musterAt v).coh =
      if v = s.timer.musterLine ∧ s.timer.musterDone = false then
        { s.coh with musterMark := true, pending := if s.coh.ringLost then some ⟨.loose, none⟩ else s.coh.pending }
      else s.coh := by
  split
  next hdue =>
    have hpoint : s.musterAt v = ({ s with timer := { s.timer with musterDone := true } } : State).followerMuster :=
      (State.musterAt_due hdue).trans (State.musterPoint_follower h)
    rw [hpoint, State.followerMuster_eq]
    exact ⟨rfl, rfl, rfl⟩
  next hdue =>
    rw [State.musterAt_idle hdue]
    exact ⟨rfl, rfl, rfl⟩

/-- A solo part's muster point (R110). -/
theorem State.musterAt_solo {s : State} (h : s.straps.role = .solo) (v : Nat) :
    let muster : Prop := v = s.timer.musterLine ∧ s.timer.musterDone = false
    let count := min (s.coh.repeatCount + 1) 255
    let failed : RoundOutcome := if s.settings.coherenceLimit ≤ count then .loose else .repeat
    (s.musterAt v).ringOut = s.ringOut
      ∧ (¬muster → (s.musterAt v).rings = s.rings) ∧ (muster → (s.musterAt v).rings = (s.reserve s.newestCommon).rings)
      ∧ (s.musterAt v).coh =
        if muster then
          if s.readyFor s.newestCommon then
            { s.coh with musterMark := true, repeatCount := 0, pending := s.newestCommon.map fun f => ⟨.show f, none⟩ }
          else { s.coh with musterMark := true, repeatCount := count, pending := some ⟨failed, none⟩ }
        else s.coh := by
  intro muster count failed
  by_cases hdue : muster
  · let x : State := { s with timer := { s.timer with musterDone := true } }
    obtain ⟨n, hn⟩ := State.soloRound_eq (x.setCoh { s.coh with musterMark := true })
    have hpoint := (State.musterAt_due hdue).trans ((State.musterPoint_solo (s := x) h).trans hn)
    rw [hpoint, if_pos hdue]
    refine ⟨rfl, absurd hdue, fun _ => rfl, ?_⟩
    show { s.coh with
      musterMark := true
      repeatCount := (closeOutcome s.settings.coherenceLimit s.coh.repeatCount s.newestCommon (s.readyFor s.newestCommon)).2
      pending := some ⟨(closeOutcome s.settings.coherenceLimit s.coh.repeatCount s.newestCommon
        (s.readyFor s.newestCommon)).1, none⟩ } = _
    cases hc : s.newestCommon with
    | none => rfl
    | some f => cases hr : s.readyFor (some f) <;> rfl
  · rw [State.musterAt_idle hdue, if_neg hdue]
    exact ⟨rfl, fun _ => rfl, fun h => absurd h hdue, rfl⟩

/-- A master's round after the muster point of a deadline: opened where the point falls there, and else as it was (R101). -/
theorem State.musterAt_master {s : State} (h : s.straps.role = .master) (v : Nat) :
    let muster : Prop := v = s.timer.musterLine ∧ s.timer.musterDone = false
    ∃ (c : Coherence) (opened : List Bytes) (rings : Quad SlotRing) (n : Nat) (tm : RasterTimer),
      s.musterAt v = { s with coh := c, rings := rings, ringOut := s.ringOut ++ opened, free := n, timer := tm }
      ∧ c.repeatCount = s.coh.repeatCount ∧ c.showApplied = s.coh.showApplied
      ∧ (¬muster → c = s.coh ∧ opened = [] ∧ rings = s.rings)
      ∧ (muster → rings = (s.reserve s.proposal).rings ∧ ∃ m : MusterToken, opened = [musterBytes m]
          ∧ c = { s.coh with musterMark := true, seq := s.coh.seq + 1,
                               round := some ⟨s.coh.seq + 1, m.proposal⟩, floor := none }
          ∧ m.seq = s.coh.seq + 1 ∧ m.proposal = s.proposal ∧ m.floor = s.newestCommon ∧ m.allReady = s.readyFor m.proposal
          ∧ m.hop = 0 ∧ s.ownBits m.vector (BitVec.allOnes 32)) := by
  intro muster
  by_cases hdue : muster
  · let x : State := { s with timer := { s.timer with musterDone := true } }
    obtain ⟨m, hm, hfacts⟩ := State.openRound_eq (x.setCoh { s.coh with musterMark := true })
    exact ⟨_, [musterBytes m], _, _, _, (State.musterAt_due hdue).trans ((State.musterPoint_master (s := x) h).trans hm), rfl, rfl,
      absurd hdue, fun _ => ⟨rfl, m, rfl, rfl, hfacts⟩⟩
  · exact ⟨s.coh, [], s.rings, s.free, s.timer, (State.musterAt_idle hdue).trans (by rw [List.append_nil]), rfl, rfl,
      fun _ => ⟨rfl, rfl, rfl⟩, fun h => absurd h hdue⟩

/-- A follower's deadline. -/
theorem State.deadlineOf_follower {s : State} (h : s.straps.role = .follower) (v : Nat) :
    (s.deadlineOf v).rings = s.rings ∧ (s.deadlineOf v).ringOut = s.ringOut ∧ (s.deadlineOf v).coh =
      if v = s.timer.musterLine ∧ s.timer.musterDone = false then
        { s.coh with musterMark := true, pending := if s.coh.ringLost then some ⟨.loose, none⟩ else s.coh.pending }
      else s.coh := by
  obtain ⟨p, w, u, b, ns, hp, -⟩ := s.pastLine_eq v
  have hround := State.musterAt_follower (s := s.pastLine v) (by rwa [hp]) v
  rw [hp] at hround
  rw [State.deadlineOf_other (by simp [h]), hp]
  exact hround

/-- A solo part's deadline. -/
theorem State.deadlineOf_solo {s : State} (h : s.straps.role = .solo) (v : Nat) :
    let muster : Prop := v = s.timer.musterLine ∧ s.timer.musterDone = false
    let count := min (s.coh.repeatCount + 1) 255
    let failed : RoundOutcome := if s.settings.coherenceLimit ≤ count then .loose else .repeat
    (s.deadlineOf v).ringOut = s.ringOut
      ∧ (¬muster → (s.deadlineOf v).rings = s.rings) ∧ (muster → (s.deadlineOf v).rings = (s.reserve s.newestCommon).rings)
      ∧ (s.deadlineOf v).coh =
        if muster then
          if s.readyFor s.newestCommon then
            { s.coh with musterMark := true, repeatCount := 0, pending := s.newestCommon.map fun f => ⟨.show f, none⟩ }
          else { s.coh with musterMark := true, repeatCount := count, pending := some ⟨failed, none⟩ }
        else s.coh := by
  obtain ⟨p, w, u, b, ns, hp, -⟩ := s.pastLine_eq v
  have hround := State.musterAt_solo (s := s.pastLine v) (by rwa [hp]) v
  rw [hp] at hround
  rw [State.deadlineOf_other (by simp [h]), hp]
  exact hround

/-- A master's deadline (R101, R104). -/
theorem State.deadlineOf_master {s : State} (h : s.straps.role = .master) (v : Nat) :
    let muster : Prop := v = s.timer.musterLine ∧ s.timer.musterDone = false
    let last : Prop := s.timer.height ≤ v + 1
    let count := min (s.coh.repeatCount + 1) 255
    let failed : RoundOutcome := if s.settings.coherenceLimit ≤ count then .loose else .repeat
    let t := s.deadlineOf v
    (¬muster → t.rings = s.rings) ∧ (muster → t.rings = (s.reserve s.proposal).rings)
      ∧ ∃ (c : Coherence) (opened closed : List Bytes), t.ringOut = s.ringOut ++ opened ++ closed
        ∧ (¬muster → c = s.coh ∧ opened = [])
        ∧ (muster → ∃ m : MusterToken, opened = [musterBytes m]
            ∧ c = { s.coh with musterMark := true, seq := s.coh.seq + 1,
                               round := some ⟨s.coh.seq + 1, m.proposal⟩, floor := none }
            ∧ m.seq = s.coh.seq + 1 ∧ m.proposal = s.proposal ∧ m.floor = s.newestCommon ∧ m.allReady = s.readyFor m.proposal
            ∧ m.hop = 0 ∧ s.ownBits m.vector (BitVec.allOnes 32))
        ∧ (¬(last ∧ c.round ≠ none) → t.coh = c ∧ closed = [])
        ∧ ∀ r : Round, last → c.round = some r → ∃ x : ShowToken, closed = [showBytes x]
            ∧ t.coh = { c with repeatCount := count, round := none, pending := some ⟨failed, some x.vector⟩,
                               showSent := some ⟨r.seq, x.vector, false⟩ }
            ∧ x.seq = r.seq ∧ x.echo = r.proposal ∧ x.outcome = some failed
            ∧ s.ownBits x.vector (match s.coh.showApplied with | some y => y.vector | none => BitVec.allOnes 32) := by
  intro muster last count failed t
  obtain ⟨p, w, u, b, ns, hp, -⟩ := s.pastLine_eq v
  obtain ⟨c, opened, rings, n, tm, hm, hcount, happlied, hidle, hdue⟩ :=
    State.musterAt_master (s := s.pastLine v) (by rwa [hp]) v
  have hrounds := s.deadlineOf_eq_rounds v
  rw [hm] at hrounds
  rw [hp] at hrounds hidle hdue hcount happlied
  have hopened : (¬muster → c = s.coh ∧ opened = []) ∧ (¬muster → rings = s.rings)
      ∧ (muster → rings = (s.reserve s.proposal).rings) :=
    ⟨fun hn => ⟨(hidle hn).1, (hidle hn).2.1⟩, fun hn => (hidle hn).2.2, fun hd => (hdue hd).1⟩
  by_cases hclose : last ∧ c.round ≠ none
  · obtain ⟨r, hr⟩ := Option.ne_none_iff_exists'.1 hclose.2
    obtain ⟨x, n', hx, hseq, hecho, hout, hown⟩ := State.frameEndRound_closes (s := { s with
      now := max s.now (s.timer.start + s.timer.deadline v), outputs := p, warps := w, lights := u, latches := b, notices := ns,
      coh := c, rings := rings, ringOut := s.ringOut ++ opened, free := n, timer := tm }) h hr
    have ht := (hrounds.trans (if_pos hclose.1)).trans hx
    rw [hcount] at ht hout
    rw [happlied] at hown
    have hrings : t.rings = rings := congrArg State.rings ht
    refine ⟨hrings ▸ hopened.2.1, hrings ▸ hopened.2.2, c, opened, [showBytes x], congrArg State.ringOut ht, hopened.1,
      fun hd => (hdue hd).2, absurd hclose, fun r' _ hr' => ⟨x, rfl, ?_⟩⟩
    obtain rfl : r = r' := Option.some.inj (hr.symm.trans hr')
    exact ⟨congrArg State.coh ht, hseq, hecho, hout, hown⟩
  · have hopen : ¬last ∨ c.round = none := by
      by_contra hn
      rw [not_or, not_not] at hn
      exact hclose hn
    have ht := hrounds.trans (show _ = ({ s with
      now := max s.now (s.timer.start + s.timer.deadline v), outputs := p, warps := w, lights := u, latches := b, notices := ns,
      coh := c, rings := rings, ringOut := s.ringOut ++ opened, free := n, timer := tm } : State) from by
        split
        next hlast => exact State.frameEndRound_idle fun _ => hopen.resolve_left (not_not.2 hlast)
        · rfl)
    have hrings : t.rings = rings := congrArg State.rings ht
    refine ⟨hrings ▸ hopened.2.1, hrings ▸ hopened.2.2, c, opened, [], ?_, hopened.1, fun hd => (hdue hd).2,
      fun _ => ⟨congrArg State.coh ht, rfl⟩, fun r hlast hr => absurd ⟨hlast, by simp [hr]⟩ hclose⟩
    rw [List.append_nil]
    exact congrArg State.ringOut ht

end Sys2Proof.Machine
end

section
/-! SUPPORT. The line deadline (R23, R24, R101 to R104, R121, R122, R127). -/

namespace Sys2Proof.Machine

theorem State.exec_lineDeadline {s : State} {v : Nat} (h : s.timer.phase = .activeLines v) :
    exec .lineDeadline s = .next (s.deadlineOf v) := by
  show execLineDeadline s = _
  unfold execLineDeadline
  rw [h]

/-- The latches after a deadline: SOURCE_LATE of the channels with a column not written, and the others as they were (R24). -/
theorem State.deadlineOf_latch (s : State) (v : Nat) :
    (∀ k, (s.deadlineOf v).latches.getLsbD (Cond.sourceLate k) = (s.latches.getLsbD (Cond.sourceLate k)
        || ((s.lights.get k).form == .walked && !(s.lights.get k).lineComputed s.timer.width v)))
      ∧ ∀ c : Cond, (∀ k, c ≠ Cond.sourceLate k) → (s.deadlineOf v).latches.getLsbD c = s.latches.getLsbD c := by
  obtain ⟨p, w, u, b, ns, h, hlate, hother⟩ := s.pastLine_eq v
  rw [State.deadlineOf_latches, h]
  exact ⟨fun k => by rw [← s.deadlineLate_eq v k, Bool.or_comm]; exact hlate k, hother⟩

/-- What a channel's units and port are after a deadline, in the terms of the statement. -/
theorem State.deadline_channel (s : State) (v : Nat) (k : Channel) :
    let p := s.outputs.get k
    let l := s.lights.get k
    let zero : List Pixel := List.replicate s.timer.width Pixel.zero
    s.deadlineWarp v k = { s.warps.get k with walk := (s.warps.get k).walk.map fun x =>
        if x.line ≤ v then { x with line := v, ended := true, waiting := none } else x }
    ∧ (l.form = .noLines → s.deadlineLight v k = l)
    ∧ ∃ codes : List Pixel, codes.length = s.timer.width
        ∧ (l.form ≠ .noLines → s.deadlineLight v k =
            { l with handed := some ⟨v, codes⟩, buffers := l.buffers.filter fun b => decide (v < b.line) })
        ∧ s.deadlinePort v k = (if p.state = .active then { p with lane := p.lane ++ [.line v codes] }
            else if p.state = .settling ∨ p.state = .retrain then { p with lane := p.lane ++ [.line v zero] } else p)
        ∧ (l.form = .noLines ∨ l.form = .dark ∨ l.form = .zeroed → codes = zero)
        ∧ (∀ q : FrameParameters, l.form = .flat → l.params = some q → codes = List.replicate s.timer.width q.flatCodes)
        ∧ (l.form = .walked → ∀ u : Nat, u < s.timer.width → codes[u]? = some ((l.written v u).getD (l.substitute v u))) :=
  ⟨rfl, fun h => State.deadlineLight_noLines h v, (s.lights.get k).codesFor s.timer.width v, LightUnit.codesFor_length _ _ _,
    fun h => State.deadlineLight_eq h v, s.deadlinePort_eq v k, fun h => LightUnit.codesFor_zero h _ _,
    fun _ h hq => LightUnit.codesFor_flat h hq _ _, fun h _ hu => LightUnit.codesFor_walked h hu v⟩

/-- Settles O47: each channel's line, then the round of the muster point and of the frame end by role. -/
theorem deadlineHandsLine : Obligations.DeadlineHandsLine := by
  intro s v hphase muster last count failed own
  obtain ⟨p, w, u, b, ns, c, r, m, n, ht, hu⟩ := s.deadlineOf_eq v
  obtain ⟨hlate, hother⟩ := s.deadlineOf_latch v
  have hfollower := fun h => State.deadlineOf_follower (s := s) h v
  have hsolo := fun h => State.deadlineOf_solo (s := s) h v
  have hmaster := fun h => State.deadlineOf_master (s := s) h v
  have hrings : ¬(muster ∧ s.straps.role ≠ .follower) → (s.deadlineOf v).rings = s.rings := fun hn => by
    cases hrole : s.straps.role with
    | follower => exact (hfollower hrole).1
    | solo => exact (hsolo hrole).2.1 fun hm => hn ⟨hm, by simp [hrole]⟩
    | master => exact (hmaster hrole).1 fun hm => hn ⟨hm, by simp [hrole]⟩
  refine ⟨s.deadlineOf v, State.exec_lineDeadline hphase, (congrArg State.now ht :), (congrArg State.timer ht :),
    (congrArg State.pending ht :), (congrArg State.straps ht :), (congrArg State.inputs ht :), (congrArg State.modes ht :),
    (congrArg State.loss ht :), (congrArg State.tables ht :), (congrArg State.cells ht :), (congrArg State.resetWait ht :),
    (congrArg State.lanes ht :), (congrArg State.settings ht :), (congrArg State.faults ht :), (congrArg State.overflow ht :),
    (congrArg State.loader ht :), (congrArg State.flash ht :), (congrArg State.syncPulses ht :), hrings,
    fun hm hrole => (hmaster hrole).2.1 hm, fun hm hrole => (hsolo hrole).2.2.1 hm, fun hrole => (hfollower hrole).2,
    fun hrole => ⟨(hsolo hrole).1, (hsolo hrole).2.2.2⟩, fun hrole => (hmaster hrole).2.2, hother, fun k => ?_⟩
  obtain ⟨hp, hw, hl⟩ := hu k
  obtain ⟨hwarp, hnone, codes, hlen, hlight, hport, hzero, hflat, hwalked⟩ := s.deadline_channel v k
  have hlights : (s.deadlineOf v).lights.get k = s.deadlineLight v k := (congrArg (fun t : State => t.lights.get k) ht).trans hl
  refine ⟨((congrArg (fun t : State => t.warps.get k) ht).trans hw).trans hwarp, hlate k, fun h => hlights.trans (hnone h),
    codes, hlen, fun h => hlights.trans (hlight h), ((congrArg (fun t : State => t.outputs.get k) ht).trans hp).trans hport, hzero, hflat,
    hwalked⟩

end Sys2Proof.Machine
end

section
/-! SUPPORT. What the blocks of a frame start leave, one after the other: the slots (R88 to R91), coherence (R111, R112), the
table changes (R66 to R68), the loss selector (R138 to R149), and the part when its warp and light units begin. -/

namespace Sys2Proof.Machine

/-! ### The slots -/

theorem SlotRing.showSlot_quiet (r : SlotRing) (i : SlotNo) : (r.showSlot i).quiet = r.quiet := by
  unfold SlotRing.showSlot
  split
  · split <;> rfl
  · rfl

theorem SlotRing.decideActive_quiet (r : SlotRing) (o : RoundOutcome) (choice : Nat) :
    (r.decideActive o choice).1.quiet = r.quiet := by
  unfold SlotRing.decideActive
  split
  · split
    · exact r.showSlot_quiet _
    · rfl
  · rfl
  · split
    · exact r.showSlot_quiet _
    · rfl

theorem SlotRing.decideInactive_quiet (r : SlotRing) (p : InactivePolicy) : (r.decideInactive p).quiet = r.quiet := by
  unfold SlotRing.decideInactive
  split <;> rfl

theorem SlotRing.tidy_quiet (r : SlotRing) : r.tidy.1.quiet = r.quiet := by
  unfold SlotRing.tidy
  split <;> rfl

/-- A channel's decision ends with every reserved mark clear and the quiet count advanced (R86, R90). -/
theorem State.decideChannel_end (s : State) (o : RoundOutcome) (k : Channel) :
    (∀ i : SlotNo, ((s.decideChannel o k).1.slots.get i).reserved = false)
      ∧ (s.decideChannel o k).1.quiet = min ((s.rings.get k).quiet + 1) 255 := by
  have hend : ∃ r : SlotRing, (s.decideChannel o k).1 = r.endDecision ∧ r.quiet = (s.rings.get k).quiet := by
    unfold State.decideChannel
    split
    · refine ⟨_, rfl, (SlotRing.tidy_quiet _).trans ?_⟩
      split
      · exact SlotRing.decideActive_quiet _ _ _
      · exact SlotRing.decideInactive_quiet _ _
    · exact ⟨_, rfl, rfl⟩
  obtain ⟨r, hr, hq⟩ := hend
  rw [hr, ← hq]
  exact ⟨fun i => by simp [SlotRing.endDecision, SlotRing.clearMarks], rfl⟩

/-- The decision raises FRAME_HELD and FRAME_DROP alone. -/
theorem State.presenceChanged_not_raised (s : State) (o : RoundOutcome) : Cond.presenceChanged ∉ s.decisionRaises o := by
  have hne : ∀ k : Channel, Cond.presenceChanged ≠ Cond.frameHeld k ∧ Cond.presenceChanged ≠ Cond.frameDrop k := by decide
  intro hmem
  obtain ⟨k, -, hk⟩ := List.mem_flatMap.1 hmem
  unfold State.decideChannel at hk
  split at hk
  · simp only [List.mem_append] at hk
    rcases hk with hk | hk
    · exact (hne k).1 (List.mem_singleton.1 (List.mem_ite_nil_right.1 hk).2)
    · exact (hne k).2 (List.mem_singleton.1 (List.mem_ite_nil_right.1 hk).2)
  · cases hk

/-! ### Coherence -/

/-- After a frame start no outcome is pending and the muster mark is clear; the counts of own starts stand (R111, R112). -/
theorem State.cohAtFrameStart_clear (s : State) : s.cohAtFrameStart.pending = none ∧ s.cohAtFrameStart.musterMark = false
    ∧ s.cohAtFrameStart.ownStarts = s.coh.ownStarts ∧ s.cohAtFrameStart.syncLost = s.coh.syncLost := by
  unfold State.cohAtFrameStart
  split <;> exact ⟨rfl, rfl, rfl, rfl⟩

/-- Coherence and the slots at a frame start. -/
theorem State.showFrame_eq (s : State) :
    ∃ (x : Quad (Option FrameNo)) (gs : List FaultRecord) (o : Bool) (b : BitVec 45) (ns : List Notice),
      s.showFrame = { s with
        coh := { s.cohAtFrameStart with channelShown := x }
        rings := Quad.of fun k => ((s.setCoh s.cohAtFrameStart).decideChannel s.coh.outcome k).1
        free := s.free + 4
        faults := gs
        overflow := o
        latches := b
        notices := ns }
      ∧ b.getLsbD Cond.presenceChanged = s.latches.getLsbD Cond.presenceChanged := by
  let applied := s.setCoh s.cohAtFrameStart
  obtain ⟨gs, o, l1, n1, h1, hb1⟩ := ((applied.decideSlots s.coh.outcome).recordShown).recordFaults_eq s.ringLostFault
  let y := ((applied.decideSlots s.coh.outcome).recordShown).recordFaults s.ringLostFault
  obtain ⟨b, ns, h2⟩ := y.raiseAll_spec (applied.decisionRaises s.coh.outcome)
  have hlatch := y.raiseAll_latch (applied.decisionRaises s.coh.outcome) Cond.presenceChanged
  have hy : y.latches = l1 := congrArg State.latches h1
  rw [decide_eq_false (State.presenceChanged_not_raised _ _), Bool.false_or, hy, hb1 _ (by decide), h2] at hlatch
  exact ⟨_, gs, o, b, ns, h2.trans (by rw [show y = _ from h1]; rfl), hlatch⟩

/-! ### The table changes -/

theorem State.raise_presenceChanged (s : State) {c : Cond} (h : Cond.presenceChanged ≠ c) :
    (s.raise c).latches.getLsbD Cond.presenceChanged = s.latches.getLsbD Cond.presenceChanged := by
  rw [State.raise_latch, decide_eq_false h, Bool.false_or]

/-- The table changes raise SWAP_DONE and SWAP_LATE alone. -/
theorem State.tablesAtFrameStart_presenceChanged (s : State) :
    s.tablesAtFrameStart.latches.getLsbD Cond.presenceChanged = s.latches.getLsbD Cond.presenceChanged := by
  unfold State.tablesAtFrameStart
  split
  · rfl
  · rfl
  · rfl
  next sw _ _ =>
    obtain ⟨due, late⟩ := if sw.deferred then (true, true) else swapDue s.coh sw
    cases due with
    | false => rfl
    | true =>
      refine (State.raise_presenceChanged _ (by decide)).trans ?_
      cases late with
      | false => rfl
      | true => exact State.raise_presenceChanged _ (by decide)

/-! ### The loss selector -/

/-- The filters of a part after one evaluation each (R138, R140). -/
def State.filtered (s : State) (up : Quad Bool) (k : Channel) : Bool × Nat :=
  if s.hasOutput k then filterPresence s.settings (s.loss.confirmed.get k) (up.get k) (s.loss.count.get k)
  else (s.loss.confirmed.get k, s.loss.count.get k)

/-- The applied vector formed (R142, R144). -/
theorem State.applyVector_eq (s : State) (handed : Option Vec32) : ∃ (b : BitVec 45) (ns : List Notice),
    s.applyVector handed = { s with loss := { s.loss with applied := s.newVector handed }, latches := b, notices := ns }
    ∧ (b.getLsbD Cond.presenceChanged = true ↔
        s.latches.getLsbD Cond.presenceChanged = true ∨ s.newVector handed ≠ s.loss.applied) := by
  unfold State.applyVector
  by_cases h : s.newVector handed = s.loss.applied
  · exact ⟨s.latches, s.notices, if_pos h, by simp [h]⟩
  · obtain ⟨b, ns, hr, hb⟩ :=
      State.raise_eq { s with loss := { s.loss with applied := s.newVector handed } } Cond.presenceChanged
    exact ⟨b, ns, (if_neg h).trans hr, by simp [hb, h]⟩

/-- The chosen sets formed (R146, R147). -/
theorem State.chooseSets_eq (s : State) :
    ∃ (gs : List FaultRecord) (o : Bool) (b : BitVec 45) (ns : List Notice),
      s.chooseSets = { s with
        loss := { s.loss with
          chosen := Quad.of fun k => if s.hasChannel k then chooseSet s.lossmap s.loss.applied k else s.loss.chosen.get k }
        faults := gs
        overflow := o
        latches := b
        notices := ns }
      ∧ b.getLsbD Cond.presenceChanged = s.latches.getLsbD Cond.presenceChanged := by
  unfold State.chooseSets
  cases s.lossmap with
  | none => exact ⟨s.faults, s.overflow, s.latches, s.notices, rfl, rfl⟩
  | some m =>
    simp only
    split
    · exact ⟨s.faults, s.overflow, s.latches, s.notices, rfl, rfl⟩
    · obtain ⟨gs, o, b, ns, h, hb⟩ := State.recordFaults_eq _ (m.parityFaults none (rulesRead m s.loss.applied))
      exact ⟨gs, o, b, ns, h, hb _ (by decide)⟩

/-- The selected sets formed (R148). -/
theorem State.selectSets_spec (s : State) (k : Channel) :
    let x := s.selectSets.loss
    (x.selected.get k = if x.setMissing.get k then 0 else s.loss.chosen.get k)
      ∧ (x.setMissing.get k = true ↔ s.hasChannel k = true ∧ s.loss.chosen.get k ≠ 0
          ∧ findTable s.tables.directory (.blend k (s.loss.chosen.get k)) .live = none) := by
  have hsel : s.selectSets.loss.selected.get k = if s.setIsMissing k then 0 else s.loss.chosen.get k := Quad.get_of _ k
  have hmiss : s.selectSets.loss.setMissing.get k = s.setIsMissing k := Quad.get_of _ k
  intro x
  rw [hsel, hmiss]
  exact ⟨rfl, by simp [State.setIsMissing, and_assoc]⟩

/-- The loss selector at a frame start. -/
theorem State.lossAtFrameStart_eq (s : State) (up : Quad Bool) (handed : Option Vec32) :
    ∃ (x : LossSelector) (gs : List FaultRecord) (o : Bool) (b : BitVec 45) (ns : List Notice),
      s.lossAtFrameStart up handed = { s with loss := x, faults := gs, overflow := o, latches := b, notices := ns }
      ∧ (∀ k, x.confirmed.get k = (s.filtered up k).1 ∧ x.count.get k = (s.filtered up k).2)
      ∧ (∀ v, handed = some v → x.applied = v)
      ∧ (handed = none → ({ s with loss := x } : State).ownBits x.applied s.loss.applied)
      ∧ (b.getLsbD Cond.presenceChanged = true ↔
          s.latches.getLsbD Cond.presenceChanged = true ∨ x.applied ≠ s.loss.applied)
      ∧ ∀ k, s.hasChannel k = true →
          let gone : Prop := x.chosen.get k ≠ 0 ∧ findTable s.tables.directory (.blend k (x.chosen.get k)) .live = none
          x.chosen.get k = chooseSet s.lossmap x.applied k
          ∧ (x.selected.get k = if x.setMissing.get k then 0 else x.chosen.get k) ∧ (x.setMissing.get k = true ↔ gone) := by
  let y := s.filterOutputs up
  obtain ⟨b1, n1, h1, hb1⟩ := y.applyVector_eq handed
  obtain ⟨gs, o, b, ns, h2, hb2⟩ := (y.applyVector handed).chooseSets_eq
  have hall : s.lossAtFrameStart up handed = ((y.applyVector handed).chooseSets).selectSets := rfl
  rw [h1] at h2 hb2
  rw [h1, h2] at hall
  refine ⟨_, gs, o, b, ns, hall, fun k => ⟨Quad.get_of _ k, Quad.get_of _ k⟩, fun v hv => by rw [hv]; rfl, fun hn => ?_,
    by rw [hb2]; exact hb1, fun k hk => ⟨?_, ?_⟩⟩
  · rw [hn]
    exact y.ownBits_writeOwnBits _
  · exact (Quad.get_of _ k).trans (if_pos hk)
  · obtain ⟨hsel, hmiss⟩ := ((y.applyVector handed).chooseSets).selectSets_spec k
    rw [h1, h2] at hsel hmiss
    exact ⟨hsel, hmiss.trans (and_iff_right hk)⟩

end Sys2Proof.Machine
end

section
/-! SUPPORT. The part when its warp and light units begin a frame, block by block, and what the units take from it (R4, R22,
R33, R34, R72, R126, R136, R149). -/

namespace Sys2Proof.Machine

/-- Which outputs are up as the frame start finds them (R138). -/
def State.upOutputs (s : State) : Quad Bool := Quad.of fun k => (s.outputs.get k).state.up

/-- The part when the loss selector comes to its frame start. -/
def State.beforeLoss (s : State) : State := s.showFrame.tablesAtFrameStart.rasterChange.takeModes

theorem State.framed_eq (s : State) :
    s.framed = (s.beforeLoss.lossAtFrameStart s.upOutputs s.coh.handedVector).fitTest := rfl

theorem State.beforeLoss_eq (s : State) :
    ∃ (x : Quad (Option FrameNo)) (dir : Assoc TableRecord) (sw : Option PendingSwap) (p : Quad OutputPort) (w : Quad WarpUnit)
      (u : Quad LightUnit) (gs : List FaultRecord) (o : Bool) (b : BitVec 45) (ns : List Notice),
      s.beforeLoss = { s with
        coh := { s.cohAtFrameStart with channelShown := x }
        rings := Quad.of fun k => ((s.setCoh s.cohAtFrameStart).decideChannel s.coh.outcome k).1
        free := s.free + 4
        faults := gs
        overflow := o
        tables := { s.tables with directory := dir, swap := sw }
        timer := { s.timer with width := s.settings.rasterWidth, height := s.settings.rasterHeight,
                                periodUs := s.settings.framePeriodUs }
        outputs := p
        warps := w
        lights := u
        latches := b
        notices := ns
        modes := Quad.of fun k => if s.hasChannel k then s.settings.outputMode.get k else s.modes.get k }
      ∧ b.getLsbD Cond.presenceChanged = s.latches.getLsbD Cond.presenceChanged := by
  have hne : ∀ j : Channel, Cond.presenceChanged ≠ Cond.outputChange j := by decide
  obtain ⟨x, gs, o, l1, n1, h1, hb1⟩ := s.showFrame_eq
  obtain ⟨dir, sw, l2, n2, h2⟩ := s.showFrame.tablesAtFrameStart_spec
  have hb2 := s.showFrame.tablesAtFrameStart_presenceChanged
  obtain ⟨p, w, u, b, ns, h3, -, -, hb3⟩ := s.showFrame.tablesAtFrameStart.rasterChange_eq
  rw [h1] at h2 hb2
  rw [h1, h2] at h3 hb3
  rw [h2] at hb2
  have hall : s.beforeLoss = s.showFrame.tablesAtFrameStart.rasterChange.takeModes := rfl
  rw [h1, h2, h3] at hall
  exact ⟨x, dir, sw, p, w, u, gs, o, b, ns, hall, (hb3 _ hne).trans (hb2.trans hb1)⟩

/-- The blocks that have had their frame start when the units begin. -/
theorem State.framed_blocks (s : State) :
    let f := s.framed
    f.loader = s.loader ∧ f.syncPulses = s.syncPulses ∧ (∃ x, f.coh = { s.cohAtFrameStart with channelShown := x })
      ∧ f.rings = (Quad.of fun k => ((s.setCoh s.cohAtFrameStart).decideChannel s.coh.outcome k).1)
      ∧ (∀ k, f.modes.get k = if s.hasChannel k then s.settings.outputMode.get k else s.modes.get k)
      ∧ (∀ k, f.tables.unfit.get k = f.channelUnfit k)
      ∧ (f.latches.getLsbD Cond.presenceChanged = true ↔
          s.latches.getLsbD Cond.presenceChanged = true ∨ f.loss.applied ≠ s.loss.applied) := by
  obtain ⟨x, dir, sw, p, w, u, gs, o, b, ns, hy, hb⟩ := s.beforeLoss_eq
  obtain ⟨L, gs', o', b', ns', hl, -, -, -, hlatch, -⟩ := s.beforeLoss.lossAtFrameStart_eq s.upOutputs s.coh.handedVector
  rw [State.framed_eq, hl]
  rw [hy] at hlatch ⊢
  rw [hb] at hlatch
  exact ⟨rfl, rfl, ⟨x, rfl⟩, rfl, fun k => Quad.get_of _ k, fun k => Quad.get_of _ k, hlatch⟩

/-- The loss selector then. -/
theorem State.framed_loss (s : State) :
    let f := s.framed
    (∀ k, f.loss.confirmed.get k = (s.filtered s.upOutputs k).1 ∧ f.loss.count.get k = (s.filtered s.upOutputs k).2)
      ∧ (∀ v, s.coh.handedVector = some v → f.loss.applied = v)
      ∧ (s.coh.handedVector = none → f.ownBits f.loss.applied s.loss.applied)
      ∧ ∀ k, s.hasChannel k = true →
          let gone : Prop := f.loss.chosen.get k ≠ 0 ∧ findTable f.tables.directory (.blend k (f.loss.chosen.get k)) .live = none
          f.loss.chosen.get k = chooseSet f.lossmap f.loss.applied k
          ∧ (f.loss.selected.get k = if f.loss.setMissing.get k then 0 else f.loss.chosen.get k)
          ∧ (f.loss.setMissing.get k = true ↔ gone) := by
  obtain ⟨x, dir, sw, p, w, u, gs, o, b, ns, hy, -⟩ := s.beforeLoss_eq
  have hkept : s.beforeLoss.filtered s.upOutputs = s.filtered s.upOutputs ∧ s.beforeLoss.loss = s.loss
      ∧ ∀ k, s.beforeLoss.hasChannel k = s.hasChannel k := by
    rw [hy]
    exact ⟨rfl, rfl, fun _ => rfl⟩
  obtain ⟨hfiltered, hloss, hchannel⟩ := hkept
  obtain ⟨L, gs', o', b', ns', hl, hfilter, hsome, hnone, -, hsets⟩ :=
    s.beforeLoss.lossAtFrameStart_eq s.upOutputs s.coh.handedVector
  rw [hfiltered] at hfilter
  rw [hloss] at hnone
  simp only [hchannel] at hsets
  have hf : s.framed.loss = L ∧ s.framed.tables.directory = s.beforeLoss.tables.directory
      ∧ s.framed.lossmap = s.beforeLoss.lossmap ∧ s.framed.straps = s.beforeLoss.straps := by
    rw [State.framed_eq, hl]
    exact ⟨rfl, rfl, rfl, rfl⟩
  obtain ⟨hL, hdir, hmap, hstraps⟩ := hf
  unfold State.ownBits at hnone ⊢
  simp only [hL, hdir, hmap, hstraps]
  exact ⟨hfilter, hsome, hnone, hsets⟩

/-! ### The frame start and the part when the units begin -/

/-- The units, the log, latches and notices, the timer, the ports and the pulse are all that the rest of a frame start
changes. -/
theorem State.beginFrame_units (f : State) (own : Bool) :
    let t := (channels.foldl State.channelStart f).beginFrame own
    t.loss = f.loss ∧ t.tables = f.tables ∧ t.modes = f.modes ∧ t.coh = f.coh ∧ t.rings = f.rings
      ∧ t.syncPulses = (if f.straps.role = .master then f.syncPulses + 1 else f.syncPulses)
      ∧ t.latches.getLsbD Cond.presenceChanged = f.latches.getLsbD Cond.presenceChanged := by
  obtain ⟨w, u, gs, o, b, ns, h, -, hb⟩ := f.channelStarts_eq
  rw [h]
  obtain ⟨p, h'⟩ := State.beginFrame_spec { f with
    warps := w, lights := u, faults := gs, overflow := o, latches := b, notices := ns } own
  rw [h']
  exact ⟨rfl, rfl, rfl, rfl, rfl, rfl, hb _ (by decide)⟩

/-! ### What the units take -/

/-- Whether a table fits the raster in force, in words (R1, R30). -/
def TableRecord.FitsRaster (r : TableRecord) (w h : Nat) : Prop :=
  ∃ d, r.dims = some d ∧ d.cols = (w + d.spacing - 1) / d.spacing + 1 ∧ d.rows = (h + d.spacing - 1) / d.spacing + 1

theorem TableRecord.fits_iff (r : TableRecord) (w h : Nat) : r.fits w h = true ↔ r.FitsRaster w h := by
  unfold TableRecord.fits TableRecord.FitsRaster
  cases r.dims <;> simp [Dims.fits]

/-- A channel of the arrangement is unfit during the start-up load, without a LIVE MESH that fits, and with a BLEND in use
that does not (R72). -/
theorem State.channelUnfit_iff {s : State} {k : Channel} (hk : s.hasChannel k = true) : s.channelUnfit k = true ↔
    s.loader.starting = true
      ∨ (∀ n m, findTable s.tables.directory (.mesh k) .live = some (n, m) → ¬m.FitsRaster s.timer.width s.timer.height)
      ∨ ∃ n b, findTable s.tables.directory (.blend k (s.loss.selected.get k)) .live = some (n, b)
          ∧ ¬b.FitsRaster s.timer.width s.timer.height := by
  unfold State.channelUnfit
  rw [hk, Bool.true_and, Bool.or_eq_true, Bool.or_eq_true, or_assoc]
  refine or_congr_right (or_congr ?_ ?_)
  · cases hm : findTable s.tables.directory (.mesh k) .live with
    | none => simp
    | some e =>
      obtain ⟨n, m⟩ := e
      simp [← TableRecord.fits_iff]
  · cases hb : findTable s.tables.directory (.blend k (s.loss.selected.get k)) .live with
    | none => simp
    | some e =>
      obtain ⟨n, b⟩ := e
      simp [← TableRecord.fits_iff]

/-- The form of a frame on a channel of the arrangement, by the first condition that holds (R34). -/
theorem State.frameForm_eq {s : State} {k : Channel} (hk : s.hasChannel k = true) : s.frameForm k =
    if (s.outputs.get k).state ≠ .active then .noLines
    else if s.tables.unfit.get k then .dark
    else match s.modes.get k with
      | .black => .dark
      | .flat => .flat
      | .flatBlended => .walked
      | .video => if shownSlot (s.rings.get k).slots = none then .dark else .walked := by
  unfold State.frameForm
  have hvideo : (if (shownSlot (s.rings.get k).slots).isSome then FrameForm.walked else .dark)
      = if shownSlot (s.rings.get k).slots = none then .dark else .walked := by
    cases shownSlot (s.rings.get k).slots <;> rfl
  rw [hk, hvideo]
  by_cases ha : (s.outputs.get k).state = .active
  · refine (if_neg (by simp [ha])).trans (Eq.trans ?_ (if_neg (not_not.2 ha)).symm)
    cases s.modes.get k <;> rfl
  · rw [if_pos (by simp [ha]), if_pos ha]

/-- The purge gives up a VALID entry of another slot than the one SHOWN and cancels one that is FILLING (R22). -/
theorem find_purgeCache {c : Assoc TileEntry} (h : Assoc.wf c = true) (shown : Option SlotNo) (n : Nat) :
    Assoc.find (purgeCache shown c) n = (Assoc.find c n).bind fun e => e.purged shown := by
  rw [purgeCache, Assoc.find_filterMap _ (fun a b hab => ?_) h]
  · congr 1
    funext e
    cases e.purged shown <;> rfl
  · obtain ⟨d, -, rfl⟩ := Option.map_eq_some_iff.1 hab
    rfl

/-! ### The presence bits of the part -/

theorem confirmedNibble_testBit (c : Quad Bool) : ∀ j : Channel, (confirmedNibble c).testBit j = c.get j := by
  obtain ⟨a, b, d, e⟩ := c
  revert a b d e
  decide

/-- A part's own four bits lie within a presence vector. -/
theorem StrapRecord.firstBit_le (r : StrapRecord) : r.firstBit ≤ 28 := by
  have := r.position.isLt
  unfold StrapRecord.firstBit
  split <;> omega

end Sys2Proof.Machine
end

section
/-! SUPPORT. A frame start of the part, in the terms of the statement (R4, R22, R33, R34, R72, R114, R122, R126, R136, R140 to
R148). -/

namespace Sys2Proof.Machine

/-! ### The ports and the presence filters -/

theorem State.rasterDiffers_iff (s : State) : s.rasterDiffers = true ↔ s.settings.rasterWidth ≠ s.timer.width
    ∨ s.settings.rasterHeight ≠ s.timer.height ∨ s.settings.framePeriodUs ≠ s.timer.periodUs := by
  simp [State.rasterDiffers, or_assoc]

/-- The mark of a frame start, where the port drives the lane (R127). -/
def OutputPort.frameMark (p : OutputPort) : List LaneItem := if p.state.drives then [.frameStart] else []

/-- Without a raster change at a driven port, the port takes the mark alone. -/
theorem State.rasterPort_still {s : State} {k : Channel} (h : ¬(s.rasterDiffers = true ∧ (s.outputs.get k).state.drives = true)) :
    (s.rasterPort k).marked = { s.outputs.get k with lane := (s.outputs.get k).lane ++ (s.outputs.get k).frameMark } := by
  have hport : s.rasterPort k = s.outputs.get k := by
    unfold State.rasterPort
    split
    next hc =>
      have hd : ¬(s.outputs.get k).state.drives = true := fun hd => h ⟨(Bool.and_eq_true _ _ ▸ hc).1, hd⟩
      exact congrArg Prod.fst (if_neg hd)
    · rfl
  rw [hport]
  rfl

/-- A driven port goes to SETTLING at a raster change (R126). -/
theorem State.rasterPort_settles {s : State} {k : Channel} (hk : s.hasChannel k = true) (h : s.rasterDiffers = true)
    (hd : (s.outputs.get k).state.drives = true) (hms : 0 < s.settings.settleMs) : (s.rasterPort k).marked =
      { s.outputs.get k with state := .settling, expires := some (s.now + s.settings.settleMs * 100000),
                             lane := (s.outputs.get k).lane ++ (s.outputs.get k).frameMark } := by
  have hport : s.rasterPort k =
      { s.outputs.get k with state := .settling, expires := some (s.now + s.settings.settleMs * 100000) } := by
    have hc : (s.rasterDiffers && s.hasOutput k) = true := by rw [h]; exact hk
    unfold State.rasterPort
    rw [if_pos hc, OutputPort.rasterChanged, if_pos hd, OutputPort.enterSettling_of_pos _ _ _ hms]
  rw [hport, OutputPort.frameMark, hd]
  rfl

/-- One evaluation of a presence filter, case by case (R140). -/
theorem filterPresence_spec (st : Settings) (confirmed up : Bool) (count : Nat) :
    (confirmed = up → filterPresence st confirmed up count = (up, 0))
    ∧ (confirmed ≠ up → (if confirmed then st.lossConfirm else st.returnConfirm) ≤ count + 1 →
        filterPresence st confirmed up count = (up, 0))
    ∧ (confirmed ≠ up → count + 1 < (if confirmed then st.lossConfirm else st.returnConfirm) →
        filterPresence st confirmed up count = (confirmed, count + 1)) := by
  unfold filterPresence
  refine ⟨fun h => ?_, fun h hl => ?_, fun h hl => ?_⟩
  · rw [if_pos h, h]
  · have hup : (!confirmed) = up := by
      cases confirmed <;> cases up <;> simp_all
    rw [if_neg h, if_pos hl, hup]
  · rw [if_neg h, if_neg (not_le.2 hl)]

/-! ### The blocks of a frame start together -/

/-- From `s` to `t` a frame has begun by way of `f`, the part when its warp and light units came to the frame start. -/
structure FrameBegun (s f t : State) (own : Bool) : Prop where
  keeps : t.pending = s.pending ∧ t.now = s.now ∧ t.straps = s.straps ∧ t.inputs = s.inputs ∧ t.cells = s.cells
    ∧ t.resetWait = s.resetWait ∧ t.lanes = s.lanes ∧ t.settings = s.settings ∧ t.loader = s.loader ∧ t.flash = s.flash
    ∧ t.ringOut = s.ringOut ∧ t.tables.fill = s.tables.fill ∧ t.tables.fillDue = s.tables.fillDue
  timer : t.timer = RasterTimer.begin { s.timer with
    width := s.settings.rasterWidth, height := s.settings.rasterHeight, periodUs := s.settings.framePeriodUs }
    s.now s.settings.musterOffset own
  pulses : t.syncPulses = s.syncPulses + if s.straps.role = .master then 1 else 0
  coherence : t.coh.pending = none ∧ t.coh.musterMark = false ∧ t.coh.ownStarts = s.coh.ownStarts
    ∧ t.coh.syncLost = s.coh.syncLost
  slots : ∀ k : Channel, (∀ i : SlotNo, ((t.rings.get k).slots.get i).reserved = false)
    ∧ (t.rings.get k).quiet = min ((s.rings.get k).quiet + 1) 255
  presence : t.latches.getLsbD Cond.presenceChanged = true ↔
    s.latches.getLsbD Cond.presenceChanged = true ∨ f.loss.applied ≠ s.loss.applied
  shared : t.loss = f.loss ∧ t.tables = f.tables ∧ t.modes = f.modes ∧ t.rings = f.rings
  before : f.straps = s.straps ∧ f.settings = s.settings ∧ f.loader = s.loader
    ∧ f.timer.width = s.settings.rasterWidth ∧ f.timer.height = s.settings.rasterHeight
  filters : ∀ k, f.loss.confirmed.get k = (s.filtered s.upOutputs k).1 ∧ f.loss.count.get k = (s.filtered s.upOutputs k).2
  handed : ∀ v, s.coh.handedVector = some v → f.loss.applied = v
  unhanded : s.coh.handedVector = none → f.ownBits f.loss.applied s.loss.applied
  sets : ∀ k, s.hasChannel k = true →
    f.loss.chosen.get k = chooseSet f.lossmap f.loss.applied k
    ∧ (f.loss.selected.get k = if f.loss.setMissing.get k then 0 else f.loss.chosen.get k)
    ∧ (f.loss.setMissing.get k = true ↔
        f.loss.chosen.get k ≠ 0 ∧ findTable f.tables.directory (.blend k (f.loss.chosen.get k)) .live = none)
  unfit : ∀ k, f.tables.unfit.get k = f.channelUnfit k
  modes : ∀ k, s.hasChannel k = true → f.modes.get k = s.settings.outputMode.get k
  ports : ∀ k, f.outputs.get k = s.rasterPort k ∧ t.outputs.get k = (s.rasterPort k).marked
  units : ∀ k, t.warps.get k = f.startedWarp k ∧ t.lights.get k = f.startedLight k
    ∧ ∃ x, f.warps.get k = { s.warps.get k with walk := x }

theorem State.frameStart_begun (s : State) (own : Bool) : FrameBegun s s.framed (s.frameStart own) own := by
  obtain ⟨hpending, hnow, hstraps, hinputs, hcells, hwait, hlanes, hsettings, hloader, hflash, hring, -, hfill, hdue, hrings⟩ :=
    s.frameStart_keeps own
  obtain ⟨-, htimer, hunits⟩ := s.frameStart_units own
  obtain ⟨fstraps, fsettings, -, ftimer, fports, fwarps⟩ := s.framed_units
  obtain ⟨floader, fpulses, ⟨x, fcoh⟩, frings, fmodes, funfit, flatch⟩ := s.framed_blocks
  obtain ⟨ffilters, fsome, fnone, fsets⟩ := s.framed_loss
  obtain ⟨uloss, utables, umodes, ucoh, urings, upulses, ulatch⟩ := State.beginFrame_units s.framed own
  rw [← State.frameStart_eq] at uloss utables umodes ucoh urings upulses ulatch
  obtain ⟨hcp, hcm, hco, hcs⟩ := s.cohAtFrameStart_clear
  exact {
    keeps := ⟨hpending, hnow, hstraps, hinputs, hcells, hwait, hlanes, hsettings, hloader, hflash, hring, hfill, hdue⟩
    timer := htimer
    pulses := by
      rw [upulses, fstraps, fpulses]
      split <;> rfl
    coherence := by
      rw [ucoh, fcoh]
      exact ⟨hcp, hcm, hco, hcs⟩
    slots := fun k => by
      rw [hrings, Quad.get_of]
      exact State.decideChannel_end _ _ k
    presence := by rw [ulatch, flatch]
    shared := ⟨uloss, utables, umodes, urings⟩
    before := ⟨fstraps, fsettings, floader, congrArg RasterTimer.width ftimer, congrArg RasterTimer.height ftimer⟩
    filters := ffilters
    handed := fsome
    unhanded := fnone
    sets := fsets
    unfit := funfit
    modes := fun k hk => (fmodes k).trans (if_pos hk)
    ports := fun k => ⟨fports k, (hunits k).2.2⟩
    units := fun k => ⟨(hunits k).1, (hunits k).2.1, (fwarps k).imp fun _ h => h.1⟩ }

end Sys2Proof.Machine
end

section
/-! SUPPORT. What a frame that has begun shows of each block, and the commands that begin one (R113 to R115, R123, R124). -/

namespace Sys2Proof.Machine

namespace FrameBegun

variable {s f t : State} {own : Bool}

theorem withNotices (h : FrameBegun s f t own) (ns : List Notice) : FrameBegun s f { t with notices := ns } own :=
  ⟨h.keeps, h.timer, h.pulses, h.coherence, h.slots, h.presence, h.shared, h.before, h.filters, h.handed, h.unhanded, h.sets,
    h.unfit, h.modes, h.ports, h.units⟩

/-! ### The loss selector -/

/-- The part's own bits of the applied vector (R142). -/
theorem applied_own (h : FrameBegun s f t own) (j : Channel) : t.loss.applied.getLsbD (s.straps.firstBit + j) =
    match s.coh.handedVector with
    | some v => v.getLsbD (s.straps.firstBit + j)
    | none => t.loss.confirmed.get j := by
  obtain ⟨hloss, -⟩ := h.shared
  obtain ⟨hstraps, -⟩ := h.before
  rw [hloss]
  cases hv : s.coh.handedVector with
  | some v => exact congrArg (BitVec.getLsbD · (s.straps.firstBit + j)) (h.handed v hv)
  | none =>
    have hbit := h.unhanded hv (s.straps.firstBit + j) (by have := s.straps.firstBit_le; have := j.isLt; omega)
    rw [hstraps, if_pos (by have := j.isLt; omega), Nat.add_sub_cancel_left, confirmedNibble_testBit] at hbit
    exact hbit

/-- The other bits of the applied vector are those of the vector handed, or of the one before. -/
theorem applied_other (h : FrameBegun s f t own) {n : Nat} (hn : n < s.straps.firstBit ∨ s.straps.firstBit + 4 ≤ n)
    (h32 : n < 32) : t.loss.applied.getLsbD n = (s.coh.handedVector.getD s.loss.applied).getLsbD n := by
  obtain ⟨hloss, -⟩ := h.shared
  obtain ⟨hstraps, -⟩ := h.before
  rw [hloss]
  cases hv : s.coh.handedVector with
  | some v => exact congrArg (BitVec.getLsbD · n) (h.handed v hv)
  | none =>
    have hbit := h.unhanded hv n h32
    rw [hstraps, if_neg (by omega)] at hbit
    exact hbit

/-- The filter of an output of the arrangement, case by case (R140). -/
theorem filter (h : FrameBegun s f t own) {k : Channel} (hk : s.hasChannel k = true) :
    let up := (s.outputs.get k).state.up
    let limit := if s.loss.confirmed.get k then s.settings.lossConfirm else s.settings.returnConfirm
    (s.loss.confirmed.get k = up → t.loss.confirmed.get k = up ∧ t.loss.count.get k = 0)
      ∧ (s.loss.confirmed.get k ≠ up → limit ≤ s.loss.count.get k + 1 →
          t.loss.confirmed.get k = up ∧ t.loss.count.get k = 0)
      ∧ (s.loss.confirmed.get k ≠ up → s.loss.count.get k + 1 < limit →
          t.loss.confirmed.get k = s.loss.confirmed.get k ∧ t.loss.count.get k = s.loss.count.get k + 1) := by
  intro up limit
  have hfilter : s.filtered s.upOutputs k = filterPresence s.settings (s.loss.confirmed.get k) up (s.loss.count.get k) := by
    rw [State.filtered, State.upOutputs, Quad.get_of]
    exact if_pos hk
  obtain ⟨hloss, -⟩ := h.shared
  obtain ⟨hc, hn⟩ := h.filters k
  rw [hfilter] at hc hn
  obtain ⟨h1, h2, h3⟩ := filterPresence_spec s.settings (s.loss.confirmed.get k) up (s.loss.count.get k)
  rw [hloss, hc, hn]
  exact ⟨fun ha => by rw [h1 ha]; exact ⟨rfl, rfl⟩, fun ha hb => by rw [h2 ha hb]; exact ⟨rfl, rfl⟩,
    fun ha hb => by rw [h3 ha hb]; exact ⟨rfl, rfl⟩⟩

/-- The chosen and the selected set of a channel, and SET_MISSING (R146, R148). -/
theorem sets_of (h : FrameBegun s f t own) {k : Channel} (hk : s.hasChannel k = true) :
    let dir := t.tables.directory
    let gone : Prop := t.loss.chosen.get k ≠ 0 ∧ findTable dir (.blend k (t.loss.chosen.get k)) .live = none
    t.loss.chosen.get k =
        chooseSet (if s.loader.starting then none else (findTable dir .lossmap .live).map (·.2)) t.loss.applied k
      ∧ (t.loss.setMissing.get k = true → t.loss.selected.get k = 0)
      ∧ (t.loss.setMissing.get k ≠ true → t.loss.selected.get k = t.loss.chosen.get k)
      ∧ (t.loss.setMissing.get k = true ↔ gone) := by
  obtain ⟨hloss, htables, -, -⟩ := h.shared
  obtain ⟨-, -, hloader, -, -⟩ := h.before
  obtain ⟨hchosen, hselected, hgone⟩ := h.sets k hk
  rw [hloss, htables, ← hloader]
  exact ⟨hchosen, fun hm => hselected.trans (if_pos hm), fun hm => hselected.trans (if_neg hm), hgone⟩

/-! ### The tables -/

/-- The LIVE table that a key's reader takes (R196). -/
theorem takeTable (h : FrameBegun s f t own) (key : Key) :
    f.takeTable key = if s.loader.starting then none else (findTable t.tables.directory key .live).map (·.1) := by
  obtain ⟨-, htables, -, -⟩ := h.shared
  obtain ⟨-, -, hloader, -, -⟩ := h.before
  rw [htables, ← hloader]
  rfl

theorem hasChannel (h : FrameBegun s f t own) (k : Channel) : f.hasChannel k = s.hasChannel k :=
  congrArg (fun r : StrapRecord => r.arrangement.hasChannel k) h.before.1

/-- The fit test of a channel (R72). -/
theorem unfit_iff (h : FrameBegun s f t own) {k : Channel} (hk : s.hasChannel k = true) :
    t.tables.unfit.get k = true ↔ s.loader.starting = true
      ∨ (∀ n m, findTable t.tables.directory (.mesh k) .live = some (n, m) →
          ¬m.FitsRaster s.settings.rasterWidth s.settings.rasterHeight)
      ∨ ∃ n b, findTable t.tables.directory (.blend k (t.loss.selected.get k)) .live = some (n, b)
          ∧ ¬b.FitsRaster s.settings.rasterWidth s.settings.rasterHeight := by
  obtain ⟨hloss, htables, -, -⟩ := h.shared
  obtain ⟨-, -, hloader, hwidth, hheight⟩ := h.before
  rw [hloss, htables, h.unfit k, ← hloader, ← hwidth, ← hheight]
  exact State.channelUnfit_iff ((h.hasChannel k).trans hk)

/-! ### The units -/

/-- The frame parameters that the light unit takes (R33). -/
theorem light (h : FrameBegun s f t own) {k : Channel} (hk : s.hasChannel k = true) :
    t.lights.get k = { params := some (f.takeParams k), form := f.frameForm k, held := [], buffers := [], handed := none } :=
  (h.units k).2.1.trans (if_pos ((h.hasChannel k).trans hk))

theorem params (h : FrameBegun s f t own) {k : Channel} (hk : s.hasChannel k = true) :
    let taken (key : Key) : Option Nat := if s.loader.starting then none else (findTable t.tables.directory key .live).map (·.1)
    let mode := s.settings.outputMode.get k
    f.takeParams k =
      { mode := mode, tone := taken (.tone k), blend := taken (.blend k (t.loss.selected.get k)),
        matrix := matrixOf (t.record (taken (.tone k))), dither := s.settings.dither.get k,
        flatCodes := s.settings.flatLevel.get k,
        flatSample := if mode = .flatBlended then
          some ((s.settings.flatLevel.get k).map (decode (t.record (taken (.tone k))))) else none } := by
  obtain ⟨hloss, htables, -, -⟩ := h.shared
  obtain ⟨-, hsettings, -, -, -⟩ := h.before
  have hrecord : t.record = f.record := funext fun n => congrArg (fun x : TableStore => n.bind (Assoc.find x.directory)) htables
  have hmode : f.modes.get k = f.settings.outputMode.get k := (h.modes k hk).trans (by rw [hsettings])
  simp only [← h.takeTable, hrecord, hloss, ← hsettings]
  rw [State.takeParams, hmode]

/-- The form of the frame (R34). -/
theorem form (h : FrameBegun s f t own) {k : Channel} (hk : s.hasChannel k = true) : f.frameForm k =
    if (t.outputs.get k).state ≠ .active then .noLines
    else if t.tables.unfit.get k then .dark
    else match s.settings.outputMode.get k with
      | .black => .dark
      | .flat => .flat
      | .flatBlended => .walked
      | .video => if shownSlot (t.rings.get k).slots = none then .dark else .walked := by
  obtain ⟨-, htables, -, hrings⟩ := h.shared
  obtain ⟨hf, ht⟩ := h.ports k
  have hstate : (t.outputs.get k).state = (f.outputs.get k).state := by rw [ht, hf]; rfl
  rw [hstate, htables, hrings, ← h.modes k hk]
  exact State.frameForm_eq ((h.hasChannel k).trans hk)

/-- The warp unit (R4, R5, R6, R22). -/
theorem warp (h : FrameBegun s f t own) {k : Channel} (hk : s.hasChannel k = true) :
    (t.warps.get k).mesh = f.takeTable (.mesh k) ∧ (t.warps.get k).edgeMark = false
      ∧ ((t.warps.get k).walk = if f.frameForm k = .walked then some ⟨0, 0, false, none⟩ else none)
      ∧ (f.frameForm k = .walked → (t.warps.get k).failed = [])
      ∧ (t.warps.get k).cache = purgeCache (shownSlot (t.rings.get k).slots) (s.warps.get k).cache := by
  obtain ⟨-, -, -, hrings⟩ := h.shared
  obtain ⟨hw, -, x, hx⟩ := h.units k
  rw [hw, State.startedWarp, if_pos ((h.hasChannel k).trans hk), hx, hrings]
  refine ⟨rfl, rfl, ?_, fun hform => if_pos (by simp [hform]), rfl⟩
  exact if_congr beq_iff_eq rfl rfl

end FrameBegun

/-- An entry after the purge, by its kind. -/
theorem find_purgeCache_cases {w : WarpUnit} (h : w.cacheSound = true) (shown : Option SlotNo) (n : Nat) :
    Assoc.find (purgeCache shown w.cache) n = match Assoc.find w.cache n with
      | some (.valid tag o data tb db) => if shown = some tag.slot then some (.valid tag o data tb db) else none
      | some (.filling tag o i c tb) => some (.filling tag o i (c || decide (shown ≠ some tag.slot)) tb)
      | none => none := by
  rw [find_purgeCache (WarpUnit.cacheSound_wf h)]
  cases Assoc.find w.cache n with
  | none => rfl
  | some e =>
    cases e with
    | valid tag o data tb db => simp [TileEntry.purged, TileEntry.tag]
    | filling tag o i c tb =>
      have hne : (shown != some tag.slot) = decide (shown ≠ some tag.slot) := by simp [bne, Bool.beq_eq_decide_eq]
      exact congrArg (fun b => some (TileEntry.filling tag o i (c || b) tb)) hne

/-! ### The commands -/

theorem State.exec_frameStart {s : State} (h : s.straps.role ≠ .follower) :
    exec (.frameStart []) s = .next ((s.advanceTo s.timer.nextStart).ownerFrame) := by
  show execFrameStart [] s = _
  unfold execFrameStart
  simp only [State.upsets, List.foldl_nil]
  cases hr : s.straps.role with
  | follower => exact absurd hr h
  | master => rfl
  | solo => rfl

theorem State.exec_syncPulse {s : State} (h : s.straps.role = .follower) :
    exec (.syncPulse []) s = .next (s.followerFrame false) := by
  show execSyncPulse [] s = _
  unfold execSyncPulse
  simp only [State.upsets, List.foldl_nil, h]

theorem State.exec_ownStart {s : State} (h : s.straps.role = .follower) :
    exec (.ownStart []) s = .next ((s.advanceTo s.timer.ownStartDue).followerFrame true) := by
  show execOwnStart [] s = _
  unfold execOwnStart
  simp only [State.upsets, List.foldl_nil, h]

/-- A frame start followed by the notices of the level conditions. -/
theorem State.frameStart_levelNotices_begun (s before : State) (own : Bool) :
    FrameBegun s s.framed ((s.frameStart own).levelNotices before) own := by
  obtain ⟨ns, h⟩ := (s.frameStart own).levelNotices_spec before
  rw [h]
  exact (s.frameStart_begun own).withNotices ns

end Sys2Proof.Machine
end

section
/-! SUPPORT. Every frame start begins a frame. -/

namespace Sys2Proof.Machine

/-- Settles O45: the facts of `FrameBegun`, field by field, on the part with its clock and its count of starts moved first. -/
theorem frameStartsBeginFrame : Obligations.FrameStartsBeginFrame := by
  intro s st changed handed begun
  have key : ∀ (n : Nat) (c : Coherence) (own : Bool) (f t : State), c.pending = s.coh.pending →
      FrameBegun { s with now := n, coh := c } f t own → begun n own t := by
    intro n c own f t hc h
    obtain ⟨hpending, hnow, hstraps, hinputs, hcells, hwait, hlanes, hsettings, hloader, hflash, hring, hfill, hdue⟩ := h.keeps
    obtain ⟨hcp, hcm, -, -⟩ := h.coherence
    obtain ⟨hloss, htables, hmodes, -⟩ := h.shared
    have hhanded : c.handedVector = handed := congrArg (fun p : Option PendingOutcome => p.bind (·.vector)) hc
    refine ⟨hnow, hsettings, h.timer, hcp, hcm, hpending, hstraps, hinputs, hcells, hwait, hlanes, hloader, hflash, hring, hfill,
      hdue, fun j => ?_, fun i hi h32 => ?_, ?_, h.slots, fun k hk => ?_⟩
    · rw [← hhanded]
      exact h.applied_own j
    · rw [← hhanded]
      exact h.applied_other hi h32
    · rw [hloss]
      exact h.presence
    intro p w u l mode mark limit shown
    have hmode : t.modes.get k = mode := (congrArg (Quad.get · k) hmodes).trans (h.modes k hk)
    obtain ⟨hf1, hf2, hf3⟩ := h.filter hk
    obtain ⟨hchosen, hmissing, hfound, hgone⟩ := h.sets_of hk
    obtain ⟨hmesh, hedge, hwalk, hfailed, hcache⟩ := h.warp hk
    have hlight := h.light hk
    have hform : l.form = f.frameForm k := congrArg LightUnit.form hlight
    have hchanged := State.rasterDiffers_iff { s with now := n, coh := c }
    refine ⟨hmode, fun hstill => ?_, fun hch hd hms => ?_, hf1, hf2, hf3, hchosen, ⟨?_, hgone⟩, h.unfit_iff hk,
      (congrArg LightUnit.params hlight).trans (congrArg some (h.params hk)), hform.trans (h.form hk),
      congrArg LightUnit.held hlight, congrArg LightUnit.buffers hlight, congrArg LightUnit.handed hlight, hmesh.trans (h.takeTable _), hedge, ?_, ?_, ?_⟩
    · exact (h.ports k).2.trans (State.rasterPort_still fun hd => hstill ⟨hchanged.1 hd.1, hd.2⟩)
    · exact (h.ports k).2.trans (State.rasterPort_settles hk (hchanged.2 hch) hd hms)
    · split
      next hg => exact hmissing (hgone.2 hg)
      next hg => exact hfound fun hm => hg (hgone.1 hm)
    · rw [hform]
      exact hwalk
    · rw [hform]
      exact hfailed
    · intro hsound i
      rw [show u.cache = _ from hcache]
      exact find_purgeCache_cases hsound shown i
  have hcount : ∀ own, (s.coh.countStart own).pending = s.coh.pending := fun own => by cases own <;> rfl
  refine ⟨fun hrole => ?_, fun hrole => ⟨?_, ?_⟩⟩
  · have hb := State.frameStart_levelNotices_begun (s.advanceTo s.timer.nextStart) (s.advanceTo s.timer.nextStart) false
    exact ⟨_, State.exec_frameStart hrole, key _ s.coh false _ _ rfl hb, hb.pulses⟩
  · have hb := State.frameStart_levelNotices_begun (s.setCoh (s.coh.countStart false)) s false
    exact ⟨_, State.exec_syncPulse hrole, key s.now (s.coh.countStart false) false _ _ (hcount false) hb, hb.coherence.2.2⟩
  · have hb := State.frameStart_levelNotices_begun
      ((s.advanceTo s.timer.ownStartDue).setCoh (s.coh.countStart true)) (s.advanceTo s.timer.ownStartDue) true
    exact ⟨_, State.exec_ownStart hrole, key _ (s.coh.countStart true) true _ _ (hcount true) hb, hb.coherence.2.2⟩

end Sys2Proof.Machine
end

section
/-! SUPPORT. The arithmetic of stages 4 to 6 (R36 to R41): the ranges of the matrix, the weighting, the lift, the encode
interpolation and the output code. -/

namespace Sys2Proof.Machine

/-! ### Stage 4: the colour matrix -/

theorem clampInt_between {lo hi : Int} (h : lo ≤ hi) (x : Int) : lo ≤ clampInt lo hi x ∧ clampInt lo hi x ≤ hi :=
  ⟨le_min (le_max_left lo x) h, min_le_right _ _⟩

theorem clampInt_of_between {lo hi x : Int} (hlo : lo ≤ x) (hhi : x ≤ hi) : clampInt lo hi x = x := by
  rw [clampInt, max_eq_right hlo, min_eq_left hhi]

theorem matrixRow_le (m : Rgb Int) (l : Rgb Nat) : matrixRow m l ≤ 65535 :=
  Int.toNat_le.2 (clampInt_between (by decide) _).2

/-- A row whose sum is 1.0 times one component gives that component (R36). -/
theorem matrixRow_of_unit {m : Rgb Int} {l : Rgb Nat} {x : Nat} (hm : m.r * l.r + m.g * l.g + m.b * l.b = 8192 * x)
    (hx : x ≤ 65535) : matrixRow m l = x := by
  have hdiv : ((8192 * x + 4096) / 8192 : Int) = x := by omega
  rw [matrixRow, hm, hdiv, clampInt_of_between (by omega) (by omega), Int.toNat_natCast]

/-- The default matrix is the identity (R29). -/
theorem matrixOf_none : matrixOf none = ⟨⟨8192, 0, 0⟩, ⟨0, 8192, 0⟩, ⟨0, 0, 8192⟩⟩ := by decide

theorem matrixApply_none {l : Rgb Nat} (hr : l.r ≤ 65535) (hg : l.g ≤ 65535) (hb : l.b ≤ 65535) :
    matrixApply (matrixOf none) l = l := by
  rw [matrixOf_none, matrixApply, matrixRow_of_unit (x := l.r) (by simp) hr, matrixRow_of_unit (x := l.g) (by simp) hg,
    matrixRow_of_unit (x := l.b) (by simp) hb]

/-! ### Stage 5: weight and lift -/

theorem weighted_le {c w : Nat} (hc : c ≤ 65535) (hw : w ≤ 32768) : weighted c w ≤ 65535 := by
  have hprod : c * w ≤ 65535 * 32768 := Nat.mul_le_mul hc hw
  unfold weighted
  omega

/-- Weight 1.0 changes nothing (R38). -/
theorem weighted_one (c : Nat) : weighted c 32768 = c := by
  unfold weighted
  omega

/-- Weight 0 takes all light (R38). -/
theorem weighted_zero (c : Nat) : weighted c 0 = 0 := by
  unfold weighted
  omega

/-- Settles O56. -/
theorem weightingKeepsRange : Obligations.WeightingKeepsRange := fun c _ hc hw =>
  ⟨rfl, weighted_le hc hw, weighted_one c, weighted_zero c⟩

/-- The compressed value lies within the room above the lift (R39). -/
theorem compressed_le {a : Nat} (ha : a ≤ 65535) (room : Nat) : (a * room + 32767) / 65535 ≤ room := by
  have hprod : a * room ≤ 65535 * room := Nat.mul_le_mul_right room ha
  omega

theorem lifted_le {a l : Nat} (ha : a ≤ 65535) (hl : l ≤ 65535) : lifted a l ≤ 65535 := by
  have hroom := compressed_le ha (65535 - l)
  unfold lifted
  omega

/-- No light is shown at the lift itself (R39). -/
theorem lifted_dark (l : Nat) : lifted 0 l = l := by
  unfold lifted
  omega

/-- Full light stays full under any lift (R39). -/
theorem lifted_full {l : Nat} (hl : l ≤ 65535) : lifted 65535 l = 65535 := by
  unfold lifted
  omega

/-- Settles O57: the compressed value fits the room above the lift. -/
theorem liftKeepsRange : Obligations.LiftKeepsRange := fun a l ha hl =>
  have hl' : l ≤ 65535 := hl.trans (by decide)
  ⟨rfl, compressed_le ha (65535 - l), Nat.le_add_left l _, lifted_le ha hl', lifted_dark l, lifted_full hl'⟩

/-! ### Stage 6: encode and output code -/

/-- The interpolation between two curve entries is their weighted mean, so it stays between them (R40). -/
theorem encodeStep_between (a b : Int) {r : Nat} (hr : r ≤ 16) :
    min a b ≤ a + ((b - a) * r + 8) / 16 ∧ a + ((b - a) * r + 8) / 16 ≤ max a b := by
  have hb0 : (0 : Int) ≤ r := Int.natCast_nonneg r
  have ha0 : (0 : Int) ≤ 16 - r := by omega
  have hsum : ∀ m : Int, m * 16 = (16 - r) * m + r * m := fun m => by ring
  have hmean : a * 16 + (b - a) * r = (16 - r) * a + r * b := by ring
  have hstep : a + ((b - a) * r + 8) / 16 = ((16 - r) * a + r * b + 16 / 2) / 16 := by omega
  rw [hstep]
  refine roundedDiv_between (by decide) ?_ ?_
  · rw [hsum]
    exact add_le_add (mul_le_mul_of_nonneg_left (min_le_left a b) ha0) (mul_le_mul_of_nonneg_left (min_le_right a b) hb0)
  · rw [hsum]
    exact add_le_add (mul_le_mul_of_nonneg_left (le_max_left a b) ha0) (mul_le_mul_of_nonneg_left (le_max_right a b) hb0)

/-- Below the last entry E′ is interpolated between the entry of the linear value and the next (R40). -/
theorem encode_below (tone : Option TableRecord) {o : Nat} (h : o / 16 < 4095) :
    encode tone o = toneRead tone (1024 + o / 16)
      + ((toneRead tone (1024 + (o / 16 + 1)) - toneRead tone (1024 + o / 16)) * (o % 16 : Nat) + 8) / 16 := if_pos h

/-- At the last entry E′ is that entry (R40). -/
theorem encode_last (tone : Option TableRecord) {o : Nat} (h : o / 16 = 4095) : encode tone o = toneRead tone (1024 + 4095) :=
  if_neg (by omega)

/-- An E′ of the curve's range is below the clamp of the output code (R41). -/
theorem outputCode_toNat {e : Int} {d : Nat} (h0 : 0 ≤ e) (he : e ≤ 65472) (hd : d ≤ 60) :
    ((outputCode e d).toNat : Int) = (e + d) / 64 := by
  rw [outputCode, clampInt_of_between (by omega) (by omega), BitVec.toNat_ofNat]
  omega

/-- Settles O58. -/
theorem encodeStaysBetweenEntries : Obligations.EncodeStaysBetweenEntries := by
  refine ⟨matrixRow_le, fun l hr hg hb => matrixApply_none hr hg hb, fun tone o _ => ⟨fun h => ?_, encode_last tone⟩,
    fun e d h0 he hd => outputCode_toNat h0 he hd⟩
  rw [encode_below tone h]
  exact encodeStep_between _ _ (Nat.mod_lt o (by decide)).le

end Sys2Proof.Machine
end

section
/-! SUPPORT. The line buffer (R5, R35) and LIGHT_PIXEL_WRITE (R35 to R41). -/

namespace Sys2Proof.Machine

/-! ### The line buffer -/

/-- After a code is written to line `v`, the buffer of that line holds the code before what it held. -/
theorem find_writeCode_same (bs : List LineBuffer) (v u : Nat) (c : Pixel) :
    (writeCode bs v u c).find? (·.line == v)
      = some ⟨v, (u, c) :: ((bs.find? (·.line == v)).map (·.written)).getD []⟩ := by
  induction bs with
  | nil => simp [writeCode]
  | cons b rest ih =>
    by_cases hb : b.line = v
    · simp [writeCode, hb]
    · simp [writeCode, hb, ih]

/-- The buffer of any other line is as it was. -/
theorem find_writeCode_other (bs : List LineBuffer) {v w : Nat} (h : w ≠ v) (u : Nat) (c : Pixel) :
    (writeCode bs v u c).find? (·.line == w) = bs.find? (·.line == w) := by
  induction bs with
  | nil => simp [writeCode, h.symm]
  | cons b rest ih =>
    by_cases hb : b.line = v
    · simp [writeCode, hb, h.symm]
    · rw [writeCode, if_neg hb, List.find?_cons, List.find?_cons, ih]

/-- A written code is read back at its column and line. -/
theorem LightUnit.written_writeCode_same (l : LightUnit) (v u : Nat) (c : Pixel) :
    ({ l with buffers := writeCode l.buffers v u c } : LightUnit).written v u = some c := by
  simp [LightUnit.written, find_writeCode_same]

/-- Every other column and line reads as before the write. -/
theorem LightUnit.written_writeCode_other (l : LightUnit) {v u v' u' : Nat} (h : (v', u') ≠ (v, u)) (c : Pixel) :
    ({ l with buffers := writeCode l.buffers v u c } : LightUnit).written v' u' = l.written v' u' := by
  unfold LightUnit.written
  by_cases hv : v' = v
  · subst hv
    have hu : u ≠ u' := fun hu => h (by rw [hu])
    rw [find_writeCode_same]
    cases l.buffers.find? (·.line == v') <;> simp [hu]
  · rw [find_writeCode_other _ hv]

/-! ### The pixel -/

/-- A pixel whose tables read good records no fault. -/
theorem State.pixelFaults_of_good {s : State} {k : Channel} (htone : ∀ r, s.toneInUse k = some r → r.bad = [])
    (hblend : ∀ r, s.blendInUse k = some r → r.bad = []) (q : FrameParameters) (p : HeldPixel) : s.pixelFaults k q p = [] := by
  unfold State.pixelFaults
  cases p.as with
  | black => rfl
  | sample l => simp only [readFaults_of_good htone, readFaults_of_good hblend, List.append_nil]

/-- LIGHT_PIXEL_WRITE takes the first pixel held. -/
theorem State.exec_lightPixelWrite {s : State} {k : Channel} {q : FrameParameters} {p : HeldPixel} {rest : List HeldPixel}
    (hq : (s.lights.get k).params = some q) (hheld : (s.lights.get k).held = p :: rest) :
    exec (.lightPixelWrite k []) s = .next (s.lightPixelWrite k q p rest) := by
  show execLightPixelWrite k [] s = _
  unfold execLightPixelWrite
  rw [show s.upsets [] = s from rfl]
  simp only [hheld, hq]

/-- The buffers of the light unit of `k` once pixel `p` is finished (R35). -/
def State.pixelBuffers (s : State) (k : Channel) (q : FrameParameters) (p : HeldPixel) : List LineBuffer :=
  let l := s.lights.get k
  if s.timer.passed p.v then l.buffers else writeCode l.buffers p.v p.u (s.pixelCodes k q p)

/-- A pixel whose tables read good changes the pixels held and the line buffers of its light unit alone. -/
theorem State.lightPixelWrite_of_good {s : State} {k : Channel} (htone : ∀ r, s.toneInUse k = some r → r.bad = [])
    (hblend : ∀ r, s.blendInUse k = some r → r.bad = []) (q : FrameParameters) (p : HeldPixel) (rest : List HeldPixel) :
    s.lightPixelWrite k q p rest
      = s.setLight k { s.lights.get k with held := rest, buffers := s.pixelBuffers k q p } := by
  rw [State.lightPixelWrite, State.pixelFaults_of_good htone hblend, State.recordFaults_nil]
  rfl

/-- Settles O53: the pixel's faults are none, and the write of its code changes its place alone. -/
theorem lightPixelWritesCode : Obligations.LightPixelWritesCode := by
  intro s k q p rest hq hheld htone hblend l code
  have hexec := State.exec_lightPixelWrite hq hheld
  rw [State.lightPixelWrite_of_good htone hblend] at hexec
  refine ⟨s.pixelBuffers k q p, hexec, fun hpassed => if_pos hpassed, fun hopen => ?_⟩
  have hwritten : s.pixelBuffers k q p = writeCode l.buffers p.v p.u (s.pixelCodes k q p) :=
    if_neg (hopen ▸ Bool.false_ne_true)
  rw [hwritten]
  refine ⟨(l.written_writeCode_same p.v p.u _).trans (congrArg some ?_), fun v u hne => l.written_writeCode_other hne _⟩
  unfold State.pixelCodes
  cases p.as with
  | black => rfl
  | sample ls => rfl

end Sys2Proof.Machine
end

section
/-! SUPPORT. Allocation in the table store (R50, R53): the lowest free record, the first free run of pages, and what an
allocation makes of the directory. -/

namespace Sys2Proof.Machine

/-! ### The lowest free record -/

/-- `n` is the lowest directory record that is free (R53). -/
def freeRecord (dir : Assoc TableRecord) (n : Nat) : Prop :=
  n < 64 ∧ Assoc.find dir n = none ∧ ∀ m, m < n → Assoc.find dir m ≠ none

theorem lowestFree_eq_some {dir : Assoc TableRecord} {n : Nat} :
    Assoc.lowestFree dir Config.directoryRecords = some n ↔ freeRecord dir n := by
  rw [Assoc.lowestFree, List.find?_range_eq_some, List.mem_range, freeRecord]
  simp only [Option.isNone_iff_eq_none, Bool.not_eq_true', Option.isNone_eq_false_iff, ← Option.ne_none_iff_isSome]
  exact and_left_comm

theorem lowestFree_eq_none {dir : Assoc TableRecord} :
    Assoc.lowestFree dir Config.directoryRecords = none ↔ ∀ n, ¬freeRecord dir n := by
  rw [Option.eq_none_iff_forall_ne_some]
  exact forall_congr' fun n => not_congr lowestFree_eq_some

/-! ### The first free run -/

/-- The `n` pages from page `p` on are free table pages of the arrangement (R49, R50). -/
def freeRun (arr : Arrangement) (dir : Assoc TableRecord) (n p : Nat) : Prop :=
  arr.linePages ≤ p ∧ p + n ≤ 512 ∧ ∀ q, p ≤ q → q < p + n → pageUsed dir q = false

/-- `p` begins the first free run of `n` pages (R50). -/
def firstRun (arr : Arrangement) (dir : Assoc TableRecord) (n p : Nat) : Prop :=
  freeRun arr dir n p ∧ ∀ p', p' < p → ¬freeRun arr dir n p'

theorem linePages_lt (arr : Arrangement) : arr.linePages < 512 := by
  cases arr <;> decide

theorem pageFree_iff {arr : Arrangement} {dir : Assoc TableRecord} {q : Nat} :
    pageFree arr dir q = true ↔ arr.linePages ≤ q ∧ q < 512 ∧ pageUsed dir q = false := by
  simp only [pageFree, Bool.and_eq_true, decide_eq_true_eq, Bool.not_eq_true', and_assoc]
  rfl

/-- The test of first-fit at a page of the pool is whether a free run begins there. -/
theorem all_pageFree_iff {arr : Arrangement} {dir : Assoc TableRecord} {n p : Nat} (hl : arr.linePages ≤ p) (hp : p < 512) :
    (List.range' p n).all (pageFree arr dir) = true ↔ freeRun arr dir n p := by
  simp only [List.all_eq_true, List.mem_range'_1, pageFree_iff, freeRun]
  constructor
  · intro h
    refine ⟨hl, ?_, fun q h1 h2 => (h q ⟨h1, h2⟩).2.2⟩
    by_contra hn
    have := (h (p + n - 1) (by omega)).2.1
    omega
  · exact fun ⟨_, hn, hu⟩ q hq => ⟨by omega, by omega, hu q hq.1 hq.2⟩

/-- First-fit finds the first free run. -/
theorem firstFit_eq_some {arr : Arrangement} {dir : Assoc TableRecord} {n p : Nat} :
    firstFit arr dir n = some p ↔ firstRun arr dir n p := by
  have hlt := linePages_lt arr
  have htab : arr.linePages + arr.tablePages = 512 := by
    show arr.linePages + (512 - arr.linePages) = 512
    omega
  rw [firstFit, List.find?_range'_eq_some, List.mem_range'_1, htab]
  constructor
  · rintro ⟨hrun, ⟨hl, hp⟩, hmin⟩
    refine ⟨(all_pageFree_iff hl hp).1 hrun, fun p' hp' hrun' => ?_⟩
    have := hmin p' hrun'.1 hp'
    rw [(all_pageFree_iff hrun'.1 (by omega)).2 hrun'] at this
    cases this
  · rintro ⟨hrun, hmin⟩
    have hl := hrun.1
    have hp : p < 512 := by
      by_contra hge
      have hn := hrun.2.1
      exact hmin arr.linePages (by omega) ⟨le_refl _, by omega, fun q h1 h2 => absurd h2 (by omega)⟩
    refine ⟨(all_pageFree_iff hl hp).2 hrun, ⟨hl, hp⟩, fun j hj hjp => ?_⟩
    rw [Bool.not_eq_true', ← Bool.not_eq_true, all_pageFree_iff hj (by omega)]
    exact hmin j hjp

theorem firstFit_eq_none {arr : Arrangement} {dir : Assoc TableRecord} {n : Nat} :
    firstFit arr dir n = none ↔ ∀ p, ¬freeRun arr dir n p := by
  rw [Option.eq_none_iff_forall_ne_some]
  constructor
  · intro h p
    induction p using Nat.strong_induction_on with
    | _ p ih => exact fun hrun => h p (firstFit_eq_some.2 ⟨hrun, ih⟩)
  · exact fun h p hp => h p (firstFit_eq_some.1 hp).1

/-! ### A new table -/

/-- The table that an allocation makes: no entry differs from its default, and none is bad (R53). -/
def newTable (key : Key) (dims : Option Dims) (st : TableState) (p : Nat) : TableRecord :=
  ⟨key, st, p, key.pages dims, dims, false, false, [], []⟩

/-- An allocation succeeds exactly with the lowest free record and the first free run. -/
theorem createTable_eq_some {arr : Arrangement} {dir dir' : Assoc TableRecord} {key : Key} {dims : Option Dims} {st : TableState}
    {n : Nat} : createTable arr dir key dims st = some (n, dir') ↔
      ∃ p, freeRecord dir n ∧ firstRun arr dir (key.pages dims) p ∧ dir' = Assoc.insert dir n (newTable key dims st p) := by
  unfold createTable
  cases hn : Assoc.lowestFree dir Config.directoryRecords with
  | none => exact ⟨fun h => (by cases h), fun ⟨_, h, _⟩ => absurd h (lowestFree_eq_none.1 hn n)⟩
  | some m =>
    cases hp : firstFit arr dir (key.pages dims) with
    | none => exact ⟨fun h => (by cases h), fun ⟨p, _, h, _⟩ => absurd h.1 (firstFit_eq_none.1 hp p)⟩
    | some q =>
      simp only [← lowestFree_eq_some, ← firstFit_eq_some, hn, hp, Option.some.injEq, Prod.mk.injEq]
      constructor
      · rintro ⟨rfl, rfl⟩
        exact ⟨q, rfl, rfl, rfl⟩
      · rintro ⟨p, rfl, rfl, rfl⟩
        exact ⟨rfl, rfl⟩

/-- An allocation fails exactly where no record or no run is free. -/
theorem createTable_eq_none {arr : Arrangement} {dir : Assoc TableRecord} {key : Key} {dims : Option Dims} {st : TableState} :
    createTable arr dir key dims st = none ↔
      (∀ n, ¬freeRecord dir n) ∨ ∀ p, ¬freeRun arr dir (key.pages dims) p := by
  rw [← lowestFree_eq_none, ← firstFit_eq_none, createTable]
  cases Assoc.lowestFree dir Config.directoryRecords <;> cases firstFit arr dir (key.pages dims) <;> simp

end Sys2Proof.Machine
end

section
/-! SUPPORT. The table commands that are carried out (R55 to R65): what they read of their payload, the checks they pass, and
the state that each leaves. -/

namespace Sys2Proof.Machine

/-! ### Serving, payloads and checks -/

/-- A command carried out leaves its state with the cell served and its reply placed. -/
theorem State.serve_answered {s t : State} {c : Cell} {rest : List Cell} (h : s.served c rest) {mine : Cell → Bool}
    {command : Cell → State → Answer} (hm : mine c = true) {st : Status} {payload : Bytes} {resets : Bool}
    (ha : command c { s with cells := rest } = ⟨{ t with cells := rest }, st, payload, resets⟩) :
    s.serve mine command = t.replied c rest st payload resets := by
  rw [State.serve_served h mine command hm, ha]
  rfl

@[simp] theorem Key.bytes_length (key : Key) : key.bytes.length = 3 := by
  cases key <;> rfl

@[simp] theorem oneByte_length (n : Nat) : (oneByte n).length = 1 := toLe_length 1 n

/-- The key that a payload begins with. -/
theorem keyAt_start (key : Key) (rest : Bytes) : keyAt (key.bytes ++ rest) 0 = some key := keyAt_bytes key [] rest rfl

/-- A byte behind other bytes. -/
theorem byteAt_at (a c : Bytes) (x : Byte) {off : Nat} (ho : off = a.length) : byteAt (a ++ x :: c) off = x.toNat := by
  rw [byteAt, field, show a ++ x :: c = a ++ [x] ++ c by simp, slice_at a [x] c ho (show 1 = [x].length from rfl)]
  simp [leNat]

/-- A one-byte number behind other bytes. -/
theorem byteAt_oneByte (a c : Bytes) {v off : Nat} (ho : off = a.length) (hv : v < 256) :
    byteAt (a ++ oneByte v ++ c) off = v :=
  (field_toLe_at a c v ho).trans (Nat.mod_eq_of_lt hv)

/-- A two-byte number behind other bytes. -/
theorem field_two (a c : Bytes) {v off : Nat} (ho : off = a.length) (hv : v < 65536) : field (a ++ toLe 2 v ++ c) off 2 = v :=
  (field_toLe_at a c v ho).trans (Nat.mod_eq_of_lt hv)

/-- The checks of R55 are passed by keys of the arrangement while no operation of the loader stands in the way. -/
theorem State.tableChecks_passed {s : State} {keys : List Key} {excludes : Bool} (hk : ∀ key ∈ keys, s.keyAbsent key = false)
    (hs : s.loader.starting = false) (hl : excludes = true → s.loader.loading = false) :
    s.tableChecks keys excludes = none := by
  have hany : keys.any s.keyAbsent = false := List.any_eq_false.2 fun key hm => by simp [hk key hm]
  have hex : (excludes && s.loader.loading) = false := by
    cases excludes
    · rfl
    · exact hl rfl
  simp [State.tableChecks, hany, hs, hex]

/-! ### TABLE OPEN (R56) -/

theorem dimsAt_start (key : Key) {d : Dims} (hs : d.spacing < 256) (hc : d.cols < 65536) (hr : d.rows < 65536) :
    dimsAt (key.bytes ++ oneByte d.spacing ++ toLe 2 d.cols ++ toLe 2 d.rows) 3 = d := by
  have h1 : byteAt (key.bytes ++ oneByte d.spacing ++ toLe 2 d.cols ++ toLe 2 d.rows) 3 = d.spacing := by
    rw [List.append_assoc (key.bytes ++ oneByte d.spacing)]
    exact byteAt_oneByte _ _ (by simp) hs
  have h2 : field (key.bytes ++ oneByte d.spacing ++ toLe 2 d.cols ++ toLe 2 d.rows) 4 2 = d.cols :=
    field_two _ _ (by simp) hc
  have h3 : field (key.bytes ++ oneByte d.spacing ++ toLe 2 d.cols ++ toLe 2 d.rows) 6 2 = d.rows := by
    rw [field_toLe_last _ _ (by simp)]
    exact Nat.mod_eq_of_lt hr
  rw [dimsAt, h1, h2, h3]

/-- An OPEN with room for its table is accepted. -/
theorem State.openCommand_accepted {s : State} {c : Cell} {key : Key} {d : Dims} {n p : Nat} (hs : d.spacing < 256)
    (hc : d.cols < 65536) (hr : d.rows < 65536)
    (hp : c.payload = key.bytes ++ oneByte d.spacing ++ toLe 2 d.cols ++ toLe 2 d.rows) (hk : s.keyAbsent key = false)
    (hstart : s.loader.starting = false) (hload : s.loader.loading = false)
    (hnew : findTable s.tables.directory key .staged = none) (hlegal : key.dimsLegal d = true) (hfill : s.tables.fill = none)
    (hn : freeRecord s.tables.directory n)
    (hrun : firstRun s.straps.arrangement s.tables.directory (key.pages (key.dimsKept d)) p) :
    s.openCommand c =
      { state := s.setTables { s.tables with
          directory := Assoc.insert s.tables.directory n (newTable key (key.dimsKept d) .filling p)
          fill := some ⟨n, 0, c.tag, c.link⟩ }
        status := .accepted } := by
  have hlen : c.payload.length = 8 := by simp [hp]
  have hkey : keyAt c.payload 0 = some key := by
    rw [hp, List.append_assoc, List.append_assoc]
    exact keyAt_start key _
  have hdims : dimsAt c.payload 3 = d := by rw [hp, dimsAt_start key hs hc hr]
  have hchecks : s.tableChecks [key] true = none :=
    State.tableChecks_passed (by simpa using hk) hstart fun _ => hload
  have hcreate := (createTable_eq_some (st := .filling)).2 ⟨p, hn, hrun, rfl⟩
  unfold State.openCommand
  simp [hlen, hkey, hchecks, hdims, hnew, hlegal, hfill, hcreate]

/-- Settles O32: the checks pass, the record and the run are those the statement names, and the fill begins there. -/
theorem openCreatesFilling : Obligations.OpenCreatesFilling := by
  intro s c rest key d n p hserved hcarries hs hc hr hp hk hstart hload hnew hlegal hfill arr dir pages hn hrun
  obtain ⟨hl, hend, hfree, hmin⟩ := hrun
  have hfirst : firstRun arr dir pages p := by
    refine ⟨⟨hl, hend, hfree⟩, fun p' hp' hrun' => ?_⟩
    obtain ⟨q, h1, h2, hused⟩ := hmin p' hrun'.1 hp'
    rw [hrun'.2.2 q h1 h2] at hused
    cases hused
  exact congrArg Host.Outcome.next (State.serve_answered hserved hcarries
    (State.openCommand_accepted (s := { s with cells := rest }) hs hc hr hp hk hstart hload hnew hlegal hfill hn hfirst))

/-! ### The page runs of a sound pool -/

/-- A part whose directory holds one LIVE TONE without pages at page 65, and whose oldest cell is an OPEN of a TONE. The
invariant of the pool admits the run without pages: it lies in the table pages, and it overlaps no other. -/
def emptyRunState : State :=
  { State.reset with
    pending := [.tableOpen]
    loader := ⟨none, none, .none⟩
    cells := [⟨0, 7, 0x10, Key.bytes (.tone 0) ++ oneByte 0 ++ toLe 2 0 ++ toLe 2 0, false⟩]
    tables := { TableStore.reset with directory := [(0, ⟨.tone 1, .live, 65, 0, none, false, false, [], []⟩)] } }

/-- The OPEN's directory: pages 64 to 66 are free, and page 65 is the beginning of the run without pages. -/
def overlappingDirectory : Assoc TableRecord :=
  [(0, ⟨.tone 1, .live, 65, 0, none, false, false, [], []⟩), (1, newTable (.tone 0) none .filling 64)]

theorem step_emptyRunState : ∃ t, step emptyRunState = .next t ∧ t.tables.directory = overlappingDirectory
    ∧ t.straps = emptyRunState.straps := by
  let s : State := { emptyRunState with pending := [] }
  have hserved : s.served ⟨0, 7, 0x10, Key.bytes (.tone 0) ++ oneByte 0 ++ toLe 2 0 ++ toLe 2 0, false⟩ [] :=
    ⟨rfl, rfl, rfl, by decide⟩
  have hpages : Key.pages (.tone 0) (Key.dimsKept (.tone 0) ⟨0, 0, 0⟩) = 3 := by decide
  have hfree : ∀ q, pageUsed s.tables.directory q = false := fun q => by
    simp [pageUsed, s, emptyRunState]
  have hopen := openCreatesFilling s _ [] (.tone 0) ⟨0, 0, 0⟩ 1 64 hserved (by decide) (by decide) (by decide) (by decide) rfl
    (by decide) rfl rfl (by decide) rfl rfl
    ⟨by decide, by decide, fun m hm => by
      obtain rfl : m = 0 := by omega
      decide⟩
    ⟨by decide, by rw [hpages]; decide, fun q _ _ => hfree q, fun p' h1 h2 => absurd h2 (not_lt.2 h1)⟩
  exact ⟨_, hopen, by decide, rfl⟩

/-- Refutes O8: the invariant admits a table without pages, which hides in pages that read as free; the run that an OPEN
is given around it overlaps it. -/
theorem not_pageRunsStayDisjoint : ¬Obligations.PageRunsStayDisjoint := by
  intro h
  obtain ⟨t, hstep, hdir, hstraps⟩ := step_emptyRunState
  have hsound := h emptyRunState t (by decide) hstep
  rw [State.pagesSound, hdir, hstraps] at hsound
  revert hsound
  decide

end Sys2Proof.Machine
end

section
/-! SUPPORT. TABLE SEAL, DROP and SWAP carried out (R62 to R65). -/

namespace Sys2Proof.Machine

/-! ### TABLE SEAL and TABLE DROP (R62 to R64) -/

theorem State.sealCommand_seals {s : State} {c : Cell} {key : Key} {n : Nat} {r : TableRecord} (hp : c.payload = key.bytes)
    (hk : s.keyAbsent key = false) (hstart : s.loader.starting = false) (hload : s.loader.loading = false)
    (hfind : findTable s.tables.directory key .staged = some (n, r)) (hopen : r.state = .open) (hlock : r.locked = false) :
    s.sealCommand c =
      { state := s.setDirectory (Assoc.insert s.tables.directory n { r with state := .sealed }), status := .ok } := by
  have hkey : keyAt c.payload 0 = some key := by
    rw [hp, ← List.append_nil key.bytes]
    exact keyAt_start key []
  have hchecks : s.tableChecks [key] true = none :=
    State.tableChecks_passed (by simpa using hk) hstart fun _ => hload
  unfold State.sealCommand
  simp [hp ▸ key.bytes_length, hkey, hchecks, hfind, hopen, hlock]

/-- A DROP goes on to the bank that its payload names. -/
theorem State.dropCommand_eq {s : State} {c : Cell} {key : Key} {bank : Bank} (hp : c.payload = key.bytes ++ [bank.code])
    (hk : s.keyAbsent key = false) (hstart : s.loader.starting = false) (hload : s.loader.loading = false) :
    s.dropCommand c = if bank = .staged then s.dropStaged key else s.dropLive key := by
  have hlen : c.payload.length = 4 := by simp [hp]
  have hkey : keyAt c.payload 0 = some key := hp ▸ keyAt_start key _
  have hbank : bankOf (byteAt c.payload 3) = some bank := by
    rw [hp, byteAt_at key.bytes [] _ key.bytes_length.symm]
    cases bank <;> rfl
  have hchecks : s.tableChecks [key] true = none :=
    State.tableChecks_passed (by simpa using hk) hstart fun _ => hload
  unfold State.dropCommand
  cases bank <;> simp [hlen, hkey, hbank, hchecks]

theorem State.dropStaged_removes {s : State} {key : Key} {n : Nat} {r : TableRecord}
    (hfind : findTable s.tables.directory key .staged = some (n, r)) (hstate : r.state = .open ∨ r.state = .sealed)
    (hlock : r.locked = false) :
    s.dropStaged key = { state := s.setDirectory (Assoc.erase s.tables.directory n), status := .ok } := by
  have hfilling : r.state ≠ .filling := by
    rcases hstate with h | h <;> simp [h]
  unfold State.dropStaged
  simp [hfind, hlock, hfilling]

theorem State.dropLive_marks {s : State} {key : Key} {n : Nat} {r : TableRecord}
    (hfind : findTable s.tables.directory key .live = some (n, r)) (hstore : s.loader.storing = false) :
    s.dropLive key =
      { state := s.setDirectory (Assoc.insert s.tables.directory n { r with dropMark := true }), status := .ok } := by
  unfold State.dropLive
  simp [hfind, hstore]

/-- A payload that names a bank belongs to the row of that bank alone. -/
theorem dropNames_bank (key : Key) (bank : Bank) (n : Nat) :
    dropNames n (key.bytes ++ [bank.code]) = decide (bank.code.toNat = n) := by
  unfold dropNames
  rw [byteAt_at key.bytes [] _ key.bytes_length.symm]
  simp [Bool.beq_eq_decide_eq]

/-- Settles O36: each command finds its table in a state in which it may act on it. -/
theorem sealAndDropActOnState : Obligations.SealAndDropActOnState := by
  intro s c rest key n r hserved hk hstart hload with_
  refine ⟨fun hc hp hfind hopen hlock => ?_, fun hc hp hfind hstate hlock => ?_, fun hc hp hfind hstore => ?_⟩
  · exact congrArg Host.Outcome.next (State.serve_answered (t := with_ _) hserved hc
      (State.sealCommand_seals (s := { s with cells := rest }) hp hk hstart hload hfind hopen hlock))
  · have hp' : c.payload = key.bytes ++ [Bank.staged.code] := hp
    have hrow : dropNames 0 c.payload = false := by
      rw [hp', dropNames_bank]
      rfl
    exact congrArg Host.Outcome.next (State.serve_answered (t := with_ _) hserved (by simp [hc, hrow])
      ((State.dropCommand_eq (s := { s with cells := rest }) hp' hk hstart hload).trans (State.dropStaged_removes hfind hstate hlock)))
  · have hp' : c.payload = key.bytes ++ [Bank.live.code] := hp
    have hrow : dropNames 1 c.payload = false := by
      rw [hp', dropNames_bank]
      rfl
    exact congrArg Host.Outcome.next (State.serve_answered (t := with_ _) hserved (by simp [hc, hrow])
      ((State.dropCommand_eq (s := { s with cells := rest }) hp' hk hstart hload).trans (State.dropLive_marks hfind hstore)))

/-! ### TABLE SWAP (R65) -/

/-- The payload of a TABLE SWAP (R172). -/
def swapPayload (target : Option FrameNo) (all : Bool) (keys : List Key) : Bytes :=
  [(if target.isSome then 1 else 0) + (if all then 2 else 0)] ++ toLe 2 ((target.getD 0).toNat) ++ oneByte keys.length
    ++ keys.flatMap Key.bytes

theorem keysAt_flatMap (keys : List Key) (pre : Bytes) {off : Nat} (ho : off = pre.length) :
    keysAt (pre ++ keys.flatMap Key.bytes) keys.length off = some keys := by
  induction keys generalizing pre off with
  | nil => rfl
  | cons key keys ih =>
    have hkey : keyAt (pre ++ (key :: keys).flatMap Key.bytes) off = some key := by
      rw [List.flatMap_cons, ← List.append_assoc]
      exact keyAt_bytes key pre _ ho
    have hrest := ih (pre ++ key.bytes) (off := off + 3) (by simp [ho])
    rw [List.append_assoc, ← List.flatMap_cons] at hrest
    rw [List.length_cons, keysAt, hkey, hrest]

theorem flatMap_bytes_length (keys : List Key) : (keys.flatMap Key.bytes).length = 3 * keys.length := by
  induction keys with
  | nil => rfl
  | cons key keys ih =>
    rw [List.flatMap_cons, List.length_append, ih, Key.bytes_length, List.length_cons]
    ring

/-- The flags byte of a TABLE SWAP: bit 0 for a target, bit 1 for ALL_SEALED. -/
theorem swapFlags_toNat (target : Option FrameNo) (all : Bool) :
    ((if target.isSome then 1 else 0) + (if all then 2 else 0) : Byte).toNat
      = (if target.isSome then 1 else 0) + (if all then 2 else 0) := by
  cases target.isSome <;> cases all <;> rfl

/-- A well-formed request is read back. -/
theorem parseSwap_payload (target : Option FrameNo) (all : Bool) (keys : List Key)
    (hkeys : if all then keys = [] else 1 ≤ keys.length ∧ keys.length ≤ 25) :
    parseSwap (swapPayload target all keys) = some ⟨all, keys, target⟩ := by
  have hcount : keys.length ≤ 25 := by
    cases all
    · exact hkeys.2
    · simp [show keys = [] from hkeys]
  have hflags : byteAt (swapPayload target all keys) 0 = (if target.isSome then 1 else 0) + (if all then 2 else 0) := by
    rw [← swapFlags_toNat]
    exact byteAt_at [] _ _ rfl
  have hframe : field (swapPayload target all keys) 1 2 = (target.getD 0).toNat := by
    unfold swapPayload
    rw [List.append_assoc]
    exact field_two _ _ rfl (target.getD 0).isLt
  have hnumber : byteAt (swapPayload target all keys) 3 = keys.length := byteAt_oneByte _ _ (by simp) (by omega)
  have hlen : (swapPayload target all keys).length = 4 + 3 * keys.length := by
    simp only [swapPayload, List.length_append, List.length_singleton, toLe_length, oneByte_length, flatMap_bytes_length]
  have hread : keysAt (swapPayload target all keys) keys.length 4 = some keys := keysAt_flatMap keys _ (by simp)
  have htarget : BitVec.ofNat 16 (target.getD 0).toNat = target.getD 0 := by simp
  unfold parseSwap
  simp only [frameAt]
  rw [hflags, hnumber, hlen, hread, hframe, htarget]
  cases all
  · obtain ⟨h1, h2⟩ : 1 ≤ keys.length ∧ keys.length ≤ 25 := hkeys
    have hne : keys ≠ [] := List.ne_nil_of_length_pos h1
    cases target <;> simp [hne, h2]
  · obtain rfl : keys = [] := hkeys
    cases target <;> simp

theorem find_lockKeys (dir : Assoc TableRecord) (keys : List Key) (n : Nat) :
    Assoc.find (lockKeys dir keys) n = (Assoc.find dir n).map fun r =>
      if r.state = .sealed ∧ r.key ∈ keys then { r with locked := true } else r := by
  induction dir with
  | nil => rfl
  | cons e dir ih =>
    obtain ⟨j, r⟩ := e
    have hcons : lockKeys ((j, r) :: dir) keys =
        (j, if r.state = .sealed ∧ r.key ∈ keys then { r with locked := true } else r) :: lockKeys dir keys := by
      unfold lockKeys
      rw [List.map_cons]
      congr 1
      by_cases h : r.state = .sealed ∧ r.key ∈ keys
      · simp [h]
      · rw [if_neg h, if_neg (by simpa using h)]
    rw [hcons, Assoc.find_cons, Assoc.find_cons]
    split
    · rfl
    · exact ih

/-- A request of the SEALED keys `keys` is carried out. -/
theorem State.swapCommand_locks {s : State} {c : Cell} {all : Bool} {asked keys : List Key} {target : Option FrameNo}
    (hp : parseSwap c.payload = some ⟨all, asked, target⟩) (habsent : ∀ key ∈ asked, s.keyAbsent key = false)
    (hstart : s.loader.starting = false) (hload : s.loader.loading = false) (htwice : keyTwice asked = false)
    (hkeys : keys = if all then sealedKeys s.tables.directory else asked) (hnone : s.tables.swap = none) (hne : keys ≠ [])
    (hsealed : ∀ key ∈ keys, sealedKey s.tables.directory key = true) :
    s.swapCommand c =
      { state := s.setTables { s.tables with directory := lockKeys s.tables.directory keys, swap := some ⟨keys, target, false⟩ }
        status := .ok } := by
  have hchecks : s.tableChecks asked true = none := State.tableChecks_passed habsent hstart fun _ => hload
  have hall : keys.all (sealedKey s.tables.directory) = true := List.all_eq_true.2 hsealed
  have hempty : keys.isEmpty = false := by simpa using hne
  unfold State.swapCommand
  simp [hp, hchecks, htwice, ← hkeys, hnone, hall, hempty]

theorem sealedKey_iff {dir : Assoc TableRecord} {key : Key} :
    sealedKey dir key = true ↔ ∃ e ∈ dir, e.2.key = key ∧ e.2.state = .sealed := by
  simp [sealedKey]

theorem mem_sealedKeys {dir : Assoc TableRecord} {key : Key} : key ∈ sealedKeys dir ↔ sealedKey dir key = true := by
  rw [sealedKey_iff]
  simp only [sealedKeys, List.mem_map, List.mem_filter, beq_iff_eq]
  exact ⟨fun ⟨e, ⟨he, hs⟩, hk⟩ => ⟨e, he, hk, hs⟩, fun ⟨e, he, hk, hs⟩ => ⟨e, ⟨he, hs⟩, hk⟩⟩

/-- Settles O37: the request is read back from its payload, and its keys are all SEALED. -/
theorem swapLocksSealed : Obligations.SwapLocksSealed := by
  intro s c rest target hserved hc hstart hload hnone payload swaps
  have hswaps : ∀ keys : List Key, State.swapCommand c { s with cells := rest } =
      { state := State.setTables { s with cells := rest }
          { s.tables with directory := lockKeys s.tables.directory keys, swap := some ⟨keys, target, false⟩ }
        status := .ok } → swaps keys := fun keys h =>
    ⟨lockKeys s.tables.directory keys,
      congrArg Host.Outcome.next (State.serve_answered
        (t := s.setTables { s.tables with directory := lockKeys s.tables.directory keys, swap := some ⟨keys, target, false⟩ })
        hserved hc h),
      find_lockKeys _ _⟩
  refine ⟨fun keys h1 h25 htwice hkeys hp => ?_, fun hp => ?_⟩
  · have hparse : parseSwap c.payload = some ⟨false, keys, target⟩ := by
      rw [hp]
      exact parseSwap_payload target false keys ⟨h1, h25⟩
    exact hswaps keys (State.swapCommand_locks (s := { s with cells := rest }) hparse (fun key hk => (hkeys key hk).1) hstart hload
      htwice rfl hnone (List.ne_nil_of_length_pos h1) fun key hk => sealedKey_iff.2 (hkeys key hk).2)
  · have hparse : parseSwap c.payload = some ⟨true, [], target⟩ := by
      rw [hp]
      exact parseSwap_payload target true [] rfl
    refine ⟨fun hne => hswaps _ (State.swapCommand_locks (s := { s with cells := rest }) hparse (by simp) hstart hload rfl rfl
      hnone hne fun key hk => mem_sealedKeys.1 hk), fun hempty => ?_⟩
    have hchecks : State.tableChecks { s with cells := rest } [] true = none :=
      State.tableChecks_passed (by simp) hstart fun _ => hload
    refine congrArg Host.Outcome.next (State.serve_replied hserved _ _ hc ?_)
    unfold State.swapCommand
    have hkeys : sealedKeys s.tables.directory = [] := hempty
    simp [hparse, hchecks, keyTwice, hnone, hkeys, Answer.refuse]

end Sys2Proof.Machine
end

section
/-! SUPPORT. The invariant of the directory in words (R53, R54, R65, R67, R200): what it says of each record, of the swap, of
the records being filled and of the loader's operation, and how a change of one record keeps it. -/

namespace Sys2Proof.Machine

/-! ### Lookups and members -/

/-- In a canonical map the members are what its keys read as. -/
theorem Assoc.mem_iff_find {α : Type} {m : Assoc α} (h : Assoc.wf m = true) {n : Nat} {x : α} :
    (n, x) ∈ m ↔ Assoc.find m n = some x :=
  ⟨fun hm => Assoc.find_of_mem h hm, Assoc.mem_of_find⟩

/-- A canonical map lists its keys in rising order. -/
theorem Assoc.pairwise_lt {α : Type} {m : Assoc α} {lo : Nat} (h : Assoc.risingFrom lo m = true) :
    m.Pairwise fun a b => a.1 < b.1 := by
  induction m generalizing lo with
  | nil => exact List.Pairwise.nil
  | cons d rest ih =>
    obtain ⟨k, x⟩ := d
    simp only [Assoc.risingFrom, Bool.and_eq_true, decide_eq_true_eq] at h
    exact List.pairwise_cons.2 ⟨fun e he => Assoc.le_of_risingFrom h.2 he, ih h.2⟩

theorem keyTwice_iff (keys : List Key) : keyTwice keys = false ↔ keys.Nodup := by
  induction keys with
  | nil => simp [keyTwice]
  | cons key keys ih => simp [keyTwice, ih]

theorem noTwo_beq_iff (ns : List Nat) : noTwo (· == ·) ns = true ↔ ns.Nodup := by
  rw [noTwo_iff, List.Nodup]
  exact List.pairwise_iff_forall_sublist.trans
    (Iff.trans (by simp) List.pairwise_iff_forall_sublist.symm)

/-- A lookup in a canonical directory finds the record as its number reads. -/
theorem findTable_find {dir : Assoc TableRecord} (h : Assoc.wf dir = true) {key : Key} {bank : Bank} {n : Nat} {r : TableRecord}
    (hf : findTable dir key bank = some (n, r)) : Assoc.find dir n = some r ∧ r.key = key ∧ r.bank = bank := by
  obtain ⟨hm, hk, hb⟩ := findTable_some hf
  exact ⟨(Assoc.mem_iff_find h).1 hm, hk, hb⟩

/-- Where a lookup finds nothing, no record is a table of the key in the bank. -/
theorem findTable_none_find {dir : Assoc TableRecord} {key : Key} {bank : Bank} (hf : findTable dir key bank = none) {n : Nat}
    {r : TableRecord} (hr : Assoc.find dir n = some r) (hk : r.key = key) : r.bank ≠ bank :=
  findTable_none hf (Assoc.mem_of_find hr) hk

/-! ### The invariant in words -/

/-- One record against the keys of the pending swap and the records being filled. -/
structure RecordFits (keys : List Key) (filling : List Nat) (n : Nat) (r : TableRecord) : Prop where
  filling : r.state = .filling ↔ n ∈ filling
  locked : r.locked = true → r.state = .sealed ∧ r.key ∈ keys
  marked : r.dropMark = true → r.state = .live
  sized : ∀ e ∈ r.contents, e.2.bytes.length = r.key.entryBytes

/-- A directory against the keys of the pending swap and the records being filled. -/
structure DirSound (dir : Assoc TableRecord) (keys : List Key) (filling : List Nat) : Prop where
  wf : Assoc.wf dir = true
  once : ∀ n m r q, Assoc.find dir n = some r → Assoc.find dir m = some q → n ≠ m → r.key = q.key → r.bank ≠ q.bank
  fits : ∀ n r, Assoc.find dir n = some r → RecordFits keys filling n r
  locks : ∀ key ∈ keys, ∃ n r, Assoc.find dir n = some r ∧ r.key = key ∧ r.state = .sealed ∧ r.locked = true
  keysOnce : keys.Nodup
  filled : ∀ n ∈ filling, ∃ r, Assoc.find dir n = some r
  fillingOnce : filling.Nodup

/-- The directory against the loader's operation: the tables of a STORE are LIVE, and the store is empty during the start-up
load. -/
structure OpSound (dir : Assoc TableRecord) (swap : Option PendingSwap) (fill : Option FillOp) (op : Option ImageOp) : Prop where
  stored : ∀ l t p st ns, op = some (.store l t p st ns) → ∀ n ∈ ns, ∃ r, Assoc.find dir n = some r ∧ r.state = .live
  starts : ∀ p, op = some (.startup p) → dir = [] ∧ swap = none ∧ fill = none

theorem sameInstance_false {a b : Nat × TableRecord} : sameInstance a b = false ↔ (a.2.key = b.2.key → a.2.bank ≠ b.2.bank) := by
  rw [sameInstance, Bool.and_eq_false_imp]
  simp

theorem noTwo_sameInstance_iff {dir : Assoc TableRecord} (h : Assoc.wf dir = true) : noTwo sameInstance dir = true ↔
    ∀ n m r q, Assoc.find dir n = some r → Assoc.find dir m = some q → n ≠ m → r.key = q.key → r.bank ≠ q.bank := by
  rw [noTwo_iff]
  constructor
  · intro hp n m r q hr hq hne
    have hsymm : Std.Symm fun a b => sameInstance a b = false :=
      ⟨fun a b hab => sameInstance_false.2 fun hk hb => sameInstance_false.1 hab hk.symm hb.symm⟩
    exact sameInstance_false.1
      (hp.forall (Assoc.mem_of_find hr) (Assoc.mem_of_find hq) fun e => hne (congrArg Prod.fst e))
  · intro ho
    refine (Assoc.pairwise_lt h).imp_of_mem fun {a b} ha hb hlt => sameInstance_false.2 ?_
    exact ho a.1 b.1 a.2 b.2 ((Assoc.mem_iff_find h).1 ha) ((Assoc.mem_iff_find h).1 hb) (Nat.ne_of_lt hlt)

theorem State.recordSound_iff (s : State) (n : Nat) (r : TableRecord) :
    s.recordSound n r = true ↔ RecordFits s.swapKeys s.fillingRecords n r := by
  have h : RecordFits s.swapKeys s.fillingRecords n r ↔ (r.state = .filling ↔ n ∈ s.fillingRecords)
      ∧ (r.locked = true → r.state = .sealed ∧ r.key ∈ s.swapKeys) ∧ (r.dropMark = true → r.state = .live)
      ∧ ∀ e ∈ r.contents, e.2.bytes.length = r.key.entryBytes :=
    ⟨fun ⟨h1, h2, h3, h4⟩ => ⟨h1, h2, h3, h4⟩, fun ⟨h1, h2, h3, h4⟩ => ⟨h1, h2, h3, h4⟩⟩
  rw [h, State.recordSound]
  simp only [Bool.and_eq_true, beq_iff_eq, Bool.or_eq_true, Bool.not_eq_true', List.all_eq_true, and_assoc,
    ← Bool.not_eq_true, ← imp_iff_not_or, List.contains_eq_mem, decide_eq_true_eq]
  rw [Bool.eq_iff_iff]
  simp

theorem State.directorySound_iff (s : State) : s.directorySound = true ↔
    DirSound s.tables.directory s.swapKeys s.fillingRecords
      ∧ OpSound s.tables.directory s.tables.swap s.tables.fill s.loader.op := by
  by_cases hwf : Assoc.wf s.tables.directory = true
  swap
  · refine iff_of_false (fun h => hwf ?_) fun h => hwf h.1.wf
    simp only [State.directorySound, Bool.and_eq_true] at h
    exact h.1.1.1.1.1.1.1
  have hrecords : (s.tables.directory.all fun e => s.recordSound e.1 e.2) = true ↔
      ∀ n r, Assoc.find s.tables.directory n = some r → RecordFits s.swapKeys s.fillingRecords n r := by
    simp only [List.all_eq_true, State.recordSound_iff]
    exact ⟨fun h n r hr => h (n, r) (Assoc.mem_of_find hr), fun h e he => h e.1 e.2 ((Assoc.mem_iff_find hwf).1 he)⟩
  have hlocks : (s.swapKeys.all fun key => s.tables.directory.any fun e => e.2.key == key && e.2.state == .sealed && e.2.locked) = true ↔
      ∀ key ∈ s.swapKeys, ∃ n r, Assoc.find s.tables.directory n = some r ∧ r.key = key ∧ r.state = .sealed ∧ r.locked = true := by
    simp only [List.all_eq_true, List.any_eq_true, Bool.and_eq_true, beq_iff_eq, and_assoc]
    refine forall₂_congr fun key _ => ⟨fun ⟨e, he, h⟩ => ⟨e.1, e.2, (Assoc.mem_iff_find hwf).1 he, h⟩, fun ⟨n, r, hr, h⟩ => ⟨(n, r), Assoc.mem_of_find hr, h⟩⟩
  have hfilled : (s.fillingRecords.all fun n => (Assoc.find s.tables.directory n).isSome) = true ↔
      ∀ n ∈ s.fillingRecords, ∃ r, Assoc.find s.tables.directory n = some r := by
    simp only [List.all_eq_true, Option.isSome_iff_exists]
  have hop : (match s.loader.op with
      | some (.store _ _ _ _ ns) => ns.all fun n => match Assoc.find s.tables.directory n with
        | some r => r.state == .live
        | none => false
      | some (.startup _) => s.tables.directory == [] && s.tables.swap == none && s.tables.fill == none
      | _ => true) = true ↔ OpSound s.tables.directory s.tables.swap s.tables.fill s.loader.op := by
    have hiff : OpSound s.tables.directory s.tables.swap s.tables.fill s.loader.op ↔
        (∀ l t p st ns, s.loader.op = some (.store l t p st ns) → ∀ n ∈ ns, ∃ r, Assoc.find s.tables.directory n = some r ∧ r.state = .live)
        ∧ ∀ p, s.loader.op = some (.startup p) → s.tables.directory = [] ∧ s.tables.swap = none ∧ s.tables.fill = none :=
      ⟨fun ⟨h1, h2⟩ => ⟨h1, h2⟩, fun ⟨h1, h2⟩ => ⟨h1, h2⟩⟩
    rw [hiff]
    rcases s.loader.op with _ | ⟨_ | ⟨l, t, p, st, ns⟩ | _⟩
    · simp
    · simp [and_assoc]
    · simp only [List.all_eq_true]
      constructor
      · intro h
        refine ⟨?_, fun _ h => by cases h⟩
        rintro _ _ _ _ _ ⟨⟩ n hn
        have hlive := h n hn
        split at hlive
        · rename_i r hr
          exact ⟨r, hr, by simpa using hlive⟩
        · cases hlive
      · rintro ⟨h, -⟩ n hn
        obtain ⟨r, hr, hlive⟩ := h _ _ _ _ _ rfl n hn
        rw [hr]
        simpa using hlive
    · simp
  have htwice : (!keyTwice s.swapKeys) = true ↔ s.swapKeys.Nodup := by
    rw [Bool.not_eq_true', keyTwice_iff]
  rw [State.directorySound]
  simp only [Bool.and_eq_true, noTwo_sameInstance_iff hwf, hrecords, hlocks, htwice, hfilled, noTwo_beq_iff]
  exact ⟨fun ⟨⟨⟨⟨⟨⟨⟨h1, h2⟩, h3⟩, h4⟩, h5⟩, h6⟩, h7⟩, h8⟩ => ⟨⟨h1, h2, h3, h4, h5, h6, h7⟩, hop.1 h8⟩,
    fun ⟨⟨h1, h2, h3, h4, h5, h6, h7⟩, h8⟩ => ⟨⟨⟨⟨⟨⟨⟨h1, h2⟩, h3⟩, h4⟩, h5⟩, h6⟩, h7⟩, hop.2 h8⟩⟩

end Sys2Proof.Machine
end

section
/-! SUPPORT. Changes of one record that keep the invariant of the directory (R53 to R65), and the entries that a table
holds (R51, R60). -/

namespace Sys2Proof.Machine

/-! ### One record put or removed -/

/-- `dir'` is `dir` with `r` as record `n`. -/
structure Puts (dir : Assoc TableRecord) (n : Nat) (r : TableRecord) (dir' : Assoc TableRecord) : Prop where
  wf : Assoc.wf dir' = true
  here : Assoc.find dir' n = some r
  other : ∀ j, j ≠ n → Assoc.find dir' j = Assoc.find dir j

theorem Puts.insert {dir : Assoc TableRecord} (h : Assoc.wf dir = true) (n : Nat) (r : TableRecord) :
    Puts dir n r (Assoc.insert dir n r) :=
  ⟨Assoc.wf_insert n r h, Assoc.find_insert_same dir n r, fun _ hj => Assoc.find_insert_other dir r hj⟩

theorem Puts.modify {dir : Assoc TableRecord} (h : Assoc.wf dir = true) {n : Nat} {r : TableRecord}
    (hr : Assoc.find dir n = some r) (f : TableRecord → TableRecord) : Puts dir n (f r) (Assoc.modify dir n f) :=
  ⟨Assoc.wf_modify n f h, by rw [Assoc.find_modify, if_pos rfl, hr]; rfl,
    fun _ hj => by rw [Assoc.find_modify, if_neg hj]⟩

/-- A record is fit whatever other records are being filled. -/
theorem RecordFits.of_filling {keys : List Key} {filling filling' : List Nat} {n : Nat} {r : TableRecord}
    (h : RecordFits keys filling n r) (hf : n ∈ filling' ↔ n ∈ filling) : RecordFits keys filling' n r :=
  ⟨h.filling.trans hf.symm, h.locked, h.marked, h.sized⟩

variable {dir dir' : Assoc TableRecord} {keys : List Key} {filling filling' : List Nat} {n : Nat} {r r' : TableRecord}

/-- A record's key has no other table in its bank. -/
theorem DirSound.alone (h : DirSound dir keys filling) (hr : Assoc.find dir n = some r) {m : Nat} {q : TableRecord} (hm : m ≠ n)
    (hq : Assoc.find dir m = some q) (hk : q.key = r.key) : q.bank ≠ r.bank := h.once m n q r hq hr hm hk

/-- A fit record put where its key has no other table in its bank keeps the directory sound; where it replaces a locked
record, it is locked too. -/
theorem DirSound.put (h : DirSound dir keys filling) (hp : Puts dir n r' dir') (hfit : RecordFits keys filling' n r')
    (halone : ∀ m q, m ≠ n → Assoc.find dir m = some q → q.key = r'.key → q.bank ≠ r'.bank)
    (hlock : ∀ r, Assoc.find dir n = some r → r.locked = true → r'.key = r.key ∧ r'.state = .sealed ∧ r'.locked = true)
    (hother : ∀ m, m ≠ n → (m ∈ filling' ↔ m ∈ filling)) (hnodup : filling'.Nodup) : DirSound dir' keys filling' where
  wf := hp.wf
  once := by
    intro i j a b ha hb hij hk
    by_cases hi : i = n
    · subst hi
      rw [hp.here] at ha
      rw [hp.other j (Ne.symm hij)] at hb
      obtain rfl := Option.some.inj ha
      exact (halone j b (Ne.symm hij) hb hk.symm).symm
    · rw [hp.other i hi] at ha
      by_cases hj : j = n
      · subst hj
        rw [hp.here] at hb
        obtain rfl := Option.some.inj hb
        exact halone i a hi ha hk
      · rw [hp.other j hj] at hb
        exact h.once i j a b ha hb hij hk
  fits := by
    intro i a ha
    by_cases hi : i = n
    · subst hi
      rw [hp.here] at ha
      exact Option.some.inj ha ▸ hfit
    · rw [hp.other i hi] at ha
      exact (h.fits i a ha).of_filling (hother i hi)
  locks := by
    intro key hkey
    obtain ⟨i, a, ha, hk, hs, hl⟩ := h.locks key hkey
    by_cases hi : i = n
    · subst hi
      obtain ⟨hk', hs', hl'⟩ := hlock a ha hl
      exact ⟨i, r', hp.here, hk'.trans hk, hs', hl'⟩
    · exact ⟨i, a, (hp.other i hi).trans ha, hk, hs, hl⟩
  keysOnce := h.keysOnce
  filled := by
    intro i hi
    by_cases hn : i = n
    · exact ⟨r', hn ▸ hp.here⟩
    · obtain ⟨a, ha⟩ := h.filled i ((hother i hn).1 hi)
      exact ⟨a, (hp.other i hn).trans ha⟩
  fillingOnce := hnodup

/-- A record rewritten: its key, state and locked mark stand. -/
theorem DirSound.rewrite (h : DirSound dir keys filling) (hr : Assoc.find dir n = some r) (hp : Puts dir n r' dir')
    (hk : r'.key = r.key) (hs : r'.state = r.state) (hl : r'.locked = r.locked) (hm : r'.dropMark = true → r.state = .live)
    (hsized : ∀ e ∈ r'.contents, e.2.bytes.length = r.key.entryBytes) : DirSound dir' keys filling := by
  obtain ⟨hfilling, hlocked, -, -⟩ := h.fits n r hr
  have hbank : r'.bank = r.bank := by rw [TableRecord.bank, TableRecord.bank, hs]
  refine h.put hp ⟨by rw [hs]; exact hfilling, by rw [hs, hl, hk]; exact hlocked, by rw [hs]; exact hm, by rw [hk]; exact hsized⟩
    (fun m q hne hq hkq => hbank ▸ h.alone hr hne hq (hkq.trans hk)) (fun a ha hla => ?_) (fun _ _ => Iff.rfl) h.fillingOnce
  obtain rfl := Option.some.inj (hr.symm.trans ha)
  exact ⟨hk, hs.trans (hlocked hla).1, hl.trans hla⟩

/-- A record that is not locked changes its staged state. -/
theorem DirSound.restate (h : DirSound dir keys filling) (hr : Assoc.find dir n = some r) (hp : Puts dir n r' dir')
    (hk : r'.key = r.key) (hs : r.state ≠ .live) (hs' : r'.state ≠ .live) (hl : r.locked = false) (hl' : r'.locked = false)
    (hm : r'.dropMark = r.dropMark) (hf : r'.state = .filling ↔ n ∈ filling')
    (hsized : ∀ e ∈ r'.contents, e.2.bytes.length = r.key.entryBytes) (hother : ∀ m, m ≠ n → (m ∈ filling' ↔ m ∈ filling))
    (hnodup : filling'.Nodup) : DirSound dir' keys filling' := by
  have hbank : r'.bank = r.bank := ((TableRecord.bank_staged r').2 hs').trans ((TableRecord.bank_staged r).2 hs).symm
  refine h.put hp ⟨hf, fun hx => absurd hx (by simp [hl']), fun hx => absurd ((h.fits n r hr).marked (hm ▸ hx)) hs, by rw [hk]; exact hsized⟩
    (fun m q hne hq hkq => hbank ▸ h.alone hr hne hq (hkq.trans hk)) (fun a ha hla => ?_) hother hnodup
  obtain rfl := Option.some.inj (hr.symm.trans ha)
  exact absurd hla (by simp [hl])

/-- A new table in a free record, of a key that has none in its bank. -/
theorem DirSound.create (h : DirSound dir keys filling) (hn : Assoc.find dir n = none) (hp : Puts dir n r' dir')
    (hnone : findTable dir r'.key r'.bank = none) (hl : r'.locked = false) (hm : r'.dropMark = false)
    (hf : r'.state = .filling ↔ n ∈ filling') (hsized : ∀ e ∈ r'.contents, e.2.bytes.length = r'.key.entryBytes)
    (hother : ∀ m, m ≠ n → (m ∈ filling' ↔ m ∈ filling)) (hnodup : filling'.Nodup) : DirSound dir' keys filling' :=
  h.put hp ⟨hf, fun hx => absurd hx (by simp [hl]), fun hx => absurd hx (by simp [hm]), hsized⟩
    (fun _ _ _ hq hk => findTable_none_find hnone hq hk) (fun a ha => absurd (hn.symm.trans ha) (by simp)) hother hnodup

/-- A record that is not locked removed. -/
theorem DirSound.remove (h : DirSound dir keys filling) (hl : ∀ r, Assoc.find dir n = some r → r.locked = false)
    (hn : n ∉ filling') (hother : ∀ m, m ≠ n → (m ∈ filling' ↔ m ∈ filling)) (hnodup : filling'.Nodup) :
    DirSound (Assoc.erase dir n) keys filling' := by
  have hsub : ∀ i a, Assoc.find (Assoc.erase dir n) i = some a → i ≠ n ∧ Assoc.find dir i = some a := by
    intro i a ha
    by_cases hi : i = n
    · rw [hi, Assoc.find_erase_same] at ha
      cases ha
    · exact ⟨hi, (Assoc.find_erase_other dir hi).symm.trans ha⟩
  refine ⟨Assoc.wf_erase n h.wf, fun i j a b ha hb => h.once i j a b (hsub i a ha).2 (hsub j b hb).2, fun i a ha => ?_,
    fun key hkey => ?_, h.keysOnce, fun i hi => ?_, hnodup⟩
  · obtain ⟨hi, ha⟩ := hsub i a ha
    exact (h.fits i a ha).of_filling (hother i hi)
  · obtain ⟨i, a, ha, hk, hs, hla⟩ := h.locks key hkey
    have hi : i ≠ n := fun e => absurd hla (by simp [hl a (e ▸ ha)])
    exact ⟨i, a, (Assoc.find_erase_other dir hi).trans ha, hk, hs, hla⟩
  · have hin : i ≠ n := fun e => hn (e ▸ hi)
    obtain ⟨a, ha⟩ := h.filled i ((hother i hin).1 hi)
    exact ⟨a, (Assoc.find_erase_other dir hin).trans ha⟩

/-! ### The loader's operation -/

variable {swap swap' : Option PendingSwap} {fill fill' : Option FillOp} {op op' : Option ImageOp}

/-- No start-up load and no STORE: nothing is asked. -/
theorem OpSound.idle (hs : ∀ l t p st ns, op ≠ some (.store l t p st ns)) (hu : ∀ p, op ≠ some (.startup p)) :
    OpSound dir swap fill op :=
  ⟨fun l t p st ns h => absurd h (hs l t p st ns), fun p h => absurd h (hu p)⟩

theorem OpSound.ended : OpSound dir swap fill none := OpSound.idle (fun _ _ _ _ _ h => by cases h) fun _ h => by cases h

theorem OpSound.load {l : Channel} {t : Byte} {loads : List (Nat × Nat)} : OpSound dir swap fill (some (.load l t loads)) :=
  OpSound.idle (fun _ _ _ _ _ h => by cases h) fun _ h => by cases h

/-- Outside the start-up load, a change that keeps every LIVE record LIVE. -/
theorem OpSound.of_live (h : OpSound dir swap fill op) (hu : ∀ p, op ≠ some (.startup p))
    (hl : ∀ n r, Assoc.find dir n = some r → r.state = .live → ∃ r', Assoc.find dir' n = some r' ∧ r'.state = .live) :
    OpSound dir' swap' fill' op :=
  ⟨fun l t p st ns hop m hm => by
    obtain ⟨r, hr, hs⟩ := h.stored l t p st ns hop m hm
    exact hl m r hr hs, fun p hp => absurd hp (hu p)⟩

/-- A record in the directory: the start-up load is over. -/
theorem OpSound.not_starting (h : OpSound dir swap fill op) (hr : Assoc.find dir n = some r) (p : StartupPhase) :
    op ≠ some (.startup p) := by
  intro hp
  obtain ⟨rfl, -, -⟩ := h.starts p hp
  cases hr

theorem OpSound.put (h : OpSound dir swap fill op) (hu : ∀ p, op ≠ some (.startup p)) (hp : Puts dir n r' dir')
    (hl : ∀ r, Assoc.find dir n = some r → r.state = .live → r'.state = .live) : OpSound dir' swap' fill' op := by
  refine h.of_live hu fun m q hq hs => ?_
  by_cases hm : m = n
  · subst hm
    exact ⟨r', hp.here, hl q hq hs⟩
  · exact ⟨q, (hp.other m hm).trans hq, hs⟩

/-- A staged record removed. -/
theorem OpSound.remove (h : OpSound dir swap fill op) (hr : Assoc.find dir n = some r) (hs : r.state ≠ .live) :
    OpSound (Assoc.erase dir n) swap' fill' op := by
  refine h.of_live (h.not_starting hr) fun m q hq hl => ?_
  have hm : m ≠ n := by
    rintro rfl
    obtain rfl := Option.some.inj (hr.symm.trans hq)
    exact hs hl
  exact ⟨q, (Assoc.find_erase_other dir hm).trans hq, hl⟩

/-! ### The entries of a table (R51, R60) -/

/-- Every entry that the table holds has the size of its kind. -/
def TableRecord.Sized (r : TableRecord) : Prop := ∀ e ∈ r.contents, e.2.bytes.length = r.key.entryBytes

theorem Key.entryOfBytes_length (key : Key) (i : Nat) (b : Bytes) : (key.entryOfBytes i b).1.bytes.length = key.entryBytes := by
  cases key <;> simp [Key.entryOfBytes, Entry.bytes, Key.entryBytes, channels]

theorem Key.defaultEntry_length (key : Key) (d : Option Dims) (i : Nat) :
    (key.defaultEntry d i).bytes.length = key.entryBytes := by
  cases key with
  | mesh k => cases d <;> simp [Key.defaultEntry, Entry.bytes, Key.entryBytes]
  | blend k m => simp [Key.defaultEntry, Entry.bytes, Key.entryBytes]
  | tone k =>
    have hvalue : ∀ v : Int, (Entry.value v).bytes.length = 2 := fun v => toLe_length 2 _
    rw [Key.defaultEntry]
    split
    · exact hvalue _
    · split <;> exact hvalue _
  | lossmap => simp [Key.defaultEntry, Entry.bytes, Key.entryBytes, channels]

/-- A field stored over an entry keeps the entry's kind. -/
theorem Entry.withField_length (old : Entry) (f : FieldName) (i : Nat) (b : Bytes) :
    (old.withField f i b).1.bytes.length = old.bytes.length := by
  cases old <;> cases f <;> simp [Entry.withField, Entry.bytes]

theorem TableRecord.Sized.find (h : r.Sized) (i : Nat) :
    ((Assoc.find r.contents i).getD (r.default i)).bytes.length = r.key.entryBytes := by
  cases hf : Assoc.find r.contents i with
  | none => exact r.key.defaultEntry_length r.dims i
  | some e => exact h (i, e) (Assoc.mem_of_find hf)

theorem TableRecord.Sized.write (h : r.Sized) (i : Nat) {e : Entry} (he : e.bytes.length = r.key.entryBytes) (whole : Bool) :
    (r.write i e whole).Sized := by
  unfold TableRecord.Sized TableRecord.write
  dsimp only
  split
  · exact fun x hx => h x (List.mem_filter.1 hx).1
  · intro x hx
    rcases Assoc.mem_insert hx with rfl | hx
    · exact he
    · exact h x hx

/-- One entry stored touches the entries and their parity alone, and leaves them sized. -/
theorem TableRecord.storeEntry_frame (r : TableRecord) (f : Option FieldName) (i : Nat) (b : Bytes) :
    { (r.storeEntry f i b).1 with contents := r.contents, bad := r.bad } = r
      ∧ (r.Sized → (r.storeEntry f i b).1.Sized) := by
  cases f with
  | none => exact ⟨rfl, fun h => h.write i (r.key.entryOfBytes_length i b) true⟩
  | some f => exact ⟨rfl, fun h => h.write i ((Entry.withField_length _ f i b).trans (h.find i)) _⟩

/-- A row of entries stored touches the entries and their parity alone, and leaves them sized. -/
theorem TableRecord.storeEntries_frame (f : Option FieldName) (size n i : Nat) (data : Bytes) (r : TableRecord) (c : Bool) :
    { (TableRecord.storeEntries f size n i data (r, c)).1 with contents := r.contents, bad := r.bad } = r
      ∧ (r.Sized → (TableRecord.storeEntries f size n i data (r, c)).1.Sized) := by
  induction n generalizing i data r c with
  | zero => exact ⟨rfl, id⟩
  | succ n ih =>
    obtain ⟨hframe, hsized⟩ := r.storeEntry_frame f i (data.take size)
    obtain ⟨ihf, ihs⟩ := ih (i + 1) (data.drop size) (r.storeEntry f i (data.take size)).1
      (c || (r.storeEntry f i (data.take size)).2)
    refine ⟨?_, fun h => ihs (hsized h)⟩
    exact (congrArg (fun t : TableRecord => { t with contents := r.contents, bad := r.bad }) ihf).trans hframe

end Sys2Proof.Machine
end

section
/-! SUPPORT. What the invariant of the directory rests on (R53, R65, R197, R200): the directory, the pending swap, the fill and
the loader's operation. Most operations leave these alone. -/

namespace Sys2Proof.Machine

/-- What the invariant of the directory reads. -/
def State.ledger (s : State) : Assoc TableRecord × Option PendingSwap × Option FillOp × Option ImageOp :=
  (s.tables.directory, s.tables.swap, s.tables.fill, s.loader.op)

theorem State.directorySound_of_ledger {s t : State} (ht : t.ledger = s.ledger) (h : s.directorySound = true) :
    t.directorySound = true := by
  have hdir : t.tables.directory = s.tables.directory := congrArg (·.1) ht
  have hswap : t.tables.swap = s.tables.swap := congrArg (·.2.1) ht
  have hfill : t.tables.fill = s.tables.fill := congrArg (·.2.2.1) ht
  have hop : t.loader.op = s.loader.op := congrArg (·.2.2.2) ht
  have hkeys : t.swapKeys = s.swapKeys := by rw [State.swapKeys, State.swapKeys, hswap]
  have hfilling : t.fillingRecords = s.fillingRecords := by rw [State.fillingRecords, State.fillingRecords, hfill, hop]
  rw [State.directorySound_iff] at h ⊢
  rw [hdir, hswap, hfill, hop, hkeys, hfilling]
  exact h

/-! ### Shared operations -/

@[simp] theorem State.raise_ledger (s : State) (c : Cond) : (s.raise c).ledger = s.ledger := by
  obtain ⟨ns, h⟩ := s.raise_spec c
  rw [h]
  rfl

@[simp] theorem State.raiseAll_ledger (s : State) (cs : List Cond) : (s.raiseAll cs).ledger = s.ledger := by
  obtain ⟨l, ns, h⟩ := s.raiseAll_spec cs
  rw [h]
  rfl

@[simp] theorem State.recordFaults_ledger (s : State) (fs : List FaultRecord) : (s.recordFaults fs).ledger = s.ledger := by
  obtain ⟨gs, o, l, ns, h⟩ := s.recordFaults_spec fs
  rw [h]
  rfl

@[simp] theorem State.recordFault_ledger (s : State) (f : FaultRecord) : (s.recordFault f).ledger = s.ledger :=
  s.recordFaults_ledger [f]

@[simp] theorem State.levelNotices_ledger (s before : State) : (s.levelNotices before).ledger = s.ledger := by
  obtain ⟨ns, h⟩ := s.levelNotices_spec before
  rw [h]
  rfl

@[simp] theorem State.setEnables_ledger (s : State) (new : BitVec 45) : (s.setEnables new).ledger = s.ledger := by
  obtain ⟨ns, h⟩ := s.setEnables_spec new
  rw [h]
  rfl

@[simp] theorem State.storeSetting_ledger (s : State) (id : SettingId) (k : Channel) (v : Nat) :
    (s.storeSetting id k v).ledger = s.ledger := by
  unfold State.storeSetting
  split
  · exact s.setEnables_ledger _
  · rfl

theorem State.movePort_ledger (s : State) (k : Channel) (m : OutputPort × Bool) : (s.movePort k m).ledger = s.ledger := by
  obtain ⟨w, l, b, ns, h⟩ := s.movePort_spec k m
  rw [h]
  rfl

theorem State.portEvent_ledger {s t : State} {k : Channel} (h : s.portEvent k t) : t.ledger = s.ledger := by
  rcases h with rfl | ⟨n, m, rfl, -⟩
  · rfl
  · exact State.movePort_ledger _ k m

theorem State.pixelWork_ledger {s t : State} {k : Channel} {walk : Walk} (h : s.pixelWork t k walk) : t.ledger = s.ledger := by
  obtain ⟨u, ⟨w, gs, o, l, ns, rfl, -, -⟩, rfl | ⟨p, rfl⟩ | ⟨how, rfl⟩⟩ := h <;> rfl

theorem State.warpPixel_ledger (s : State) (k : Channel) (walk : Walk) : (s.warpPixel k walk).ledger = s.ledger := by
  rcases s.warpPixel_cases k walk with he | ⟨-, hw⟩
  · rw [he]
  · exact State.pixelWork_ledger hw

theorem State.resumePixel_ledger (s : State) (k : Channel) : (s.resumePixel k).ledger = s.ledger := by
  rcases s.resumePixel_cases k with he | ⟨walk, p, -, -, hw⟩
  · rw [he]
  · exact State.pixelWork_ledger hw

theorem State.deadlineOf_ledger (s : State) (v : Nat) : (s.deadlineOf v).ledger = s.ledger := by
  obtain ⟨p, w, u, b, ns, c, r, m, n, h, -⟩ := s.deadlineOf_eq v
  rw [h]
  rfl

/-! ### The engine's commands that leave the table store alone -/

theorem State.identifyCommand_ledger (c : Cell) (s : State) : (s.identifyCommand c).state.ledger = s.ledger := by
  unfold State.identifyCommand
  split <;> rfl

theorem State.statusCommand_ledger (c : Cell) (s : State) : (s.statusCommand c).state.ledger = s.ledger := by
  unfold State.statusCommand
  split <;> rfl

theorem State.setCommand_ledger (c : Cell) (s : State) : (s.setCommand c).state.ledger = s.ledger := by
  unfold State.setCommand
  split
  · rfl
  · exact s.storeSetting_ledger _ _ _

theorem State.getCommand_ledger (c : Cell) (s : State) : (s.getCommand c).state.ledger = s.ledger := by
  unfold State.getCommand
  split <;> rfl

theorem State.clearCommand_ledger (c : Cell) (s : State) : (s.clearCommand c).state.ledger = s.ledger := by
  unfold State.clearCommand
  split <;> rfl

theorem State.faultReadCommand_ledger (c : Cell) (s : State) : (s.faultReadCommand c).state.ledger = s.ledger := by
  unfold State.faultReadCommand
  split
  · rfl
  · split <;> rfl

theorem State.restartCommand_ledger (c : Cell) (s : State) : (s.restartCommand c).state.ledger = s.ledger := by
  rcases s.restartCommand_cases c with he | ⟨k, m, he, -⟩
  · rw [he]
  · rw [he, State.movePort_ledger]

theorem State.resetFullCommand_ledger (c : Cell) (s : State) : (s.resetFullCommand c).state.ledger = s.ledger := by
  unfold State.resetFullCommand
  split <;> rfl

theorem State.readCommand_ledger (c : Cell) (s : State) : (s.readCommand c).state.ledger = s.ledger := by
  unfold State.readCommand
  dsimp only
  repeat' split
  all_goals simp

theorem State.listCommand_ledger (c : Cell) (s : State) : (s.listCommand c).state.ledger = s.ledger := by
  unfold State.listCommand
  dsimp only
  repeat' split
  all_goals rfl

/-! ### Links, records and tokens -/

theorem State.take_ledger (s : State) (k : Channel) (r : Received) : (s.take k r).ledger = s.ledger :=
  State.raiseAll_ledger _ _

theorem State.loseLink_ledger (s : State) (k : Channel) : (s.loseLink k).ledger = s.ledger := by
  unfold State.loseLink
  rw [State.levelNotices_ledger]
  exact s.take_ledger k _

theorem State.takeCell_ledger (s : State) (k : Channel) (record : Bytes) : (s.takeCell k record).ledger = s.ledger := by
  unfold State.takeCell
  split
  · exact s.raise_ledger _
  · split
    · rfl
    · exact s.raise_ledger _

theorem State.beginSending_ledger (s : State) (k : Channel) : (s.beginSending k).ledger = s.ledger := by
  unfold State.beginSending
  dsimp only
  repeat' split
  all_goals rfl

theorem State.closeMasterRound_ledger (s : State) (r : Round) (ready : Bool) (v : Vec32) :
    (s.closeMasterRound r ready v).ledger = s.ledger := by
  obtain ⟨x, h, -⟩ := s.closeMasterRound_spec r ready v
  rw [h]
  rfl

theorem State.musterReturned_ledger (s : State) (t : MusterToken) : (s.musterReturned t).ledger = s.ledger := by
  unfold State.musterReturned
  repeat' split
  · rfl
  · rfl
  · exact State.closeMasterRound_ledger _ _ _ _
  · rw [State.closeMasterRound_ledger, State.recordFault_ledger]

theorem State.showReturned_ledger (s : State) (t : ShowToken) : (s.showReturned t).ledger = s.ledger := by
  unfold State.showReturned
  dsimp only
  split <;> rfl

theorem State.showHandled_ledger (s : State) (t : ShowToken) (token : Bytes) : (s.showHandled t token).ledger = s.ledger := by
  unfold State.showHandled
  dsimp only
  split <;> rfl

theorem State.enqueueCompletion_ledger (s : State) (c : Completion) : (s.enqueueCompletion c).1.ledger = s.ledger := by
  unfold State.enqueueCompletion
  repeat' split
  all_goals rfl

/-! ### The commands that leave the ledger alone -/

/-- Serving a cell keeps what the command keeps, where the cell queue and the reply queues have no part in it. -/
theorem State.serve_leaves {P : State → Prop} (hlanes : ∀ s l, P s → P { s with lanes := l })
    (hcells : ∀ s cs, P s → P { s with cells := cs }) {s : State} {mine : Cell → Bool} {command : Cell → State → Answer}
    (hc : ∀ c t, P t → P (command c t).state) (h : P s) : Leaves (.next (s.serve mine command)) P := by
  refine leaves_next.2 ?_
  rcases s.serve_cases mine command with he | ⟨c, rest, -, -, -, -, he⟩
  · rwa [he]
  · obtain ⟨l, hl⟩ := State.reply_spec (command c { s with cells := rest }).state c
      (.reply c.tag (command c { s with cells := rest }).status (command c { s with cells := rest }).payload
        (command c { s with cells := rest }).resets)
    rw [he, hl]
    exact hlanes _ l (hc c _ (hcells s rest h))

/-- Serving a cell keeps the directory sound where the command does. -/
theorem State.serve_directorySound {s : State} {mine : Cell → Bool} {command : Cell → State → Answer}
    (hc : ∀ c t, t.directorySound = true → (command c t).state.directorySound = true) (h : s.directorySound = true) :
    Leaves (.next (s.serve mine command)) (·.directorySound = true) :=
  State.serve_leaves (P := fun s => s.directorySound = true) (fun _ _ h => State.directorySound_of_ledger rfl h)
    (fun _ _ h => State.directorySound_of_ledger rfl h) hc h

/-- A command of the engine that leaves the ledger alone. -/
theorem State.serve_ledger {s : State} {mine : Cell → Bool} {command : Cell → State → Answer}
    (hc : ∀ c t, (command c t).state.ledger = t.ledger) (h : s.directorySound = true) :
    Leaves (.next (s.serve mine command)) (·.directorySound = true) :=
  State.serve_directorySound (fun c t => State.directorySound_of_ledger (hc c t)) h

theorem execInputCarrierDetected_ledger (k : Channel) (s : State) :
    Leaves (execInputCarrierDetected k s) (·.ledger = s.ledger) := by
  unfold execInputCarrierDetected
  split <;> exact leaves_next.2 rfl

theorem execInputTrainingDone_ledger (k : Channel) (s : State) : Leaves (execInputTrainingDone k s) (·.ledger = s.ledger) := by
  unfold execInputTrainingDone
  split <;> exact leaves_next.2 rfl

theorem execInputLinkLost_ledger (k : Channel) (s : State) : Leaves (execInputLinkLost k s) (·.ledger = s.ledger) := by
  unfold execInputLinkLost
  split
  · exact leaves_next.2 rfl
  · exact leaves_next.2 (s.loseLink_ledger k)
  · exact leaves_next.2 (s.loseLink_ledger k)

theorem execFrameOpen_ledger (k : Channel) (record : Bytes) (s : State) : Leaves (execFrameOpen k record s) (·.ledger = s.ledger) := by
  unfold execFrameOpen
  split
  · exact leaves_next.2 (s.take_ledger k _)
  · exact leaves_next.2 rfl

theorem execLine_ledger (k : Channel) (record : Bytes) (s : State) : Leaves (execLine k record s) (·.ledger = s.ledger) := by
  unfold execLine
  split <;> exact leaves_next.2 rfl

theorem execFrameClose_ledger (k : Channel) (record : Bytes) (s : State) :
    Leaves (execFrameClose k record s) (·.ledger = s.ledger) := by
  unfold execFrameClose
  split
  · exact leaves_next.2 (s.take_ledger k _)
  · exact leaves_next.2 rfl

theorem execCell_ledger (k : Channel) (record : Bytes) (s : State) : Leaves (execCell k record s) (·.ledger = s.ledger) := by
  unfold execCell
  split
  · exact leaves_next.2 (s.takeCell_ledger k record)
  · exact leaves_next.2 rfl

theorem execCompletionEnqueue_ledger (op : OpRecord) (s : State) : Leaves (execCompletionEnqueue op s) (·.ledger = s.ledger) := by
  unfold execCompletionEnqueue
  split
  · split
    · exact leaves_next.2 rfl
    · rename_i c _
      show Leaves (.next (if (s.enqueueCompletion c).2 = true then _ else (s.enqueueCompletion c).1)) _
      rw [leaves_next, ← s.enqueueCompletion_ledger c]
      split <;> rfl
  · split
    · exact leaves_next.2 rfl
    · rename_i c _
      show Leaves (.next (if (s.enqueueCompletion c).2 = true then _ else (s.enqueueCompletion c).1)) _
      rw [leaves_next, ← s.enqueueCompletion_ledger c]
      split <;> rfl

theorem execReverseLaneSend_ledger (k : Channel) (s : State) : Leaves (execReverseLaneSend k s) (·.ledger = s.ledger) := by
  unfold execReverseLaneSend
  split
  · exact leaves_next.2 (s.beginSending_ledger k)
  · exact leaves_next.2 rfl

theorem execReverseSendEnd_ledger (k : Channel) (s : State) : Leaves (execReverseSendEnd k s) (·.ledger = s.ledger) := by
  unfold execReverseSendEnd
  dsimp only
  split <;> exact leaves_next.2 rfl

theorem execLineDeadline_ledger (s : State) : Leaves (execLineDeadline s) (·.ledger = s.ledger) := by
  unfold execLineDeadline
  split
  · exact leaves_next.2 (s.deadlineOf_ledger _)
  · exact leaves_next.2 rfl

theorem execMusterHandle_ledger (token : Bytes) (s : State) : Leaves (execMusterHandle token s) (·.ledger = s.ledger) := by
  unfold execMusterHandle
  split <;> exact leaves_next.2 rfl

theorem execMusterReturn_ledger (token : Bytes) (s : State) : Leaves (execMusterReturn token s) (·.ledger = s.ledger) := by
  unfold execMusterReturn
  split
  · exact leaves_next.2 (s.musterReturned_ledger _)
  · exact leaves_next.2 rfl

theorem execShowHandle_ledger (token : Bytes) (s : State) : Leaves (execShowHandle token s) (·.ledger = s.ledger) := by
  unfold execShowHandle
  split
  · exact leaves_next.2 (s.showHandled_ledger _ token)
  · exact leaves_next.2 rfl

theorem execShowReturn_ledger (token : Bytes) (s : State) : Leaves (execShowReturn token s) (·.ledger = s.ledger) := by
  unfold execShowReturn
  split
  · exact leaves_next.2 (s.showReturned_ledger _)
  · exact leaves_next.2 rfl

theorem execWarpLineBegin_ledger (k : Channel) (s : State) : Leaves (execWarpLineBegin k s) (·.ledger = s.ledger) := by
  unfold execWarpLineBegin
  dsimp only
  repeat' split
  all_goals exact leaves_next.2 rfl

/-! ### The commands on pixels -/

theorem State.upset_directorySound {s : State} (u : Upset) (h : s.directorySound = true) : (s.upset u).directorySound = true := by
  cases u with
  | tileTag k e => exact State.directorySound_of_ledger rfl h
  | tileData k e => exact State.directorySound_of_ledger rfl h
  | pool n e =>
    obtain ⟨hd, ho⟩ := s.directorySound_iff.1 h
    rw [State.directorySound_iff]
    show DirSound (Assoc.modify s.tables.directory n fun r => r.spoil e) s.swapKeys s.fillingRecords ∧ OpSound (Assoc.modify s.tables.directory n fun r => r.spoil e) s.tables.swap s.tables.fill s.loader.op
    cases hr : Assoc.find s.tables.directory n with
    | none =>
      have hsame : Assoc.modify s.tables.directory n (fun r => r.spoil e) = s.tables.directory := by
        refine (List.map_congr_left fun x hx => ?_).trans (List.map_id _)
        have hne : x.1 ≠ n := fun hxn => by
          have := (Assoc.mem_iff_find hd.wf).1 (show (x.1, x.2) ∈ _ from hx)
          rw [hxn, hr] at this
          cases this
        rw [if_neg hne]
        rfl
      rw [hsame]
      exact ⟨hd, ho⟩
    | some r =>
      have hp := Puts.modify hd.wf hr (fun r => r.spoil e)
      have hspoil : ∃ bad, r.spoil e = { r with bad := bad } := by
        unfold TableRecord.spoil
        split
        · exact ⟨r.bad, rfl⟩
        · exact ⟨_, rfl⟩
      obtain ⟨bad, hbad⟩ := hspoil
      rw [hbad] at hp
      have hfits := hd.fits n r hr
      refine ⟨hd.rewrite hr hp rfl rfl rfl hfits.marked hfits.sized, ho.put (ho.not_starting hr) hp fun q hq hs => ?_⟩
      obtain rfl := Option.some.inj (hr.symm.trans hq)
      exact hs

theorem State.upsets_directorySound {s : State} (us : List Upset) (h : s.directorySound = true) :
    (s.upsets us).directorySound = true := by
  induction us generalizing s with
  | nil => exact h
  | cons u rest ih => exact ih (State.upset_directorySound u h)

theorem execWarpPixel_directorySound (k : Channel) (us : List Upset) {s : State} (h : s.directorySound = true) :
    Leaves (execWarpPixel k us s) (·.directorySound = true) := by
  unfold execWarpPixel
  dsimp only
  split
  · exact leaves_next.2 (State.upsets_directorySound us h)
  · exact leaves_next.2 (State.directorySound_of_ledger (State.warpPixel_ledger _ k _) (State.upsets_directorySound us h))

theorem execTileFillComplete_directorySound (k : Channel) (read : Nat) (us : List Upset) {s : State} (h : s.directorySound = true) :
    Leaves (execTileFillComplete k read us s) (·.directorySound = true) := by
  unfold execTileFillComplete
  dsimp only
  split
  · exact leaves_next.2 (State.upsets_directorySound us h)
  · exact leaves_next.2 (State.directorySound_of_ledger (State.resumePixel_ledger _ k)
      (State.upsets_directorySound us (State.directorySound_of_ledger rfl h)))

theorem execTileFillTimeout_directorySound (k : Channel) (read : Nat) (us : List Upset) {s : State} (h : s.directorySound = true) :
    Leaves (execTileFillTimeout k read us s) (·.directorySound = true) := by
  unfold execTileFillTimeout
  dsimp only
  split
  · refine leaves_next.2 (State.directorySound_of_ledger (State.resumePixel_ledger _ k) ?_)
    exact State.directorySound_of_ledger (State.recordFault_ledger _ _) (State.directorySound_of_ledger rfl (State.upsets_directorySound us h))
  · exact leaves_next.2 (State.upsets_directorySound us h)
  · exact leaves_next.2 (State.upsets_directorySound us h)

theorem execLightPixelWrite_directorySound (k : Channel) (us : List Upset) {s : State} (h : s.directorySound = true) :
    Leaves (execLightPixelWrite k us s) (·.directorySound = true) := by
  unfold execLightPixelWrite
  dsimp only
  split
  · exact leaves_next.2 (State.directorySound_of_ledger (State.recordFaults_ledger _ _)
      (State.directorySound_of_ledger rfl (State.upsets_directorySound us h)))
  · exact leaves_next.2 (State.upsets_directorySound us h)

end Sys2Proof.Machine
end

section
/-! SUPPORT. The table commands, the default fill and the image loader keep the directory sound (R55 to R65, R195 to R200). -/

namespace Sys2Proof.Machine

/-! ### The invariant over the parts of the ledger -/

/-- The keys of a swap; none where there is none. -/
def keysOf (swap : Option PendingSwap) : List Key := (swap.map (·.keys)).getD []

/-- The record that a fill is filling. -/
def filledBy (fill : Option FillOp) : List Nat := (fill.map (·.record)).toList

/-- The records that a LOAD is filling. -/
def loadedBy : Option ImageOp → List Nat
  | some (.load _ _ loads) => loads.map (·.1)
  | _ => []

theorem State.swapKeys_eq (s : State) : s.swapKeys = keysOf s.tables.swap := by
  unfold State.swapKeys keysOf
  cases s.tables.swap <;> rfl

theorem State.fillingRecords_eq (s : State) : s.fillingRecords = filledBy s.tables.fill ++ loadedBy s.loader.op := by
  unfold State.fillingRecords filledBy loadedBy
  congr 1
  cases s.tables.fill <;> rfl

theorem State.directorySound_iff_parts (s : State) : s.directorySound = true ↔
    DirSound s.tables.directory (keysOf s.tables.swap) (filledBy s.tables.fill ++ loadedBy s.loader.op)
      ∧ OpSound s.tables.directory s.tables.swap s.tables.fill s.loader.op := by
  rw [State.directorySound_iff, State.swapKeys_eq, State.fillingRecords_eq]

theorem loadedBy_idle {op : Option ImageOp} (h : ∀ l t loads, op ≠ some (.load l t loads)) : loadedBy op = [] := by
  unfold loadedBy
  split
  · rename_i l t loads
    exact absurd rfl (h l t loads)
  · rfl

theorem ImageLoader.loading_false {l : ImageLoader} (h : l.loading = false) (k : Channel) (t : Byte) (loads : List (Nat × Nat)) :
    l.op ≠ some (.load k t loads) := by
  intro hop
  simp [ImageLoader.loading, hop] at h

theorem ImageLoader.starting_false {l : ImageLoader} (h : l.starting = false) (p : StartupPhase) : l.op ≠ some (.startup p) := by
  intro hop
  simp [ImageLoader.starting, hop] at h

theorem ImageLoader.storing_false {l : ImageLoader} (h : l.storing = false) (k : Channel) (t : Byte) (p : StorePhase)
    (st : Settings) (ns : List Nat) : l.op ≠ some (.store k t p st ns) := by
  intro hop
  simp [ImageLoader.storing, hop] at h

/-- The checks of R55 passed: the keys are of the arrangement and no operation of the loader stands in the way. -/
theorem State.tableChecks_none {s : State} {keys : List Key} {excludes : Bool} (h : s.tableChecks keys excludes = none) :
    (∀ key ∈ keys, s.keyAbsent key = false) ∧ s.loader.starting = false ∧ (excludes = true → s.loader.loading = false) := by
  unfold State.tableChecks at h
  split at h
  · cases h
  rename_i hkeys
  split at h
  · cases h
  rename_i hstart
  split at h
  · cases h
  rename_i hload
  refine ⟨fun key hk => ?_, by simpa using hstart, fun he => by simpa [he] using hload⟩
  simp only [List.any_eq_true, not_exists, not_and, Bool.not_eq_true] at hkeys
  exact hkeys key hk

theorem findTable_eq_none_iff {dir : Assoc TableRecord} (h : Assoc.wf dir = true) {key : Key} {bank : Bank} :
    findTable dir key bank = none ↔ ∀ n r, Assoc.find dir n = some r → r.key = key → r.bank ≠ bank := by
  refine ⟨fun hf n r hr hk => findTable_none_find hf hr hk, fun hall => ?_⟩
  cases hf : findTable dir key bank with
  | none => rfl
  | some e =>
    obtain ⟨hr, hk, hb⟩ := findTable_find h hf
    exact absurd hb (hall e.1 e.2 hr hk)

/-! ### TABLE OPEN and the default fill (R56, R57) -/

theorem newTable_sized (key : Key) (dims : Option Dims) (st : TableState) (p : Nat) :
    ∀ e ∈ (newTable key dims st p).contents, e.2.bytes.length = key.entryBytes := fun _ he => by cases he

/-- A record being filled stands in the directory, so a free one is not being filled. -/
theorem DirSound.free_not_filling {dir : Assoc TableRecord} {keys : List Key} {filling : List Nat} (h : DirSound dir keys filling)
    {n : Nat} (hn : Assoc.find dir n = none) : n ∉ filling := fun hm => by
  obtain ⟨r, hr⟩ := h.filled n hm
  cases hn.symm.trans hr

theorem State.openCommand_directorySound (c : Cell) {s : State} (h : s.directorySound = true) :
    (s.openCommand c).state.directorySound = true := by
  unfold State.openCommand
  dsimp only
  split
  · exact h
  split
  · exact h
  rename_i key _
  split
  · exact h
  rename_i hchecks
  split
  · exact h
  rename_i hnew
  split
  · exact h
  split
  · exact h
  rename_i hfill
  split
  · exact h
  rename_i n dir hcreate
  obtain ⟨-, hstart, hload⟩ := State.tableChecks_none hchecks
  obtain ⟨p, ⟨-, hn, -⟩, -, rfl⟩ := createTable_eq_some.1 hcreate
  obtain ⟨hd, ho⟩ := s.directorySound_iff_parts.1 h
  have hnone : s.tables.fill = none := by simpa using hfill
  have hidle : loadedBy s.loader.op = [] := loadedBy_idle (ImageLoader.loading_false (hload rfl))
  rw [hidle, hnone] at hd
  refine (State.directorySound_iff_parts _).2 ⟨?_, ho.put (ImageLoader.starting_false hstart) (Puts.insert hd.wf n _) fun r hr => ?_⟩
  · show DirSound _ _ ([n] ++ loadedBy s.loader.op)
    rw [hidle]
    refine hd.create hn (Puts.insert hd.wf n _) (Option.not_isSome_iff_eq_none.1 hnew) rfl rfl (by simp [newTable]) (newTable_sized _ _ _ _)
      (fun m hm => by simp [hm, filledBy]) (by simp)
  · cases hn.symm.trans hr

theorem TableRecord.fillPage_sized {r : TableRecord} (h : r.Sized) (p : Nat) : (r.fillPage p).Sized :=
  fun e he => h e (List.mem_filter.1 he).1

theorem State.fillPageDone_directorySound {s : State} {f : FillOp} {r : TableRecord} (hf : s.tables.fill = some f)
    (hr : Assoc.find s.tables.directory f.record = some r) (h : s.directorySound = true) :
    (s.fillPageDone f r).directorySound = true := by
  obtain ⟨hd, ho⟩ := s.directorySound_iff_parts.1 h
  rw [hf] at hd
  have hfits := hd.fits f.record r hr
  have hfilling : r.state = .filling := hfits.filling.2 (by simp [filledBy])
  have hunlocked : r.locked = false := by
    cases hl : r.locked with
    | false => rfl
    | true => cases hfilling.symm.trans (hfits.locked hl).1
  unfold State.fillPageDone
  dsimp only
  split
  · have hp := Puts.insert hd.wf f.record (r.fillPage f.nextPage)
    refine (State.directorySound_iff_parts _).2 ⟨hd.rewrite hr hp rfl rfl rfl hfits.marked (TableRecord.fillPage_sized hfits.sized _), ?_⟩
    refine ho.put (ho.not_starting hr) hp fun q hq hs => ?_
    obtain rfl := Option.some.inj (hr.symm.trans hq)
    exact hs
  · have hp := Puts.insert hd.wf f.record { r.fillPage f.nextPage with state := .open }
    have hnodup := hd.fillingOnce
    simp only [filledBy, Option.map_some, Option.toList_some, List.singleton_append, List.nodup_cons] at hnodup
    refine (State.directorySound_iff_parts _).2 ⟨?_, ?_⟩
    · refine hd.restate (filling' := [] ++ loadedBy s.loader.op) hr hp rfl (by simp [hfilling]) (by simp) hunlocked hunlocked rfl ?_
        (TableRecord.fillPage_sized hfits.sized _) (fun m hm => by simp [filledBy, hm]) (by simpa using hnodup.2)
      simpa using hnodup.1
    · refine ho.put (ho.not_starting hr) hp fun q hq hs => ?_
      obtain rfl := Option.some.inj (hr.symm.trans hq)
      cases hfilling.symm.trans hs

theorem execDefaultFillPageDone_directorySound {s : State} (h : s.directorySound = true) :
    Leaves (execDefaultFillPageDone s) (·.directorySound = true) := by
  unfold execDefaultFillPageDone
  repeat' split
  · exact leaves_next.2 h
  · exact leaves_next.2 h
  · rename_i f hf _ r hr
    exact leaves_next.2 (State.fillPageDone_directorySound hf hr h)

/-! ### TABLE WRITE, SEAL and DROP (R59 to R64) -/

/-- A command that puts a record in the place of a staged one that is not locked. -/
theorem State.setDirectory_restated {s : State} {n : Nat} {r r' : TableRecord} (h : s.directorySound = true)
    (hr : Assoc.find s.tables.directory n = some r) (hl : r.locked = false) (hopen : r.state = .open) (hk : r'.key = r.key)
    (hs : r'.state ≠ .live) (hs' : r'.state ≠ .filling) (hl' : r'.locked = r.locked) (hm : r'.dropMark = r.dropMark)
    (hsized : r.Sized → r'.Sized) : (s.setDirectory (Assoc.insert s.tables.directory n r')).directorySound = true := by
  obtain ⟨hd, ho⟩ := s.directorySound_iff_parts.1 h
  have hp := Puts.insert hd.wf n r'
  have hfits := hd.fits n r hr
  refine (State.directorySound_iff_parts _).2 ⟨?_, ?_⟩
  · refine hd.restate hr hp hk (by simp [hopen]) hs hl (hl'.trans hl) hm ?_ (hk ▸ hsized hfits.sized) (fun _ _ => Iff.rfl) hd.fillingOnce
    exact iff_of_false hs' fun hn => by cases hopen.symm.trans (hfits.filling.2 hn)
  · refine ho.put (ho.not_starting hr) hp fun q hq hlive => ?_
    obtain rfl := Option.some.inj (hr.symm.trans hq)
    cases hopen.symm.trans hlive

theorem State.directory_wf {s : State} (h : s.directorySound = true) : Assoc.wf s.tables.directory = true :=
  (s.directorySound_iff.1 h).1.wf

theorem State.writeCommand_directorySound (c : Cell) {s : State} (h : s.directorySound = true) :
    (s.writeCommand c).state.directorySound = true := by
  unfold State.writeCommand
  dsimp only
  split
  · exact h
  split
  swap
  · exact h
  split
  · exact h
  split
  · exact h
  rename_i n r hfind
  split
  · exact h
  rename_i hlock
  split
  · exact h
  split
  · exact h
  rename_i hopen
  split
  · exact h
  rename_i p _
  split
  · exact h
  obtain ⟨hr, -, -⟩ := findTable_find (State.directory_wf h) hfind
  obtain ⟨hframe, hsized⟩ := TableRecord.storeEntries_frame p.field (p.entrySize _) p.count p.start (c.payload.drop 11) r false
  have hopen' : r.state = .open := by simpa using hopen
  have hstate := congrArg TableRecord.state hframe
  exact State.setDirectory_restated h hr (by simpa using hlock) hopen' (congrArg TableRecord.key hframe :)
    (fun hs => by cases hopen'.symm.trans (hstate.symm.trans hs)) (fun hs => by cases hopen'.symm.trans (hstate.symm.trans hs))
    (congrArg TableRecord.locked hframe :) (congrArg TableRecord.dropMark hframe :) hsized

theorem State.sealCommand_directorySound (c : Cell) {s : State} (h : s.directorySound = true) :
    (s.sealCommand c).state.directorySound = true := by
  unfold State.sealCommand
  repeat' split
  all_goals try exact h
  rename_i n r hfind hlock hopen
  obtain ⟨hr, -, -⟩ := findTable_find (State.directory_wf h) hfind
  exact State.setDirectory_restated h hr (by simpa using hlock) (by simpa using hopen) rfl (by simp) (by simp) rfl rfl id

theorem State.dropStaged_directorySound (key : Key) {s : State} (h : s.directorySound = true) :
    (s.dropStaged key).state.directorySound = true := by
  unfold State.dropStaged
  repeat' split
  all_goals try exact h
  rename_i n r hfind hlock hfilling
  obtain ⟨hr, -, hbank⟩ := findTable_find (State.directory_wf h) hfind
  obtain ⟨hd, ho⟩ := s.directorySound_iff_parts.1 h
  refine (State.directorySound_iff_parts _).2 ⟨hd.remove (fun q hq => ?_) (fun hn => ?_) (fun _ _ => Iff.rfl) hd.fillingOnce,
    ho.remove hr ((TableRecord.bank_staged r).1 hbank)⟩
  · obtain rfl := Option.some.inj (hr.symm.trans hq)
    simpa using hlock
  · exact hfilling ((hd.fits n r hr).filling.2 hn)

theorem State.dropLive_directorySound (key : Key) {s : State} (h : s.directorySound = true) :
    (s.dropLive key).state.directorySound = true := by
  unfold State.dropLive
  repeat' split
  all_goals try exact h
  rename_i n r hfind _
  obtain ⟨hr, -, hbank⟩ := findTable_find (State.directory_wf h) hfind
  obtain ⟨hd, ho⟩ := s.directorySound_iff_parts.1 h
  have hlive : r.state = .live := (TableRecord.bank_live r).1 hbank
  have hp := Puts.insert hd.wf n { r with dropMark := true }
  exact (State.directorySound_iff_parts _).2 ⟨hd.rewrite hr hp rfl rfl rfl (fun _ => hlive) (hd.fits n r hr).sized,
    ho.put (ho.not_starting hr) hp fun _ _ _ => hlive⟩

theorem State.dropCommand_directorySound (c : Cell) {s : State} (h : s.directorySound = true) :
    (s.dropCommand c).state.directorySound = true := by
  unfold State.dropCommand
  repeat' split
  · exact h
  · exact h
  · exact State.dropStaged_directorySound _ h
  · exact State.dropLive_directorySound _ h
  · exact h

/-! ### TABLE SWAP (R65) -/

/-- The keys of the SEALED instances: each key has one staged table. -/
theorem DirSound.sealedKeys_nodup {dir : Assoc TableRecord} {keys : List Key} {filling : List Nat} (h : DirSound dir keys filling) :
    (sealedKeys dir).Nodup := by
  refine List.pairwise_map.2 (((Assoc.pairwise_lt h.wf).filter _).imp_of_mem fun {a b} ha hb hlt hk => ?_)
  simp only [List.mem_filter, beq_iff_eq] at ha hb
  refine h.once a.1 b.1 a.2 b.2 ((Assoc.mem_iff_find h.wf).1 ha.1) ((Assoc.mem_iff_find h.wf).1 hb.1) (Nat.ne_of_lt hlt) hk ?_
  rw [TableRecord.bank, TableRecord.bank, ha.2, hb.2]

/-- With no swap pending, SEALED keys named once each are locked. -/
theorem DirSound.lockKeys {dir : Assoc TableRecord} {filling : List Nat} (h : DirSound dir [] filling) {keys : List Key}
    (hnodup : keys.Nodup) (hsealed : ∀ key ∈ keys, sealedKey dir key = true) : DirSound (lockKeys dir keys) keys filling := by
  have hfrom : ∀ n r', Assoc.find (Machine.lockKeys dir keys) n = some r' → ∃ r, Assoc.find dir n = some r
      ∧ r' = if r.state = .sealed ∧ r.key ∈ keys then { r with locked := true } else r := by
    intro n r' hr'
    rw [find_lockKeys] at hr'
    obtain ⟨r, hr, hx⟩ := Option.map_eq_some_iff.1 hr'
    exact ⟨r, hr, hx.symm⟩
  have hsame : ∀ r : TableRecord, let r' := if r.state = .sealed ∧ r.key ∈ keys then { r with locked := true } else r
      r'.key = r.key ∧ r'.state = r.state ∧ r'.dropMark = r.dropMark ∧ r'.contents = r.contents := fun r => by
    dsimp only
    split <;> exact ⟨rfl, rfl, rfl, rfl⟩
  refine ⟨?_, fun n m r' q' hr' hq' hne hk hb => ?_, fun n r' hr' => ?_, fun key hkey => ?_, hnodup, fun n hn => ?_, h.fillingOnce⟩
  · exact Assoc.risingFrom_map _ (fun e => by split <;> rfl) h.wf
  · obtain ⟨r, hr, rfl⟩ := hfrom n r' hr'
    obtain ⟨q, hq, rfl⟩ := hfrom m q' hq'
    obtain ⟨hrk, hrs, -, -⟩ := hsame r
    obtain ⟨hqk, hqs, -, -⟩ := hsame q
    rw [TableRecord.bank, TableRecord.bank, hrs, hqs] at hb
    exact h.once n m r q hr hq hne (hrk.symm.trans (hk.trans hqk)) hb
  · obtain ⟨r, hr, rfl⟩ := hfrom n r' hr'
    obtain ⟨hrk, hrs, hrm, hrc⟩ := hsame r
    obtain ⟨hfilling, hlocked, hmarked, hsized⟩ := h.fits n r hr
    refine ⟨by rw [hrs]; exact hfilling, fun hl => ?_, by rw [hrs, hrm]; exact hmarked, by rw [hrc, hrk]; exact hsized⟩
    split at hl
    · rename_i hc
      rw [if_pos hc]
      exact hc
    · exact absurd (hlocked hl).2 (List.not_mem_nil)
  · obtain ⟨e, he, hk, hs⟩ := sealedKey_iff.1 (hsealed key hkey)
    have hc : e.2.state = .sealed ∧ e.2.key ∈ keys := ⟨hs, hk ▸ hkey⟩
    exact ⟨e.1, { e.2 with locked := true }, by rw [find_lockKeys, (Assoc.mem_iff_find h.wf).1 he, Option.map_some, if_pos hc], hk, hs, rfl⟩
  · obtain ⟨r, hr⟩ := h.filled n hn
    exact ⟨_, by rw [find_lockKeys, hr]; rfl⟩

theorem State.swapCommand_directorySound (c : Cell) {s : State} (h : s.directorySound = true) :
    (s.swapCommand c).state.directorySound = true := by
  unfold State.swapCommand
  dsimp only
  split
  · exact h
  rename_i q hq
  split
  · exact h
  rename_i hchecks
  generalize hkeys : (if q.all = true then sealedKeys s.tables.directory else q.keys) = keys
  split
  · exact h
  rename_i htwice
  split
  · exact h
  rename_i hswap
  split
  · exact h
  rename_i hsealed
  obtain ⟨-, hstart, -⟩ := State.tableChecks_none hchecks
  have hnone : s.tables.swap = none := by simpa using hswap
  obtain ⟨hd, ho⟩ := s.directorySound_iff_parts.1 h
  rw [hnone] at hd
  have hnodup : keys.Nodup := by
    rw [← hkeys]
    split
    · exact hd.sealedKeys_nodup
    · exact (keyTwice_iff _).1 (by simpa using htwice)
  simp only [Bool.or_eq_true, Bool.not_eq_true', not_or, Bool.not_eq_false, List.all_eq_true] at hsealed
  refine (State.directorySound_iff_parts _).2 ⟨hd.lockKeys hnodup hsealed.2, ho.of_live (ImageLoader.starting_false hstart) fun n r hr hs => ?_⟩
  refine ⟨r, ?_, hs⟩
  show Assoc.find (lockKeys s.tables.directory _) n = some r
  rw [find_lockKeys, hr, Option.map_some, if_neg fun hc => by cases hs.symm.trans hc.1]

end Sys2Proof.Machine
end

section
/-! SUPPORT. The image loader keeps the directory sound (R195 to R200). -/

namespace Sys2Proof.Machine

/-! ### STORE (R197, R198) -/

/-- The tables that a STORE takes are LIVE. -/
theorem State.tablesToStore_live {s : State} (h : Assoc.wf s.tables.directory = true) {n : Nat} (hn : n ∈ s.tablesToStore) :
    ∃ r, Assoc.find s.tables.directory n = some r ∧ r.state = .live := by
  unfold State.tablesToStore at hn
  obtain ⟨key, -, hkey⟩ := List.mem_filterMap.1 hn
  split at hkey
  · rename_i m r hfind
    obtain ⟨hr, -, hb⟩ := findTable_find h hfind
    split at hkey
    · cases hkey
    · obtain rfl := Option.some.inj hkey
      exact ⟨r, hr, (TableRecord.bank_live r).1 hb⟩
  · cases hkey

theorem State.storeCommand_directorySound (c : Cell) {s : State} (h : s.directorySound = true) :
    (s.storeCommand c).state.directorySound = true := by
  unfold State.storeCommand
  split
  · exact h
  split
  · exact h
  rename_i hidle
  obtain ⟨hd, -⟩ := s.directorySound_iff_parts.1 h
  have hnone : s.loader.op = none := by
    simp only [Bool.or_eq_true, not_or, Option.not_isSome_iff_eq_none] at hidle
    exact hidle.1
  rw [hnone] at hd
  refine (State.directorySound_iff_parts _).2 ⟨hd, fun l t p st ns hop n hn => ?_, fun p hp => by cases hp⟩
  cases hop
  exact State.tablesToStore_live hd.wf hn

/-- The loader's operation changed to one that fills nothing more and asks no more of the directory. -/
theorem State.directorySound_of_op {s t : State} (h : s.directorySound = true) (hdir : t.tables.directory = s.tables.directory)
    (hswap : t.tables.swap = s.tables.swap) (hfill : t.tables.fill = s.tables.fill) (hload : loadedBy s.loader.op = [])
    (hload' : loadedBy t.loader.op = [])
    (ho : OpSound s.tables.directory s.tables.swap s.tables.fill s.loader.op →
      OpSound s.tables.directory s.tables.swap s.tables.fill t.loader.op) : t.directorySound = true := by
  obtain ⟨hd, hos⟩ := s.directorySound_iff_parts.1 h
  rw [hload] at hd
  refine (State.directorySound_iff_parts _).2 ?_
  rw [hdir, hswap, hfill, hload']
  exact ⟨hd, ho hos⟩

/-- A STORE phase carried out leaves the ledger alone. -/
theorem State.runStore_ledger (s : State) (n : Nat) : (s.runStore n).ledger = s.ledger := by
  obtain ⟨gs, o, l, ns, h⟩ := s.runStore_spec n
  rw [h]
  rfl

theorem execStorePhaseDone_directorySound (us : List Upset) {s : State} (h : s.directorySound = true) :
    Leaves (execStorePhaseDone us s) (·.directorySound = true) := by
  unfold execStorePhaseDone
  dsimp only
  have hu := State.upsets_directorySound us h
  split
  · rename_i link tag phase st ns hop
    have hrun := State.directorySound_of_ledger ((s.upsets us).runStore_ledger (jobUnits (s.upsets us).storeJobs)) hu
    have hop' : ((s.upsets us).runStore (jobUnits (s.upsets us).storeJobs)).loader.op = some (.store link tag phase st ns) :=
      (congrArg (·.2.2.2) ((s.upsets us).runStore_ledger (jobUnits (s.upsets us).storeJobs)) :).trans hop
    split
    · refine leaves_next.2 (State.directorySound_of_op hrun rfl rfl rfl (by rw [hop']; rfl) rfl fun ho => ?_)
      refine ⟨fun l t p st ns' he n hn => ?_, fun p hp => by cases hp⟩
      cases he
      exact ho.stored _ _ _ _ _ hop' n hn
    · exact leaves_next.2 (State.directorySound_of_op hrun rfl rfl rfl (by rw [hop']; rfl) rfl fun _ => OpSound.ended)
  · exact leaves_next.2 hu

theorem execFlashWriteFailed_directorySound (done : Nat) {s : State} (h : s.directorySound = true) :
    Leaves (execFlashWriteFailed done s) (·.directorySound = true) := by
  unfold execFlashWriteFailed
  split
  · rename_i link tag phase st ns hop
    have hledger : ((s.runStore done).recordFault flashWriteFault).ledger = s.ledger :=
      ((s.runStore done).recordFault_ledger _).trans (s.runStore_ledger done)
    have hop' : ((s.runStore done).recordFault flashWriteFault).loader.op = some (.store link tag phase st ns) :=
      (congrArg (·.2.2.2) hledger :).trans hop
    exact leaves_next.2 (State.directorySound_of_op (State.directorySound_of_ledger hledger h) rfl rfl rfl (by rw [hop']; rfl) rfl
      fun _ => OpSound.ended)
  · exact leaves_next.2 h

/-! ### LOAD (R200) -/

/-- The instances of a LOAD, of keys that have no staged table, join a sound directory; every other record stands. -/
theorem allocateLoad_sound {arr : Arrangement} {keys : List Key} {ts : List ImageTable} {dir dir' : Assoc TableRecord}
    {filling : List Nat} {loads : List (Nat × Nat)} (hd : DirSound dir keys filling)
    (hnew : ∀ t ∈ ts, findTable dir t.key .staged = none) (honce : (ts.map fun t => t.key).Nodup)
    (h : allocateLoad arr dir ts = some (dir', loads)) : DirSound dir' keys (filling ++ loads.map (·.1)) := by
  induction ts generalizing dir filling loads with
  | nil =>
    cases h
    simpa using hd
  | cons t ts ih =>
    rw [allocateLoad] at h
    split at h
    · cases h
    rename_i n dir1 hcreate
    obtain ⟨⟨dir2, loads'⟩, hrest, heq⟩ := Option.map_eq_some_iff.1 h
    obtain ⟨rfl, rfl⟩ := Prod.mk.inj heq
    obtain ⟨p, ⟨-, hn, -⟩, -, rfl⟩ := createTable_eq_some.1 hcreate
    have hp := Puts.insert hd.wf n (newTable t.key t.dims .filling p)
    have hd1 : DirSound (Assoc.insert dir n (newTable t.key t.dims .filling p)) keys (filling ++ [n]) := by
      refine hd.create hn hp (hnew t (List.mem_cons_self ..)) rfl rfl (by simp [newTable]) (newTable_sized _ _ _ _)
        (fun m hm => by simp [hm]) ?_
      exact List.nodup_append_comm.1 (List.nodup_cons.2 ⟨hd.free_not_filling hn, hd.fillingOnce⟩)
    obtain ⟨hkey, honce'⟩ := List.nodup_cons.1 honce
    have hnew1 : ∀ q ∈ ts, findTable (Assoc.insert dir n (newTable t.key t.dims .filling p)) q.key .staged = none := by
      intro q hq
      refine (findTable_eq_none_iff hp.wf).2 fun m r hr hk => ?_
      by_cases hm : m = n
      · subst hm
        obtain rfl := Option.some.inj (hp.here.symm.trans hr)
        exact absurd (List.mem_map.2 ⟨q, hq, hk.symm⟩) hkey
      · exact findTable_none_find (hnew q (List.mem_cons_of_mem _ hq)) ((hp.other m hm).symm.trans hr) hk
    have hall := ih hd1 hnew1 honce' hrest
    rwa [List.append_assoc] at hall

/-- The tables of an image have each their own key. -/
theorem imageTables_nodup {m : Assoc Byte} {ts : List ImageTable} (h : imageTables m = some ts) :
    (ts.map fun t => t.key).Nodup := by
  unfold imageTables at h
  dsimp only at h
  split at h
  · split at h
    · cases h
    · split at h
      · cases h
      · rename_i hk
        obtain rfl := Option.some.inj h
        exact (keyTwice_iff _).1 (by simpa using hk)
  · cases h

theorem State.loadCommand_directorySound (c : Cell) {s : State} (h : s.directorySound = true) :
    (s.loadCommand c).state.directorySound = true := by
  unfold State.loadCommand
  dsimp only
  split
  · exact h
  split
  · exact h
  rename_i hidle
  split
  · exact h
  split
  · exact State.directorySound_of_ledger (s.recordFault_ledger _) h
  split
  · exact State.directorySound_of_ledger (State.recordFault_ledger _ _) (State.directorySound_of_ledger rfl h)
  rename_i all hall
  split
  · exact h
  rename_i hstaged
  split
  · exact h
  rename_i dir loads halloc
  obtain ⟨hd, -⟩ := s.directorySound_iff_parts.1 h
  have hnone : s.loader.op = none := by
    simp only [Bool.or_eq_true, not_or, Option.not_isSome_iff_eq_none] at hidle
    exact hidle.1
  rw [hnone] at hd
  have hnew : ∀ t ∈ s.imageTablesUsed all, findTable s.tables.directory t.key .staged = none := by
    simpa using hstaged
  have honce : ((s.imageTablesUsed all).map fun t => t.key).Nodup :=
    (List.filter_sublist.map _).nodup (imageTables_nodup hall)
  have hsound := allocateLoad_sound hd hnew honce halloc
  rw [List.append_assoc] at hsound
  exact (State.directorySound_iff_parts _).2 ⟨hsound, OpSound.load⟩

/-- A table written from an image keeps all but its entries, and they are sized. -/
theorem TableRecord.writeImage_frame (r : TableRecord) (m : Assoc Byte) (off : Nat) :
    { r.writeImage m off with contents := r.contents, bad := r.bad } = r ∧ (r.Sized → (r.writeImage m off).Sized) :=
  TableRecord.storeEntries_frame _ _ _ _ _ r false

/-- The instances of a LOAD sealed are no longer being filled. -/
theorem sealLoaded_sound (m : Assoc Byte) {keys : List Key} {filling : List Nat} {loads : List (Nat × Nat)}
    {dir : Assoc TableRecord} (hd : DirSound dir keys (filling ++ loads.map (·.1))) :
    DirSound (sealLoaded m dir loads) keys filling := by
  induction loads generalizing dir with
  | nil => simpa [sealLoaded] using hd
  | cons e loads ih =>
    obtain ⟨n, off⟩ := e
    obtain ⟨r, hr⟩ := hd.filled n (by simp)
    have hfits := hd.fits n r hr
    have hfilling : r.state = .filling := hfits.filling.2 (by simp)
    have hunlocked : r.locked = false := by
      cases hl : r.locked with
      | false => rfl
      | true => cases hfilling.symm.trans (hfits.locked hl).1
    obtain ⟨hframe, hsized⟩ := r.writeImage_frame m off
    have hnodup : (n :: (filling ++ loads.map (·.1))).Nodup := (List.perm_middle.nodup_iff).1 hd.fillingOnce
    obtain ⟨hn, hnodup'⟩ := List.nodup_cons.1 hnodup
    refine ih (dir := Assoc.modify dir n fun r => { r.writeImage m off with state := .sealed }) ?_
    refine hd.restate hr (Puts.modify hd.wf hr _) (congrArg TableRecord.key hframe :) (by simp [hfilling]) (by simp) hunlocked
      ((congrArg TableRecord.locked hframe :).trans hunlocked) (congrArg TableRecord.dropMark hframe :) (by simpa using hn)
      ?_ (fun k hk => by simp [hk]) hnodup'
    have hkey : (r.writeImage m off).key = r.key := (congrArg TableRecord.key hframe :)
    exact hkey ▸ hsized hfits.sized

/-- The instances of a LOAD removed. -/
theorem dropLoaded_sound {keys : List Key} {filling : List Nat} {loads : List (Nat × Nat)} {dir : Assoc TableRecord}
    (hd : DirSound dir keys (filling ++ loads.map (·.1))) : DirSound (dropLoaded dir loads) keys filling := by
  induction loads generalizing dir with
  | nil => simpa [dropLoaded] using hd
  | cons e loads ih =>
    obtain ⟨n, off⟩ := e
    have hnodup : (n :: (filling ++ loads.map (·.1))).Nodup := (List.perm_middle.nodup_iff).1 hd.fillingOnce
    obtain ⟨hn, hnodup'⟩ := List.nodup_cons.1 hnodup
    refine ih (dir := Assoc.erase dir n) (hd.remove (fun r hr => ?_) hn (fun k hk => by simp [hk]) hnodup')
    have hfits := hd.fits n r hr
    cases hl : r.locked with
    | false => rfl
    | true => cases (hfits.filling.2 (by simp)).symm.trans (hfits.locked hl).1

theorem execLoadReadDone_directorySound {s : State} (h : s.directorySound = true) :
    Leaves (execLoadReadDone s) (·.directorySound = true) := by
  unfold execLoadReadDone
  split
  · rename_i link tag loads hop
    obtain ⟨hd, -⟩ := s.directorySound_iff_parts.1 h
    rw [hop] at hd
    split
    · refine leaves_next.2 ((State.directorySound_iff_parts _).2 ⟨?_, OpSound.ended⟩)
      have hs := sealLoaded_sound s.flash hd
      rwa [← List.append_nil (filledBy _)] at hs
    · refine leaves_next.2 (State.directorySound_of_ledger (State.recordFault_ledger _ _)
        ((State.directorySound_iff_parts _).2 ⟨?_, OpSound.ended⟩))
      have hs := dropLoaded_sound hd
      rwa [← List.append_nil (filledBy _)] at hs
  · exact leaves_next.2 h

/-! ### The start-up load (R195) -/

theorem execStartupHeaderReadDone_directorySound {s : State} (h : s.directorySound = true) :
    Leaves (execStartupHeaderReadDone s) (·.directorySound = true) := by
  unfold execStartupHeaderReadDone
  split
  · rename_i hop
    split
    · refine leaves_next.2 (State.directorySound_of_op h rfl rfl rfl (by rw [hop]; rfl) rfl fun ho => ?_)
      exact ⟨fun _ _ _ _ _ he => (by cases he), fun _ _ => ho.starts _ hop⟩
    · exact leaves_next.2 (State.directorySound_of_op h rfl rfl rfl (by rw [hop]; rfl) rfl fun _ => OpSound.ended)
  · exact leaves_next.2 h

theorem State.applyRecord_ledger (s : State) (rec : Bytes) : (s.applyRecord rec).ledger = s.ledger := by
  unfold State.applyRecord
  repeat' split
  all_goals simp

theorem State.applySettings_ledger (s : State) : s.applySettings.ledger = s.ledger := by
  unfold State.applySettings
  generalize settingsRecords s.flash = recs
  induction recs generalizing s with
  | nil => rfl
  | cons rec recs ih => exact (ih (s.applyRecord rec)).trans (s.applyRecord_ledger rec)

theorem execImageCheckReadDone_directorySound {s : State} (h : s.directorySound = true) :
    Leaves (execImageCheckReadDone s) (·.directorySound = true) := by
  unfold execImageCheckReadDone
  split
  · rename_i hop
    split
    · refine leaves_next.2 (State.directorySound_of_ledger (State.applySettings_ledger _) ?_)
      refine State.directorySound_of_op h rfl rfl rfl (by rw [hop]; rfl) rfl fun ho => ?_
      exact ⟨fun _ _ _ _ _ he => (by cases he), fun _ _ => ho.starts _ hop⟩
    · refine leaves_next.2 (State.directorySound_of_ledger (State.recordFault_ledger _ _) ?_)
      exact State.directorySound_of_op h rfl rfl rfl (by rw [hop]; rfl) rfl fun _ => OpSound.ended
  · exact leaves_next.2 h

/-- A table created and written at once. -/
theorem Puts.insert_modify {dir : Assoc TableRecord} (h : Assoc.wf dir = true) (n : Nat) (r : TableRecord)
    (f : TableRecord → TableRecord) : Puts dir n (f r) (Assoc.modify (Assoc.insert dir n r) n f) := by
  have hi := Puts.insert h n r
  have hm := Puts.modify hi.wf hi.here f
  exact ⟨hm.wf, hm.here, fun j hj => (hm.other j hj).trans (hi.other j hj)⟩

/-- A table created LIVE keeps the store of the start-up load sound: its swap and its fill are none. -/
theorem State.loadLive_sound {s : State} (t : ImageTable) (hd : DirSound s.tables.directory [] []) :
    DirSound (s.loadLive t).tables.directory [] [] ∧ (s.loadLive t).tables.swap = s.tables.swap
      ∧ (s.loadLive t).tables.fill = s.tables.fill := by
  unfold State.loadLive
  split
  · exact ⟨hd, rfl, rfl⟩
  rename_i hlive
  split
  · exact ⟨hd, rfl, rfl⟩
  rename_i n dir hcreate
  obtain ⟨p, ⟨-, hn, -⟩, -, rfl⟩ := createTable_eq_some.1 hcreate
  obtain ⟨hframe, hsized⟩ := (newTable t.key t.dims .live p).writeImage_frame s.flash t.offset
  have hkey : ((newTable t.key t.dims .live p).writeImage s.flash t.offset).key = t.key := congrArg TableRecord.key hframe
  have hstate : ((newTable t.key t.dims .live p).writeImage s.flash t.offset).state = .live := congrArg TableRecord.state hframe
  have hnone : findTable s.tables.directory t.key .live = none := by simpa [liveRecord] using hlive
  refine ⟨?_, rfl, rfl⟩
  refine hd.create hn (Puts.insert_modify hd.wf n (newTable t.key t.dims .live p) fun r => r.writeImage s.flash t.offset) ?_
    (congrArg TableRecord.locked hframe :) (congrArg TableRecord.dropMark hframe :) (by rw [hstate]; simp)
    (hsized fun _ he => by cases he) (fun _ _ => Iff.rfl) List.nodup_nil
  rw [hkey, (TableRecord.bank_live _).2 hstate]
  exact hnone

theorem State.foldl_loadLive_sound (ts : List ImageTable) {s : State} (hd : DirSound s.tables.directory [] []) :
    DirSound (ts.foldl State.loadLive s).tables.directory [] [] ∧ (ts.foldl State.loadLive s).tables.swap = s.tables.swap
      ∧ (ts.foldl State.loadLive s).tables.fill = s.tables.fill := by
  induction ts generalizing s with
  | nil => exact ⟨hd, rfl, rfl⟩
  | cons t ts ih =>
    obtain ⟨hd1, hs1, hf1⟩ := State.loadLive_sound t hd
    obtain ⟨hd2, hs2, hf2⟩ := ih hd1
    exact ⟨hd2, hs2.trans hs1, hf2.trans hf1⟩

theorem execStartupLoadDone_directorySound {s : State} (h : s.directorySound = true) :
    Leaves (execStartupLoadDone s) (·.directorySound = true) := by
  unfold execStartupLoadDone
  split
  · rename_i hop
    obtain ⟨hd, ho⟩ := s.directorySound_iff_parts.1 h
    obtain ⟨-, hswap, hfill⟩ := ho.starts _ hop
    rw [hop, hswap, hfill] at hd
    have hall : DirSound s.applyTables.tables.directory [] [] ∧ s.applyTables.tables.swap = none
        ∧ s.applyTables.tables.fill = none := by
      rw [← hswap, ← hfill]
      unfold State.applyTables
      split
      · exact ⟨hd, hswap.symm ▸ rfl, hfill.symm ▸ rfl⟩
      · obtain ⟨hd', hs', hf'⟩ := State.foldl_loadLive_sound (s.imageTablesUsed _) (s := s) hd
        exact ⟨hd', hs'.trans (by rw [hswap]), hf'.trans (by rw [hfill])⟩
    obtain ⟨hd', hs', hf'⟩ := hall
    refine leaves_next.2 ((State.directorySound_iff_parts _).2 ⟨?_, OpSound.ended⟩)
    show DirSound s.applyTables.tables.directory (keysOf s.applyTables.tables.swap) (filledBy s.applyTables.tables.fill ++ [])
    rw [hs', hf']
    exact hd'
  · exact leaves_next.2 h

end Sys2Proof.Machine
end

section
/-! SUPPORT. Frame starts and resets keep the directory sound (R66 to R69, R165), and with that every step does. -/

namespace Sys2Proof.Machine

/-! ### The table changes of a frame start (R66 to R68) -/

/-- A LIVE record is neither locked nor being filled, so a sound directory stays sound without some of them. -/
theorem DirSound.filter_live {dir : Assoc TableRecord} {keys : List Key} {filling : List Nat} (h : DirSound dir keys filling)
    {p : Nat × TableRecord → Bool} (hp : ∀ e, e.2.state ≠ .live → p e = true) : DirSound (dir.filter p) keys filling := by
  have hfind : ∀ n r, Assoc.find (dir.filter p) n = some r ↔ Assoc.find dir n = some r ∧ p (n, r) = true := fun n r => by
    rw [Assoc.find_filter p h.wf, Option.filter_eq_some_iff]
  refine ⟨Assoc.wf_filter p h.wf, fun n m r q hr hq => h.once n m r q ((hfind n r).1 hr).1 ((hfind m q).1 hq).1,
    fun n r hr => h.fits n r ((hfind n r).1 hr).1, fun key hkey => ?_, h.keysOnce, fun n hn => ?_, h.fillingOnce⟩
  · obtain ⟨n, r, hr, hk, hs, hl⟩ := h.locks key hkey
    exact ⟨n, r, (hfind n r).2 ⟨hr, hp _ (by simp [hs])⟩, hk, hs, hl⟩
  · obtain ⟨r, hr⟩ := h.filled n hn
    have hs : r.state = .filling := (h.fits n r hr).filling.2 hn
    exact ⟨r, (hfind n r).2 ⟨hr, hp _ (by simp [hs])⟩⟩

theorem DirSound.dropMarked {dir : Assoc TableRecord} {keys : List Key} {filling : List Nat} (h : DirSound dir keys filling) :
    DirSound (dropMarked dir) keys filling := h.filter_live fun e he => by simp [he]

/-- The table of a key that a due swap promotes (R68). -/
def TableRecord.promoted (r : TableRecord) (keys : List Key) : TableRecord :=
  if r.key ∈ keys then { r with state := .live, locked := false } else r

@[simp] theorem TableRecord.promoted_key (r : TableRecord) (keys : List Key) : (r.promoted keys).key = r.key := by
  unfold TableRecord.promoted
  split <;> rfl

/-- After a promotion a record reads as it did, promoted, unless it was the LIVE table of a key named. -/
theorem find_promote {dir : Assoc TableRecord} (h : Assoc.wf dir = true) (keys : List Key) (n : Nat) :
    Assoc.find (promote dir keys) n =
      ((Assoc.find dir n).filter fun r => !(r.state == .live && keys.contains r.key)).map (·.promoted keys) := by
  have hmap : ∀ d : Assoc TableRecord, Assoc.find (d.map fun e =>
      if keys.contains e.2.key then (e.1, { e.2 with state := .live, locked := false }) else e) n =
        (Assoc.find d n).map (·.promoted keys) := by
    intro d
    induction d with
    | nil => rfl
    | cons e d ih =>
      obtain ⟨j, r⟩ := e
      have hcons : (if keys.contains r.key = true then (j, { r with state := .live, locked := false }) else (j, r)) =
          (j, r.promoted keys) := by
        unfold TableRecord.promoted
        by_cases hk : r.key ∈ keys <;> simp [hk]
      rw [List.map_cons, hcons, Assoc.find_cons, Assoc.find_cons]
      split
      · rfl
      · exact ih
  rw [promote, hmap, Assoc.find_filter _ h]

/-- A staged table of a key in the pending swap is SEALED: it is the locked one. -/
theorem DirSound.sealed_of_mem {dir : Assoc TableRecord} {keys : List Key} {filling : List Nat} (h : DirSound dir keys filling)
    {n : Nat} {r : TableRecord} (hr : Assoc.find dir n = some r) (hs : r.state ≠ .live) (hk : r.key ∈ keys) :
    r.state = .sealed := by
  obtain ⟨m, q, hq, hkq, hsq, -⟩ := h.locks r.key hk
  by_cases hmn : m = n
  · subst hmn
    obtain rfl := Option.some.inj (hr.symm.trans hq)
    exact hsq
  · refine absurd ?_ (h.once m n q r hq hr hmn hkq)
    rw [(TableRecord.bank_staged r).2 hs, (TableRecord.bank_staged q).2 (by simp [hsq])]

/-- A due swap carried out: its keys are promoted, and no key is locked. -/
theorem DirSound.promote {dir : Assoc TableRecord} {keys : List Key} {filling : List Nat} (h : DirSound dir keys filling) :
    DirSound (promote dir keys) [] filling := by
  have hfrom : ∀ n r', Assoc.find (Machine.promote dir keys) n = some r' ↔
      ∃ r, Assoc.find dir n = some r ∧ (r.state = .live → r.key ∉ keys) ∧ r' = r.promoted keys := by
    intro n r'
    simp only [find_promote h.wf, Option.map_eq_some_iff, Option.filter_eq_some_iff, and_assoc]
    refine exists_congr fun r => and_congr_right fun _ => and_congr ?_ eq_comm
    simp [imp_iff_not_or]
  have hin : ∀ r : TableRecord, r.key ∈ keys → r.promoted keys = { r with state := .live, locked := false } := fun r hk => if_pos hk
  have hout : ∀ r : TableRecord, r.key ∉ keys → r.promoted keys = r := fun r hk => if_neg hk
  refine ⟨?_, fun n m r' q' hr' hq' hne hk => ?_, fun n r' hr' => ?_, fun key hkey => absurd hkey List.not_mem_nil, List.nodup_nil,
    fun n hn => ?_, h.fillingOnce⟩
  · exact Assoc.risingFrom_map _ (fun e => by split <;> rfl) (Assoc.wf_filter _ h.wf)
  · obtain ⟨r, hr, hlive, rfl⟩ := (hfrom n r').1 hr'
    obtain ⟨q, hq, hlive', rfl⟩ := (hfrom m q').1 hq'
    rw [TableRecord.promoted_key, TableRecord.promoted_key] at hk
    by_cases hmem : r.key ∈ keys
    · refine absurd ?_ (h.once n m r q hr hq hne hk)
      have hs : r.state ≠ .live := fun hs => hlive hs hmem
      have hs' : q.state ≠ .live := fun hs => hlive' hs (hk ▸ hmem)
      rw [(TableRecord.bank_staged r).2 hs, (TableRecord.bank_staged q).2 hs']
    · rw [hout r hmem, hout q (hk ▸ hmem)]
      exact h.once n m r q hr hq hne hk
  · obtain ⟨r, hr, hlive, rfl⟩ := (hfrom n r').1 hr'
    obtain ⟨hfilling, hlocked, hmarked, hsized⟩ := h.fits n r hr
    by_cases hmem : r.key ∈ keys
    · have hsealed : r.state = .sealed := h.sealed_of_mem hr (fun hs => hlive hs hmem) hmem
      rw [hin r hmem]
      exact ⟨by rw [← hfilling, hsealed]; simp, fun hl => (by cases hl), fun _ => rfl, hsized⟩
    · rw [hout r hmem]
      exact ⟨hfilling, fun hl => absurd (hlocked hl).2 hmem, hmarked, hsized⟩
  · obtain ⟨r, hr⟩ := h.filled n hn
    have hs : r.state = .filling := (h.fits n r hr).filling.2 hn
    exact ⟨_, (hfrom n _).2 ⟨r, hr, fun hl => (by cases hs.symm.trans hl), rfl⟩⟩

/-- A filtering keeps an empty directory empty, and asks nothing of the loader outside a STORE. -/
theorem OpSound.of_not_storing {dir dir' : Assoc TableRecord} {swap swap' : Option PendingSwap} {fill : Option FillOp}
    {l : ImageLoader} (h : OpSound dir swap fill l.op) (hs : l.storing = false) (hempty : dir = [] → swap = none → dir' = [] ∧ swap' = none) :
    OpSound dir' swap' fill l.op := by
  refine ⟨fun k t p st ns hop => absurd hop (ImageLoader.storing_false hs k t p st ns), fun p hp => ?_⟩
  obtain ⟨hd, hsw, hf⟩ := h.starts p hp
  obtain ⟨hd', hsw'⟩ := hempty hd hsw
  exact ⟨hd', hsw', hf⟩

theorem State.tablesAtFrameStart_directorySound {s : State} (h : s.directorySound = true) :
    s.tablesAtFrameStart.directorySound = true := by
  obtain ⟨hd, ho⟩ := s.directorySound_iff_parts.1 h
  have hdropped : s.loader.storing = false → (s.setDirectory (dropMarked s.tables.directory)).directorySound = true := fun hs =>
    (State.directorySound_iff_parts _).2 ⟨hd.dropMarked, ho.of_not_storing hs fun he hsw => ⟨by rw [he]; rfl, hsw⟩⟩
  unfold State.tablesAtFrameStart
  split
  · exact h
  · rename_i sw _ hsw
    rw [hsw] at hd ho
    refine (State.directorySound_iff_parts _).2 ⟨hd, ho.stored, fun p hp => ?_⟩
    cases (ho.starts p hp).2.1
  · rename_i hs _
    exact hdropped hs
  · rename_i sw hs hsw
    rw [hsw] at hd ho
    generalize (if sw.deferred = true then (true, true) else swapDue s.coh sw) = due
    obtain ⟨due, late⟩ := due
    cases due with
    | false => exact hdropped hs
    | true =>
      have hpromoted : (s.setTables { s.tables with
          directory := Machine.promote (Machine.dropMarked s.tables.directory) sw.keys, swap := none }).directorySound = true :=
        (State.directorySound_iff_parts _).2 ⟨hd.dropMarked.promote, ho.of_not_storing hs fun _ hn => by cases hn⟩
      refine State.directorySound_of_ledger ((State.raise_ledger _ Cond.swapDone).trans ?_) hpromoted
      cases late with
      | false => rfl
      | true => exact State.raise_ledger _ Cond.swapLate

theorem State.showFrame_ledger (s : State) : s.showFrame.ledger = s.ledger := by
  obtain ⟨c, gs, o, l, ns, h⟩ := s.showFrame_spec
  rw [h]
  rfl

/-- Of the blocks of a frame start, only the table changes touch the ledger. -/
theorem State.frameStart_ledger (s : State) (own : Bool) :
    (s.frameStart own).ledger = s.showFrame.tablesAtFrameStart.ledger := by
  unfold State.frameStart
  dsimp only
  obtain ⟨p, w, u, l3, n3, h3⟩ := s.showFrame.tablesAtFrameStart.rasterChange_spec
  obtain ⟨x, g4, o4, l4, n4, h4⟩ := State.lossAtFrameStart_spec s.showFrame.tablesAtFrameStart.rasterChange.takeModes
    (Quad.of fun k => (s.outputs.get k).state.up) s.coh.handedVector
  obtain ⟨w5, u5, g5, o5, l5, n5, h5⟩ := State.channelStarts_spec
    (s.showFrame.tablesAtFrameStart.rasterChange.takeModes.lossAtFrameStart
      (Quad.of fun k => (s.outputs.get k).state.up) s.coh.handedVector).fitTest
  rw [h5, h4]
  obtain ⟨p6, h6⟩ := State.beginFrame_spec _ own
  rw [h6, h3]
  rfl

theorem State.frameStart_directorySound {s : State} (own : Bool) (h : s.directorySound = true) :
    (s.frameStart own).directorySound = true :=
  State.directorySound_of_ledger (s.frameStart_ledger own)
    (State.tablesAtFrameStart_directorySound (State.directorySound_of_ledger s.showFrame_ledger h))

theorem State.ownerFrame_directorySound {s : State} (h : s.directorySound = true) : s.ownerFrame.directorySound = true :=
  State.directorySound_of_ledger (State.levelNotices_ledger _ _) (State.frameStart_directorySound false h)

theorem State.frameEvent_directorySound {s t : State} (h : s.directorySound = true) (ht : s.frameEvent t) :
    t.directorySound = true := by
  rcases ht with rfl | ⟨n, rfl⟩ | ⟨n, own, rfl⟩
  · exact h
  · exact State.ownerFrame_directorySound (State.directorySound_of_ledger rfl h)
  · exact State.directorySound_of_ledger (State.levelNotices_ledger _ _)
      (State.frameStart_directorySound own (State.directorySound_of_ledger rfl h))

/-! ### Resets (R164, R165, R192) -/

/-- The empty store is sound. -/
theorem DirSound.empty : DirSound [] [] [] :=
  ⟨rfl, fun _ _ _ _ h => (by cases h), fun _ _ h => (by cases h), fun _ h => absurd h List.not_mem_nil, List.nodup_nil,
    fun _ h => absurd h List.not_mem_nil, List.nodup_nil⟩

theorem State.resetEvent_directorySound {s t : State} (h : s.directorySound = true) (ht : s.resetEvent t) :
    t.directorySound = true := by
  rcases ht with rfl | ⟨u, straps, fs, o, rfl⟩
  · exact h
  · have hr : (u.resetValues straps fs o).directorySound = true :=
      (State.directorySound_iff_parts _).2 ⟨DirSound.empty, fun _ _ _ _ _ he => (by cases he), fun _ _ => ⟨rfl, rfl, rfl⟩⟩
    unfold State.firstFrame
    split
    · exact hr
    · exact State.ownerFrame_directorySound hr
    · exact State.ownerFrame_directorySound hr

theorem DirSound.unlockAll {dir : Assoc TableRecord} {keys : List Key} {filling : List Nat} (h : DirSound dir keys filling) :
    DirSound (unlockAll dir) [] filling := by
  have hfrom : ∀ n r', Assoc.find (Machine.unlockAll dir) n = some r' ↔
      ∃ r, Assoc.find dir n = some r ∧ r' = { r with locked := false } := by
    intro n r'
    rw [find_unlockAll, Option.map_eq_some_iff]
    exact exists_congr fun r => and_congr_right fun _ => eq_comm
  refine ⟨Assoc.risingFrom_map _ (fun _ => rfl) h.wf, fun n m r' q' hr' hq' hne hk => ?_, fun n r' hr' => ?_,
    fun _ hkey => absurd hkey List.not_mem_nil, List.nodup_nil, fun n hn => ?_, h.fillingOnce⟩
  · obtain ⟨r, hr, rfl⟩ := (hfrom n r').1 hr'
    obtain ⟨q, hq, rfl⟩ := (hfrom m q').1 hq'
    exact h.once n m r q hr hq hne hk
  · obtain ⟨r, hr, rfl⟩ := (hfrom n r').1 hr'
    obtain ⟨hfilling, -, hmarked, hsized⟩ := h.fits n r hr
    exact ⟨hfilling, fun hl => (by cases hl), hmarked, hsized⟩
  · obtain ⟨r, hr⟩ := h.filled n hn
    exact ⟨_, (hfrom n _).2 ⟨r, hr, rfl⟩⟩

theorem State.pipelineReset_directorySound {s : State} (h : s.directorySound = true) : s.pipelineReset.directorySound = true := by
  obtain ⟨hd, ho⟩ := s.directorySound_iff_parts.1 h
  refine State.directorySound_of_ledger (State.levelNotices_ledger _ _) ((State.directorySound_iff_parts _).2 ⟨hd.unlockAll, ?_⟩)
  refine ⟨fun l t p st ns hop n hn => ?_, fun p hp => ?_⟩
  · obtain ⟨r, hr, hs⟩ := ho.stored l t p st ns hop n hn
    exact ⟨{ r with locked := false }, (find_unlockAll s.tables.directory n).trans (by rw [hr]; rfl), hs⟩
  · obtain ⟨hdir, -, hfill⟩ := ho.starts p hp
    refine ⟨?_, rfl, hfill⟩
    show unlockAll s.tables.directory = []
    rw [hdir]
    rfl

/-! ### Every command -/

/-- Every command keeps the directory sound. -/
theorem exec_directorySound {s : State} (h : s.directorySound = true) (i : Instr) :
    Leaves (exec i s) (·.directorySound = true) := by
  have of_ledger : ∀ {o : Host.Outcome State Fault Refusal}, Leaves o (·.ledger = s.ledger) → Leaves o (·.directorySound = true) :=
    fun ho t ht => State.directorySound_of_ledger (ho t ht) h
  cases i with
  | pinReset arr role pos done =>
    exact fun t ht => State.resetEvent_directorySound h (execPinReset_resetEvent arr role pos done s t ht)
  | startupHeaderReadDone => exact execStartupHeaderReadDone_directorySound h
  | imageCheckReadDone => exact execImageCheckReadDone_directorySound h
  | startupLoadDone => exact execStartupLoadDone_directorySound h
  | inputCarrierDetected k => exact of_ledger (execInputCarrierDetected_ledger k s)
  | inputTrainingDone k => exact of_ledger (execInputTrainingDone_ledger k s)
  | inputLinkLost k => exact of_ledger (execInputLinkLost_ledger k s)
  | frameOpen k record => exact of_ledger (execFrameOpen_ledger k record s)
  | line k record => exact of_ledger (execLine_ledger k record s)
  | frameClose k record => exact of_ledger (execFrameClose_ledger k record s)
  | recordUnknown k record => exact leaves_next.2 h
  | cell k record => exact of_ledger (execCell_ledger k record s)
  | identify => exact State.serve_ledger State.identifyCommand_ledger h
  | status => exact State.serve_ledger State.statusCommand_ledger h
  | set => exact State.serve_ledger State.setCommand_ledger h
  | get => exact State.serve_ledger State.getCommand_ledger h
  | clear => exact State.serve_ledger State.clearCommand_ledger h
  | faultRead => exact State.serve_ledger State.faultReadCommand_ledger h
  | restartOutput => exact State.serve_ledger State.restartCommand_ledger h
  | resetFull => exact State.serve_ledger State.resetFullCommand_ledger h
  | resetFullEffect done =>
    exact fun t ht => State.resetEvent_directorySound h (execResetFullEffect_resetEvent done s t ht)
  | resetPipeline =>
    refine State.serve_directorySound (fun c t ht => ?_) h
    rcases t.resetPipelineCommand_cases c with he | he
    · rwa [he]
    · rw [he]
      exact State.pipelineReset_directorySound ht
  | badCommand => exact State.serve_ledger (fun _ _ => rfl) h
  | tableOpen => exact State.serve_directorySound (fun c _ => State.openCommand_directorySound c) h
  | tableWrite => exact State.serve_directorySound (fun c _ => State.writeCommand_directorySound c) h
  | tableRead us => exact State.serve_ledger State.readCommand_ledger (State.upsets_directorySound us h)
  | tableSeal => exact State.serve_directorySound (fun c _ => State.sealCommand_directorySound c) h
  | tableDropStaged => exact State.serve_directorySound (fun c _ => State.dropCommand_directorySound c) h
  | tableDropLive => exact State.serve_directorySound (fun c _ => State.dropCommand_directorySound c) h
  | tableSwap => exact State.serve_directorySound (fun c _ => State.swapCommand_directorySound c) h
  | tableList => exact State.serve_ledger State.listCommand_ledger h
  | store => exact State.serve_directorySound (fun c _ => State.storeCommand_directorySound c) h
  | load => exact State.serve_directorySound (fun c _ => State.loadCommand_directorySound c) h
  | defaultFillPageDone => exact execDefaultFillPageDone_directorySound h
  | completionEnqueue op => exact of_ledger (execCompletionEnqueue_ledger op s)
  | storePhaseDone us => exact execStorePhaseDone_directorySound us h
  | flashWriteFailed done => exact execFlashWriteFailed_directorySound done h
  | loadReadDone => exact execLoadReadDone_directorySound h
  | reverseLaneSend k => exact of_ledger (execReverseLaneSend_ledger k s)
  | reverseSendEnd k => exact of_ledger (execReverseSendEnd_ledger k s)
  | frameStart us =>
    exact fun t ht => State.frameEvent_directorySound (State.upsets_directorySound us h) (execFrameStart_frameEvent us s t ht)
  | syncPulse us =>
    exact fun t ht => State.frameEvent_directorySound (State.upsets_directorySound us h) (execSyncPulse_frameEvent us s t ht)
  | ownStart us =>
    exact fun t ht => State.frameEvent_directorySound (State.upsets_directorySound us h) (execOwnStart_frameEvent us s t ht)
  | lineDeadline => exact of_ledger (execLineDeadline_ledger s)
  | musterHandle token => exact of_ledger (execMusterHandle_ledger token s)
  | musterReturn token => exact of_ledger (execMusterReturn_ledger token s)
  | showHandle token => exact of_ledger (execShowHandle_ledger token s)
  | showReturn token => exact of_ledger (execShowReturn_ledger token s)
  | warpLineBegin k => exact of_ledger (execWarpLineBegin_ledger k s)
  | warpPixel k us => exact execWarpPixel_directorySound k us h
  | tileFillComplete k read us => exact execTileFillComplete_directorySound k read us h
  | tileFillTimeout k read us => exact execTileFillTimeout_directorySound k read us h
  | lightPixelWrite k us => exact execLightPixelWrite_directorySound k us h
  | statusReport k locked => exact of_ledger fun t ht => State.portEvent_ledger (execStatusReport_portEvent k locked s t ht)
  | reverseCarrierLost k => exact of_ledger fun t ht => State.portEvent_ledger (execReverseCarrierLost_portEvent k s t ht)
  | reportTimeout k => exact of_ledger fun t ht => State.portEvent_ledger (execReportTimeout_portEvent k s t ht)
  | settleExpiry k => exact of_ledger fun t ht => State.portEvent_ledger (execSettleExpiry_portEvent k s t ht)
  | relockExpiry k => exact of_ledger fun t ht => State.portEvent_ledger (execRelockExpiry_portEvent k s t ht)

/-- A step carries out a command on the rest of the queue, or lets a period of REFCLK pass: an invariant that neither the
queue nor the clock concerns, and that every command keeps, is kept. -/
theorem step_leaves {P : State → Prop} (htick : ∀ s : State, P s → P s.tick) (hqueue : ∀ s q, P s → P { s with pending := q })
    (hexec : ∀ s, P s → ∀ i, Leaves (exec i s) P) {s : State} (h : P s) : Leaves (step s) P := by
  unfold step
  split
  · exact leaves_next.2 (htick s h)
  · rename_i i rest _
    exact hexec _ (hqueue s rest h) i

/-- Settles O9, by the invariant in words: each command changes one record, or changes every record alike. -/
theorem directoryStaysSound : Obligations.DirectoryStaysSound := fun _ t h ht =>
  step_leaves (P := fun s => s.directorySound = true) (fun _ h => State.directorySound_of_ledger rfl h)
    (fun _ _ h => State.directorySound_of_ledger rfl h) (fun _ => exec_directorySound) h t ht

end Sys2Proof.Machine
end

section
/-! SUPPORT. Channels that the arrangement lacks (R72, R137, R138, R149, R187): what the invariant reads of a channel, and the
operations that leave a channel of the arrangement's lack as it is. -/

namespace Sys2Proof.Machine

/-! ### The invariant in words -/

/-- What the invariant reads of a channel. -/
structure Idle where
  slots : SlotNo → SlotState
  progress : FrameInProgress
  port : PortState
  lock : LockRecord
  walk : Option Walk
  cache : Assoc TileEntry
  form : FrameForm
  held : List HeldPixel
  chosen : SetNo
  selected : SetNo
  missing : Bool
  confirmed : Bool
  count : Nat
  unfit : Bool
  shown : Option FrameNo
  latched : Cond → Bool

/-- What the state holds of a channel. -/
def State.idle (s : State) (k : Channel) : Idle where
  slots i := ((s.rings.get k).slots.get i).state
  progress := (s.inputs.get k).progress
  port := (s.outputs.get k).state
  lock := (s.outputs.get k).lock
  walk := (s.warps.get k).walk
  cache := (s.warps.get k).cache
  form := (s.lights.get k).form
  held := (s.lights.get k).held
  chosen := s.loss.chosen.get k
  selected := s.loss.selected.get k
  missing := s.loss.setMissing.get k
  confirmed := s.loss.confirmed.get k
  count := s.loss.count.get k
  unfit := s.tables.unfit.get k
  shown := s.coh.channelShown.get k
  latched c := decide (Cond.channel c = some k) && s.latches.getLsbD c

/-- A channel that holds nothing. -/
structure Idle.Inert (x : Idle) : Prop where
  slots : ∀ i, x.slots i = .empty
  progress : x.progress = .none
  port : x.port = .absent
  lock : x.lock = .none
  walk : x.walk = none
  cache : x.cache = []
  form : x.form = .noLines
  held : x.held = []
  chosen : x.chosen = 0
  selected : x.selected = 0
  missing : x.missing = false
  confirmed : x.confirmed = true
  count : x.count = 0
  unfit : x.unfit = false
  shown : x.shown = none
  latched : ∀ c, x.latched c = false

theorem State.channelInert_iff (s : State) (k : Channel) : s.channelInert k = true ↔ (s.idle k).Inert := by
  have hslots : (slotNos.all fun i => ((s.rings.get k).slots.get i).state == .empty) = true ↔
      ∀ i, ((s.rings.get k).slots.get i).state = .empty := by
    simp only [slotNos, List.all_cons, List.all_nil, Bool.and_true, Bool.and_eq_true, beq_iff_eq]
    exact ⟨fun ⟨h0, h1, h2⟩ i => by fin_cases i <;> assumption, fun h => ⟨h 0, h 1, h 2⟩⟩
  have hlatched : (Cond.all.all fun c => Cond.channel c != some k || !s.latches.getLsbD c) = true ↔
      ∀ c, (decide (Cond.channel c = some k) && s.latches.getLsbD c) = false := by
    rw [List.all_eq_true]
    refine ⟨fun h c => ?_, fun h c _ => ?_⟩
    · have hc := h c (List.mem_finRange c)
      cases hd : decide (Cond.channel c = some k) <;> simp_all
    · have hc := h c
      cases hd : decide (Cond.channel c = some k) <;> simp_all
  unfold State.channelInert
  simp only [Bool.and_eq_true, hslots, hlatched, beq_iff_eq, Bool.not_eq_true', and_assoc]
  exact ⟨fun ⟨h1, h2, h3, h4, h5, h6, h7, h8, h9, h10, h11, h12, h13, h14, h15, h16⟩ =>
      ⟨h1, h2, h3, h4, h5, h6, h7, h8, h9, h10, h11, h12, h13, h14, h15, h16⟩,
    fun ⟨h1, h2, h3, h4, h5, h6, h7, h8, h9, h10, h11, h12, h13, h14, h15, h16⟩ =>
      ⟨h1, h2, h3, h4, h5, h6, h7, h8, h9, h10, h11, h12, h13, h14, h15, h16⟩⟩

theorem State.absentInert_iff (s : State) : s.absentInert = true ↔ ∀ k, s.hasChannel k = false → (s.idle k).Inert := by
  unfold State.absentInert
  rw [channels_all]
  refine forall_congr' fun k => ?_
  rw [Bool.or_eq_true, State.channelInert_iff]
  cases s.hasChannel k <;> simp

/-! ### Changes that keep absent channels inert -/

/-- From `s` to `t` the arrangement stands, and a channel that it lacks stays inert. -/
def State.keepsInert (s t : State) : Prop :=
  t.straps.arrangement = s.straps.arrangement ∧ ∀ k, s.hasChannel k = false → (s.idle k).Inert → (t.idle k).Inert

theorem State.absentInert_of_keeps {s t : State} (h : s.absentInert = true) (ht : s.keepsInert t) : t.absentInert = true := by
  obtain ⟨harr, hk⟩ := ht
  rw [State.absentInert_iff] at h ⊢
  intro k hlack
  rw [State.hasChannel, harr] at hlack
  exact hk k hlack (h k hlack)

/-- The arrangement stands and what the invariant reads of an absent channel stands. -/
theorem State.keepsInert_of_idle {s t : State} (ha : t.straps.arrangement = s.straps.arrangement)
    (hi : ∀ k, s.hasChannel k = false → t.idle k = s.idle k) : s.keepsInert t :=
  ⟨ha, fun k hk h => by rw [hi k hk]; exact h⟩

theorem State.keepsInert_rfl {s : State} : s.keepsInert s := ⟨rfl, fun _ _ h => h⟩

/-- A change that leaves what the invariant reads. -/
theorem State.keepsInert_same {s t : State} (ha : t.straps.arrangement = s.straps.arrangement) (hi : t.idle = s.idle) :
    s.keepsInert t := State.keepsInert_of_idle ha fun k _ => congrFun hi k

theorem State.keepsInert_trans {s t u : State} (h : s.keepsInert t) (g : t.keepsInert u) : s.keepsInert u := by
  obtain ⟨ha, hk⟩ := h
  obtain ⟨ga, gk⟩ := g
  refine ⟨ga.trans ha, fun k hlack hi => gk k ?_ (hk k hlack hi)⟩
  rw [State.hasChannel, ha]
  exact hlack

/-- A chain of changes. -/
theorem State.keepsInert_foldl {α : Type} (f : State → α → State) (hf : ∀ (s : State) (a : α), s.keepsInert (f s a)) (xs : List α) (s : State) :
    s.keepsInert (xs.foldl f s) := by
  induction xs generalizing s with
  | nil => exact State.keepsInert_rfl
  | cons x xs ih => exact State.keepsInert_trans (hf s x) (ih (f s x))

/-- From `s` to `t` the arrangement stands, and of every other channel than `k` what the invariant reads. -/
def State.worksOn (s t : State) (k : Channel) : Prop :=
  t.straps.arrangement = s.straps.arrangement ∧ ∀ j, j ≠ k → t.idle j = s.idle j

theorem State.worksOn_rfl {s : State} {k : Channel} : s.worksOn s k := ⟨rfl, fun _ _ => rfl⟩

theorem State.worksOn_trans {s t u : State} {k : Channel} (h : s.worksOn t k) (g : t.worksOn u k) : s.worksOn u k :=
  ⟨g.1.trans h.1, fun j hj => (g.2 j hj).trans (h.2 j hj)⟩

/-- Work on a channel of the arrangement concerns no absent one. -/
theorem State.keepsInert_of_works {s t : State} {k : Channel} (hk : s.hasChannel k = true) (h : s.worksOn t k) : s.keepsInert t :=
  State.keepsInert_of_idle h.1 fun j hj => h.2 j fun e => by rw [e, hk] at hj; cases hj

/-! ### Conditions, notices and faults -/

@[simp] theorem Cond.channel_ofChannel (k : Channel) (i : Fin 9) : Cond.channel (Cond.ofChannel k i) = some k := by
  unfold Cond.channel Cond.ofChannel
  rw [if_neg (by dsimp only; omega), Option.some.injEq, Fin.ext_iff]
  simp only
  omega

/-- Latches that stand but for conditions of channel `k`, or of none. -/
theorem State.idle_latches {s : State} {b : BitVec 45} {ns : List Notice} {fs : List FaultRecord} {o : Bool} {j : Channel}
    (h : ∀ c, Cond.channel c = some j → b.getLsbD c = s.latches.getLsbD c) :
    ({ s with latches := b, notices := ns, faults := fs, overflow := o } : State).idle j = s.idle j := by
  have hl : (fun c : Cond => decide (Cond.channel c = some j) && b.getLsbD c) =
      fun c : Cond => decide (Cond.channel c = some j) && s.latches.getLsbD c := by
    funext c
    by_cases hc : Cond.channel c = some j
    · rw [h c hc]
    · simp [hc]
  unfold State.idle
  rw [Idle.mk.injEq]
  exact ⟨rfl, rfl, rfl, rfl, rfl, rfl, rfl, rfl, rfl, rfl, rfl, rfl, rfl, rfl, rfl, hl⟩

/-- Raising a condition changes what the invariant reads of its own channel alone. -/
theorem State.raise_idle (s : State) (c : Cond) {j : Channel} (h : Cond.channel c ≠ some j) : (s.raise c).idle j = s.idle j := by
  obtain ⟨b, ns, he, hb⟩ := s.raise_eq c
  rw [he]
  refine State.idle_latches (fs := s.faults) (o := s.overflow) fun d hd => ?_
  have hne : d ≠ c := fun e => h (e ▸ hd)
  rw [hb d, decide_eq_false hne, Bool.false_or]

theorem State.raise_straps (s : State) (c : Cond) : (s.raise c).straps = s.straps := by
  obtain ⟨ns, h⟩ := s.raise_spec c
  rw [h]

theorem State.raise_worksOn (s : State) {c : Cond} {k : Channel} (h : Cond.channel c = some k) : s.worksOn (s.raise c) k :=
  ⟨by rw [State.raise_straps], fun _ hj => s.raise_idle c fun e => hj (Option.some.inj (e.symm.trans h))⟩

theorem State.raise_idle_global (s : State) {c : Cond} (h : Cond.channel c = none) : (s.raise c).idle = s.idle :=
  funext fun _ => s.raise_idle c (by simp [h])

theorem State.raise_keepsInert (s : State) {c : Cond} (h : Cond.channel c = none) : s.keepsInert (s.raise c) :=
  State.keepsInert_same (by rw [State.raise_straps]) (s.raise_idle_global h)

/-- Conditions of channels of the arrangement raised. -/
theorem State.raiseAll_keepsInert {s : State} {cs : List Cond} (h : ∀ c ∈ cs, ∃ k, Cond.channel c = some k ∧ s.hasChannel k = true) :
    s.keepsInert (s.raiseAll cs) := by
  induction cs generalizing s with
  | nil => exact State.keepsInert_rfl
  | cons c cs ih =>
    obtain ⟨k, hc, hk⟩ := h c (List.mem_cons_self ..)
    refine State.keepsInert_trans (State.keepsInert_of_works hk (s.raise_worksOn hc)) (ih fun d hd => ?_)
    obtain ⟨j, hd', hj⟩ := h d (List.mem_cons_of_mem _ hd)
    exact ⟨j, hd', by rw [State.hasChannel, State.raise_straps]; exact hj⟩

@[simp] theorem State.recordFaults_idle (s : State) (fs : List FaultRecord) : (s.recordFaults fs).idle = s.idle := by
  obtain ⟨gs, o, b, ns, h, hb⟩ := s.recordFaults_eq fs
  rw [h]
  exact funext fun j => State.idle_latches fun c hc => hb c fun e => by rw [e] at hc; cases hc

@[simp] theorem State.recordFaults_straps (s : State) (fs : List FaultRecord) : (s.recordFaults fs).straps = s.straps := by
  obtain ⟨gs, o, l, ns, h⟩ := s.recordFaults_spec fs
  rw [h]

theorem State.recordFaults_keepsInert (s : State) (fs : List FaultRecord) : s.keepsInert (s.recordFaults fs) :=
  State.keepsInert_same (by simp) (by simp)

theorem State.recordFaults_worksOn (s : State) (k : Channel) (fs : List FaultRecord) : s.worksOn (s.recordFaults fs) k :=
  ⟨by simp, fun j _ => congrFun (s.recordFaults_idle fs) j⟩

theorem State.levelNotices_keepsInert (s before : State) : s.keepsInert (s.levelNotices before) := by
  obtain ⟨ns, h⟩ := s.levelNotices_spec before
  rw [h]
  exact State.keepsInert_same rfl rfl

theorem State.setEnables_keepsInert (s : State) (new : BitVec 45) : s.keepsInert (s.setEnables new) := by
  obtain ⟨ns, h⟩ := s.setEnables_spec new
  rw [h]
  exact State.keepsInert_same rfl rfl

theorem State.runStore_keepsInert (s : State) (n : Nat) : s.keepsInert (s.runStore n) :=
  State.keepsInert_trans (State.keepsInert_same rfl rfl) (State.recordFaults_keepsInert _ _)

/-! ### Work on one channel's units -/

theorem State.idle_units {s t : State} {j : Channel} (hr : ∀ i, ((t.rings.get j).slots.get i).state = ((s.rings.get j).slots.get i).state)
    (hin : t.inputs.get j = s.inputs.get j) (ho : t.outputs.get j = s.outputs.get j) (hw : t.warps.get j = s.warps.get j)
    (hl : t.lights.get j = s.lights.get j) (hloss : t.loss = s.loss) (hu : t.tables.unfit = s.tables.unfit)
    (hc : t.coh.channelShown = s.coh.channelShown) (hlat : t.latches = s.latches) : t.idle j = s.idle j := by
  unfold State.idle
  rw [hin, ho, hw, hl, hloss, hu, hc, hlat]
  simp only [hr]

theorem State.setWarp_worksOn (s : State) (k : Channel) (w : WarpUnit) : s.worksOn (s.setWarp k w) k :=
  ⟨rfl, fun _ hj => State.idle_units (fun _ => rfl) rfl rfl (Quad.get_set_other _ _ hj) rfl rfl rfl rfl rfl⟩

theorem State.setLight_worksOn (s : State) (k : Channel) (l : LightUnit) : s.worksOn (s.setLight k l) k :=
  ⟨rfl, fun _ hj => State.idle_units (fun _ => rfl) rfl rfl rfl (Quad.get_set_other _ _ hj) rfl rfl rfl rfl⟩

theorem State.setOutput_worksOn (s : State) (k : Channel) (p : OutputPort) : s.worksOn (s.setOutput k p) k :=
  ⟨rfl, fun _ hj => State.idle_units (fun _ => rfl) rfl (Quad.get_set_other _ _ hj) rfl rfl rfl rfl rfl rfl⟩

theorem State.setRing_worksOn (s : State) (k : Channel) (r : SlotRing) : s.worksOn (s.setRing k r) k :=
  ⟨rfl, fun _ hj => State.idle_units (fun _ => by rw [show (s.setRing k r).rings = s.rings.set k r from rfl, Quad.get_set_other _ _ hj]) rfl rfl rfl rfl rfl rfl rfl rfl⟩

theorem State.setInput_worksOn (s : State) (k : Channel) (p : InputPort) : s.worksOn (s.setInput k p) k :=
  ⟨rfl, fun _ hj => State.idle_units (fun _ => rfl) (Quad.get_set_other _ _ hj) rfl rfl rfl rfl rfl rfl rfl⟩

theorem State.stopChannel_worksOn (s : State) (k : Channel) : s.worksOn (s.stopChannel k) k :=
  State.worksOn_trans (s.setWarp_worksOn k _) (State.setLight_worksOn _ k _)

theorem State.movePort_worksOn (s : State) (k : Channel) (m : OutputPort × Bool) : s.worksOn (s.movePort k m) k := by
  have hstop : s.worksOn (if ((s.outputs.get k).state == .active && (m.1.state != .active || m.2)) = true
      then (s.setOutput k m.1).stopChannel k else s.setOutput k m.1) k := by
    split
    · exact State.worksOn_trans (s.setOutput_worksOn k _) (State.stopChannel_worksOn _ k)
    · exact s.setOutput_worksOn k _
  unfold State.movePort
  dsimp only
  split
  · exact State.worksOn_trans hstop (State.raise_worksOn _ (Cond.channel_ofChannel k 0))
  · exact hstop

/-! ### Work on a pixel -/

theorem State.handPixel_worksOn (s : State) (k : Channel) (walk : Walk) (how : Handed) : s.worksOn (s.handPixel k walk how) k :=
  State.worksOn_trans (s.setWarp_worksOn k _) (State.setLight_worksOn _ k _)

theorem State.samplePixel_worksOn (s : State) (k : Channel) (walk : Walk) (slot : SlotNo) (x : Slot) (p : WaitingPixel) :
    s.worksOn (s.samplePixel k walk slot x p) k := by
  unfold State.samplePixel
  dsimp only
  split
  · exact State.worksOn_trans (s.recordFaults_worksOn k _) (State.handPixel_worksOn _ k walk _)
  · exact State.worksOn_rfl

theorem State.lookUp_worksOn (s : State) (k : Channel) (ts : List Tag) : s.worksOn (s.lookUp k ts).1 k := by
  unfold State.lookUp
  split
  · exact State.worksOn_rfl
  · exact State.worksOn_trans (s.setWarp_worksOn k _) (State.recordFaults_worksOn _ k _)

theorem State.allocateAnew_worksOn (s : State) (k : Channel) (ts : List Tag) : s.worksOn (s.allocateAnew k ts).1 k := by
  unfold State.allocateAnew
  split
  · exact State.worksOn_rfl
  · split
    · exact State.worksOn_trans (s.setWarp_worksOn k _) (State.lookUp_worksOn _ k _)
    · exact State.worksOn_rfl

theorem State.refetches_worksOn (k : Channel) (ts : List Tag) (s : State) :
    s.worksOn (ts.foldl (fun s t => s.refetch k t) s) k := by
  induction ts generalizing s with
  | nil => exact State.worksOn_rfl
  | cons t ts ih =>
    exact State.worksOn_trans (State.worksOn_trans (s.setWarp_worksOn k _) (State.recordFaults_worksOn _ k [_])) (ih _)

theorem State.readTiles_worksOn (s : State) (k : Channel) (walk : Walk) (slot : SlotNo) (x : Slot) (p : WaitingPixel) :
    s.worksOn (s.readTiles k walk slot x p) k := by
  unfold State.readTiles
  split
  · exact s.samplePixel_worksOn k walk slot x p
  · exact State.worksOn_trans (State.refetches_worksOn k _ s) (State.setWarp_worksOn _ k _)

theorem State.settlePixel_worksOn (s : State) (k : Channel) (walk : Walk) (slot : SlotNo) (x : Slot) (p : WaitingPixel)
    (todo : List Tag) : s.worksOn (s.settlePixel k walk slot x p todo) k := by
  unfold State.settlePixel
  dsimp only
  split
  · exact s.setWarp_worksOn k _
  · split
    · exact s.setWarp_worksOn k _
    · split
      · exact s.readTiles_worksOn k walk slot x p
      · exact State.worksOn_trans (s.lookUp_worksOn k _) (State.setWarp_worksOn _ k _)

theorem State.seekPixel_worksOn (s : State) (k : Channel) (walk : Walk) (p : WaitingPixel) (look : List Tag → State × List Tag)
    (h : ∀ ts, s.worksOn (look ts).1 k) : s.worksOn (s.seekPixel k walk p look) k := by
  unfold State.seekPixel
  split
  · exact s.setWarp_worksOn k _
  · dsimp only
    split
    · exact s.handPixel_worksOn k walk _
    · exact State.worksOn_trans (h _) (State.settlePixel_worksOn _ k walk _ _ p _)

theorem State.resumePixel_worksOn (s : State) (k : Channel) : s.worksOn (s.resumePixel k) k := by
  unfold State.resumePixel
  repeat' split
  · exact State.worksOn_rfl
  · exact State.worksOn_rfl
  · exact s.seekPixel_worksOn k _ _ _ fun _ => s.allocateAnew_worksOn k _
  · exact State.worksOn_rfl

theorem State.placePixel_worksOn (s : State) (k : Channel) (walk : Walk) (m : TableRecord) (x : Slot) :
    s.worksOn (s.placePixel k walk m x) k := by
  have hseek : ∀ (t : State) (p : WaitingPixel), t.worksOn (t.seekPixel k walk p (t.lookUp k)) k :=
    fun t p => t.seekPixel_worksOn k walk p _ fun ts => t.lookUp_worksOn k ts
  unfold State.placePixel
  dsimp only
  split
  · exact State.worksOn_trans (State.worksOn_trans (s.setWarp_worksOn k _) (State.raise_worksOn _ (Cond.channel_ofChannel k 5)))
      (hseek _ _)
  · exact hseek _ _

theorem State.newPixel_worksOn (s : State) (k : Channel) (walk : Walk) (m : TableRecord) (params : FrameParameters) :
    s.worksOn (s.newPixel k walk m params) k := by
  unfold State.newPixel
  dsimp only
  refine State.worksOn_trans (s.recordFaults_worksOn k (m.parityFaults (s.shownFrame k) (m.cornerReads walk.col walk.line))) ?_
  generalize s.recordFaults (m.parityFaults (s.shownFrame k) (m.cornerReads walk.col walk.line)) = t
  repeat' split
  · exact t.handPixel_worksOn k walk _
  · exact t.handPixel_worksOn k walk _
  · exact State.worksOn_rfl
  · exact t.placePixel_worksOn k walk m _

theorem State.warpPixel_worksOn (s : State) (k : Channel) (walk : Walk) : s.worksOn (s.warpPixel k walk) k := by
  unfold State.warpPixel
  repeat' split
  · exact State.worksOn_rfl
  · exact s.newPixel_worksOn k walk _ _
  · exact State.worksOn_rfl
  · exact State.worksOn_rfl

end Sys2Proof.Machine
end

section
/-! SUPPORT. The commands of the engine, the loader, the links and the ring keep absent channels inert (R137, R138). -/

namespace Sys2Proof.Machine

/-! ### Serving -/

/-- Serving keeps absent channels inert where the command does. -/
theorem State.serve_keepsInert {s : State} {mine : Cell → Bool} {command : Cell → State → Answer}
    (hc : ∀ (c : Cell) (t : State), t.keepsInert (command c t).state) : Leaves (.next (s.serve mine command)) s.keepsInert :=
  State.serve_leaves (fun _ _ h => State.keepsInert_trans h (State.keepsInert_same rfl rfl))
    (fun _ _ h => State.keepsInert_trans h (State.keepsInert_same rfl rfl)) (fun c t h => State.keepsInert_trans h (hc c t))
    State.keepsInert_rfl

theorem State.identifyCommand_keepsInert (c : Cell) (s : State) : s.keepsInert (s.identifyCommand c).state := by
  unfold State.identifyCommand
  split <;> exact State.keepsInert_rfl

theorem State.statusCommand_keepsInert (c : Cell) (s : State) : s.keepsInert (s.statusCommand c).state := by
  unfold State.statusCommand
  split <;> exact State.keepsInert_rfl

theorem State.storeSetting_keepsInert (s : State) (id : SettingId) (k : Channel) (v : Nat) :
    s.keepsInert (s.storeSetting id k v) := by
  unfold State.storeSetting
  split
  · exact s.setEnables_keepsInert _
  · exact State.keepsInert_same rfl rfl

theorem State.setCommand_keepsInert (c : Cell) (s : State) : s.keepsInert (s.setCommand c).state := by
  unfold State.setCommand
  split
  · exact State.keepsInert_rfl
  · exact s.storeSetting_keepsInert _ _ _

theorem State.getCommand_keepsInert (c : Cell) (s : State) : s.keepsInert (s.getCommand c).state := by
  unfold State.getCommand
  split <;> exact State.keepsInert_rfl

/-- A CLEAR sets no latch. -/
theorem State.clearCommand_keepsInert (c : Cell) (s : State) : s.keepsInert (s.clearCommand c).state := by
  unfold State.clearCommand
  split
  · exact State.keepsInert_rfl
  · refine ⟨rfl, fun k _ h => { h with latched := fun d => ?_ }⟩
    have hd : (decide (Cond.channel d = some k) && s.latches.getLsbD d) = false := h.latched d
    rw [Bool.and_eq_false_iff] at hd
    refine Bool.and_eq_false_iff.2 (hd.imp_right fun hl => ?_)
    unfold State.clearConditions
    rw [BitVec.getLsbD_and, hl, Bool.false_and]

theorem State.faultReadCommand_keepsInert (c : Cell) (s : State) : s.keepsInert (s.faultReadCommand c).state := by
  unfold State.faultReadCommand
  repeat' split
  all_goals exact State.keepsInert_same rfl rfl

/-- RESTART OUTPUT moves a port of the arrangement alone. -/
theorem State.restartCommand_keepsInert (c : Cell) (s : State) : s.keepsInert (s.restartCommand c).state := by
  unfold State.restartCommand
  split
  · exact State.keepsInert_rfl
  split
  · exact State.keepsInert_rfl
  split
  · exact State.keepsInert_rfl
  rename_i k _ hk
  split
  · exact State.keepsInert_rfl
  · exact State.keepsInert_of_works (by simpa [State.hasOutput] using hk) (s.movePort_worksOn k _)

theorem State.resetFullCommand_keepsInert (c : Cell) (s : State) : s.keepsInert (s.resetFullCommand c).state := by
  unfold State.resetFullCommand
  split <;> exact State.keepsInert_same rfl rfl

theorem State.openCommand_keepsInert (c : Cell) (s : State) : s.keepsInert (s.openCommand c).state := by
  unfold State.openCommand
  dsimp only
  repeat' split
  all_goals exact State.keepsInert_same rfl rfl

theorem State.writeCommand_keepsInert (c : Cell) (s : State) : s.keepsInert (s.writeCommand c).state := by
  unfold State.writeCommand
  dsimp only
  repeat' split
  all_goals exact State.keepsInert_same rfl rfl

theorem State.readCommand_keepsInert (c : Cell) (s : State) : s.keepsInert (s.readCommand c).state := by
  unfold State.readCommand
  dsimp only
  repeat' split
  · exact State.keepsInert_rfl
  · exact State.keepsInert_rfl
  · exact State.keepsInert_rfl
  · exact State.keepsInert_rfl
  · exact State.keepsInert_rfl
  · exact State.keepsInert_rfl
  · exact s.recordFaults_keepsInert _
  · exact State.keepsInert_rfl

theorem State.sealCommand_keepsInert (c : Cell) (s : State) : s.keepsInert (s.sealCommand c).state := by
  unfold State.sealCommand
  repeat' split
  all_goals exact State.keepsInert_same rfl rfl

theorem State.dropStaged_keepsInert (key : Key) (s : State) : s.keepsInert (s.dropStaged key).state := by
  unfold State.dropStaged
  repeat' split
  all_goals exact State.keepsInert_same rfl rfl

theorem State.dropLive_keepsInert (key : Key) (s : State) : s.keepsInert (s.dropLive key).state := by
  unfold State.dropLive
  repeat' split
  all_goals exact State.keepsInert_same rfl rfl

theorem State.dropCommand_keepsInert (c : Cell) (s : State) : s.keepsInert (s.dropCommand c).state := by
  unfold State.dropCommand
  repeat' split
  · exact State.keepsInert_rfl
  · exact State.keepsInert_rfl
  · exact s.dropStaged_keepsInert _
  · exact s.dropLive_keepsInert _
  · exact State.keepsInert_rfl

theorem State.swapCommand_keepsInert (c : Cell) (s : State) : s.keepsInert (s.swapCommand c).state := by
  unfold State.swapCommand
  dsimp only
  repeat' split
  all_goals exact State.keepsInert_same rfl rfl

theorem State.listCommand_keepsInert (c : Cell) (s : State) : s.keepsInert (s.listCommand c).state := by
  unfold State.listCommand
  dsimp only
  repeat' split
  all_goals exact State.keepsInert_same rfl rfl

theorem State.storeCommand_keepsInert (c : Cell) (s : State) : s.keepsInert (s.storeCommand c).state := by
  unfold State.storeCommand
  repeat' split
  all_goals exact State.keepsInert_same rfl rfl

theorem State.loadCommand_keepsInert (c : Cell) (s : State) : s.keepsInert (s.loadCommand c).state := by
  unfold State.loadCommand
  dsimp only
  split
  · exact State.keepsInert_rfl
  split
  · exact State.keepsInert_rfl
  split
  · exact State.keepsInert_rfl
  split
  · exact s.recordFaults_keepsInert [imageCheckFault]
  split
  · exact State.keepsInert_trans (State.keepsInert_same rfl rfl) (State.recordFaults_keepsInert _ [imageCheckFault])
  repeat' split
  all_goals exact State.keepsInert_same rfl rfl

/-! ### The image loader and the default fill -/

theorem State.applyRecord_keepsInert (s : State) (rec : Bytes) : s.keepsInert (s.applyRecord rec) := by
  unfold State.applyRecord
  repeat' split
  · exact State.keepsInert_rfl
  · exact s.storeSetting_keepsInert _ _ _
  · exact State.keepsInert_rfl
  · exact State.keepsInert_rfl
  · exact s.storeSetting_keepsInert _ _ _

theorem State.loadLive_keepsInert (s : State) (t : ImageTable) : s.keepsInert (s.loadLive t) := by
  unfold State.loadLive
  repeat' split
  all_goals exact State.keepsInert_same rfl rfl

theorem State.applyTables_keepsInert (s : State) : s.keepsInert s.applyTables := by
  unfold State.applyTables
  split
  · exact State.keepsInert_rfl
  · exact State.keepsInert_foldl _ State.loadLive_keepsInert _ s

theorem execStartupHeaderReadDone_keepsInert (s : State) : Leaves (execStartupHeaderReadDone s) s.keepsInert := by
  unfold execStartupHeaderReadDone
  repeat' split
  all_goals exact leaves_next.2 (State.keepsInert_same rfl rfl)

theorem execImageCheckReadDone_keepsInert (s : State) : Leaves (execImageCheckReadDone s) s.keepsInert := by
  unfold execImageCheckReadDone
  repeat' split
  · exact leaves_next.2 (State.keepsInert_trans (State.keepsInert_same rfl rfl)
      (State.keepsInert_foldl _ State.applyRecord_keepsInert _ _))
  · exact leaves_next.2 (State.keepsInert_trans (State.keepsInert_same rfl rfl) (State.recordFaults_keepsInert _ [imageCheckFault]))
  · exact leaves_next.2 State.keepsInert_rfl

theorem execStartupLoadDone_keepsInert (s : State) : Leaves (execStartupLoadDone s) s.keepsInert := by
  unfold execStartupLoadDone
  split
  · exact leaves_next.2 (State.keepsInert_trans s.applyTables_keepsInert (State.keepsInert_same rfl rfl))
  · exact leaves_next.2 State.keepsInert_rfl

theorem execDefaultFillPageDone_keepsInert (s : State) : Leaves (execDefaultFillPageDone s) s.keepsInert := by
  unfold execDefaultFillPageDone State.fillPageDone
  repeat' split
  all_goals exact leaves_next.2 (State.keepsInert_same rfl rfl)

theorem State.enqueueCompletion_keepsInert (s : State) (c : Completion) : s.keepsInert (s.enqueueCompletion c).1 := by
  unfold State.enqueueCompletion
  repeat' split
  all_goals exact State.keepsInert_same rfl rfl

theorem execCompletionEnqueue_keepsInert (op : OpRecord) (s : State) : Leaves (execCompletionEnqueue op s) s.keepsInert := by
  unfold execCompletionEnqueue
  split
  · split
    · exact leaves_next.2 State.keepsInert_rfl
    · rename_i c _
      show Leaves (.next (if (s.enqueueCompletion c).2 = true then _ else (s.enqueueCompletion c).1)) _
      refine leaves_next.2 (State.keepsInert_trans (s.enqueueCompletion_keepsInert c) ?_)
      split <;> exact State.keepsInert_same rfl rfl
  · split
    · exact leaves_next.2 State.keepsInert_rfl
    · rename_i c _
      show Leaves (.next (if (s.enqueueCompletion c).2 = true then _ else (s.enqueueCompletion c).1)) _
      refine leaves_next.2 (State.keepsInert_trans (s.enqueueCompletion_keepsInert c) ?_)
      split <;> exact State.keepsInert_same rfl rfl

/-- Storage goes bad in entries that exist: a cache without entries stays so. -/
theorem State.upset_keepsInert (s : State) (u : Upset) : s.keepsInert (s.upset u) := by
  have hcache : ∀ (k : Channel) (e : Nat) (f : TileEntry → TileEntry),
      s.keepsInert (s.setWarp k { s.warps.get k with cache := Assoc.modify (s.warps.get k).cache e f }) := by
    intro k e f
    refine ⟨rfl, fun j _ h => ?_⟩
    by_cases hj : j = k
    · subst hj
      have hc : (s.warps.get j).cache = [] := h.cache
      have hw : (s.warps.get j).walk = none := h.walk
      exact { h with
        walk := by simpa [State.idle] using hw
        cache := by simp [State.idle, hc, Assoc.modify] }
    · rw [(s.setWarp_worksOn k _).2 j hj]
      exact h
  cases u with
  | pool n e => exact State.keepsInert_same rfl rfl
  | tileTag k e => exact hcache k e _
  | tileData k e => exact hcache k e _

theorem State.upsets_keepsInert (s : State) (us : List Upset) : s.keepsInert (s.upsets us) :=
  State.keepsInert_foldl _ State.upset_keepsInert us s

theorem execStorePhaseDone_keepsInert (us : List Upset) (s : State) : Leaves (execStorePhaseDone us s) s.keepsInert := by
  unfold execStorePhaseDone
  dsimp only
  have hu := s.upsets_keepsInert us
  have hrun := State.keepsInert_trans hu ((s.upsets us).runStore_keepsInert (jobUnits (s.upsets us).storeJobs))
  repeat' split
  · exact leaves_next.2 (State.keepsInert_trans hrun (State.keepsInert_same rfl rfl))
  · exact leaves_next.2 (State.keepsInert_trans hrun (State.keepsInert_same rfl rfl))
  · exact leaves_next.2 hu

theorem execFlashWriteFailed_keepsInert (done : Nat) (s : State) : Leaves (execFlashWriteFailed done s) s.keepsInert := by
  unfold execFlashWriteFailed
  split
  · exact leaves_next.2 (State.keepsInert_trans (State.keepsInert_trans (s.runStore_keepsInert done)
      (State.recordFaults_keepsInert _ [flashWriteFault])) (State.keepsInert_same rfl rfl))
  · exact leaves_next.2 State.keepsInert_rfl

theorem execLoadReadDone_keepsInert (s : State) : Leaves (execLoadReadDone s) s.keepsInert := by
  unfold execLoadReadDone
  repeat' split
  · exact leaves_next.2 (State.keepsInert_same rfl rfl)
  · exact leaves_next.2 (State.keepsInert_trans (State.keepsInert_same rfl rfl) (State.recordFaults_keepsInert _ [imageCheckFault]))
  · exact leaves_next.2 State.keepsInert_rfl

/-! ### Links and records -/

/-- Work on a channel that the arrangement has, or on one that stays inert. -/
theorem State.keepsInert_of_worksOn {s t : State} {k : Channel} (h : s.worksOn t k)
    (hk : s.hasChannel k = false → (s.idle k).Inert → (t.idle k).Inert) : s.keepsInert t := by
  refine ⟨h.1, fun j hlack hj => ?_⟩
  by_cases hjk : j = k
  · subst hjk
    exact hk hlack hj
  · rw [h.2 j hjk]
    exact hj

/-- A change of a link's own record that keeps the frame in progress. -/
theorem State.setInput_keepsInert (s : State) (k : Channel) {p : InputPort} (hp : p.progress = (s.inputs.get k).progress) :
    s.keepsInert (s.setInput k p) := by
  refine State.keepsInert_of_worksOn (s.setInput_worksOn k p) fun _ h => { h with progress := ?_ }
  have hprog : (s.inputs.get k).progress = .none := h.progress
  simpa [State.idle, State.setInput, hp] using hprog

theorem execInputCarrierDetected_keepsInert (k : Channel) (s : State) : Leaves (execInputCarrierDetected k s) s.keepsInert := by
  unfold execInputCarrierDetected
  split
  · exact leaves_next.2 (s.setInput_keepsInert k rfl)
  · exact leaves_next.2 State.keepsInert_rfl
  · exact leaves_next.2 State.keepsInert_rfl

theorem execInputTrainingDone_keepsInert (k : Channel) (s : State) : Leaves (execInputTrainingDone k s) s.keepsInert := by
  unfold execInputTrainingDone
  split
  · exact leaves_next.2 (s.setInput_keepsInert k rfl)
  · exact leaves_next.2 State.keepsInert_rfl
  · exact leaves_next.2 State.keepsInert_rfl

theorem State.take_worksOn (s : State) (k : Channel) (r : Received) : s.worksOn (s.take k r) k := by
  have hraise : ∀ (cs : List (Fin 9)) (t : State), t.worksOn (t.raiseAll (cs.map fun i => Cond.ofChannel k i)) k := by
    intro cs
    induction cs with
    | nil => exact fun t => State.worksOn_rfl
    | cons i cs ih => exact fun t => State.worksOn_trans (t.raise_worksOn (Cond.channel_ofChannel k i)) (ih _)
  exact State.worksOn_trans (State.worksOn_trans (s.setInput_worksOn k _) (State.setRing_worksOn _ k _)) (hraise _ _)

/-- The loss of a link of an absent channel abandons no frame. -/
theorem State.loseLink_keepsInert (s : State) (k : Channel) : s.keepsInert (s.loseLink k) := by
  unfold State.loseLink
  dsimp only
  refine State.keepsInert_trans ?_ (State.levelNotices_keepsInert _ s)
  refine State.keepsInert_trans (t := s.take k _) ?_ (State.keepsInert_same rfl rfl)
  refine State.keepsInert_of_worksOn (s.take_worksOn k _) fun _ h => ?_
  have hprog : (s.inputs.get k).progress = .none := h.progress
  have hslots : ∀ i, ((s.rings.get k).slots.get i).state = .empty := h.slots
  have hcut : abandonFrame (s.inputs.get k) (s.rings.get k) .linkLost =
      ⟨{ s.inputs.get k with progress := .none }, s.rings.get k, []⟩ := by
    unfold abandonFrame
    rw [hprog]
  rw [hcut]
  exact { h with
    progress := by simp [State.take, State.idle, State.setInput, State.setRing]
    slots := fun i => by simpa [State.take, State.idle, State.setInput, State.setRing] using hslots i }

theorem execInputLinkLost_keepsInert (k : Channel) (s : State) : Leaves (execInputLinkLost k s) s.keepsInert := by
  unfold execInputLinkLost
  split
  · exact leaves_next.2 State.keepsInert_rfl
  · exact leaves_next.2 (s.loseLink_keepsInert k)
  · exact leaves_next.2 (s.loseLink_keepsInert k)

/-- A port that takes frame records is of the arrangement (R74). -/
theorem State.takesFrames_channel {s : State} {k : Channel} (h : s.takesFrames k = true) : s.hasChannel k = true := by
  rw [State.takesFrames, Bool.and_eq_true] at h
  exact h.1

theorem execFrameOpen_keepsInert (k : Channel) (record : Bytes) (s : State) : Leaves (execFrameOpen k record s) s.keepsInert := by
  unfold execFrameOpen
  split
  · rename_i hk _
    exact leaves_next.2 (State.keepsInert_trans (State.keepsInert_of_works (State.takesFrames_channel hk) (s.take_worksOn k _))
      (State.keepsInert_same rfl rfl))
  · exact leaves_next.2 State.keepsInert_rfl

theorem execLine_keepsInert (k : Channel) (record : Bytes) (s : State) : Leaves (execLine k record s) s.keepsInert := by
  unfold execLine
  split
  · rename_i hk _
    exact leaves_next.2 (State.keepsInert_of_works (State.takesFrames_channel hk) (s.setRing_worksOn k _))
  · exact leaves_next.2 State.keepsInert_rfl

theorem execFrameClose_keepsInert (k : Channel) (record : Bytes) (s : State) :
    Leaves (execFrameClose k record s) s.keepsInert := by
  unfold execFrameClose
  split
  · rename_i hk _
    exact leaves_next.2 (State.keepsInert_of_works (State.takesFrames_channel hk) (s.take_worksOn k _))
  · exact leaves_next.2 State.keepsInert_rfl

theorem execCell_keepsInert (k : Channel) (record : Bytes) (s : State) : Leaves (execCell k record s) s.keepsInert := by
  unfold execCell State.takeCell
  repeat' split
  · exact leaves_next.2 (s.raise_keepsInert rfl)
  · exact leaves_next.2 (State.keepsInert_same rfl rfl)
  · exact leaves_next.2 (s.raise_keepsInert rfl)
  · exact leaves_next.2 State.keepsInert_rfl

theorem execReverseLaneSend_keepsInert (k : Channel) (s : State) : Leaves (execReverseLaneSend k s) s.keepsInert := by
  unfold execReverseLaneSend State.beginSending
  dsimp only
  repeat' split
  all_goals exact leaves_next.2 (State.keepsInert_same rfl rfl)

theorem execReverseSendEnd_keepsInert (k : Channel) (s : State) : Leaves (execReverseSendEnd k s) s.keepsInert := by
  unfold execReverseSendEnd
  dsimp only
  split <;> exact leaves_next.2 (State.keepsInert_same rfl rfl)

/-! ### The coherence unit and the ring -/

/-- A reservation request changes no slot's state. -/
theorem State.reserve_idle (s : State) (f : Option FrameNo) : (s.reserve f).idle = s.idle := by
  funext k
  refine State.idle_units (fun i => ?_) rfl rfl rfl rfl rfl rfl rfl rfl
  unfold State.reserve
  rw [Quad.get_of]
  split
  · rw [SlotRing.reserve_slot]
  · rfl

theorem State.reserve_keepsInert (s : State) (f : Option FrameNo) : s.keepsInert (s.reserve f) :=
  State.keepsInert_same rfl (s.reserve_idle f)

theorem State.closeMasterRound_keepsInert (s : State) (r : Round) (ready : Bool) (v : Vec32) :
    s.keepsInert (s.closeMasterRound r ready v) := by
  obtain ⟨x, h, -⟩ := s.closeMasterRound_spec r ready v
  rw [h]
  exact State.keepsInert_same rfl rfl

theorem State.musterPoint_keepsInert (s : State) : s.keepsInert s.musterPoint := by
  unfold State.musterPoint
  split
  · exact State.keepsInert_trans (State.keepsInert_trans (State.keepsInert_same rfl rfl) (State.reserve_keepsInert _ _))
      (State.keepsInert_same rfl rfl)
  · exact State.keepsInert_trans (State.keepsInert_trans (State.keepsInert_same rfl rfl) (State.reserve_keepsInert _ _))
      (State.keepsInert_same rfl rfl)
  · unfold State.followerMuster
    dsimp only
    split <;> exact State.keepsInert_same rfl rfl

theorem State.frameEndRound_keepsInert (s : State) : s.keepsInert s.frameEndRound := by
  unfold State.frameEndRound
  split
  · exact s.closeMasterRound_keepsInert _ _ _
  · exact State.keepsInert_rfl

theorem execMusterHandle_keepsInert (token : Bytes) (s : State) : Leaves (execMusterHandle token s) s.keepsInert := by
  unfold execMusterHandle
  split
  · exact leaves_next.2 (State.keepsInert_trans (s.reserve_keepsInert _) (State.keepsInert_same rfl rfl))
  · exact leaves_next.2 State.keepsInert_rfl

theorem execMusterReturn_keepsInert (token : Bytes) (s : State) : Leaves (execMusterReturn token s) s.keepsInert := by
  unfold execMusterReturn State.musterReturned
  repeat' split
  · exact leaves_next.2 State.keepsInert_rfl
  · exact leaves_next.2 State.keepsInert_rfl
  · exact leaves_next.2 (State.keepsInert_trans (State.keepsInert_same rfl rfl) (State.closeMasterRound_keepsInert _ _ _ _))
  · exact leaves_next.2 (State.keepsInert_trans (s.recordFaults_keepsInert [_]) (State.closeMasterRound_keepsInert _ _ _ _))
  · exact leaves_next.2 State.keepsInert_rfl

theorem execShowHandle_keepsInert (token : Bytes) (s : State) : Leaves (execShowHandle token s) s.keepsInert := by
  unfold execShowHandle State.showHandled
  dsimp only
  repeat' split
  all_goals exact leaves_next.2 (State.keepsInert_same rfl rfl)

theorem execShowReturn_keepsInert (token : Bytes) (s : State) : Leaves (execShowReturn token s) s.keepsInert := by
  unfold execShowReturn State.showReturned
  dsimp only
  repeat' split
  all_goals exact leaves_next.2 (State.keepsInert_same rfl rfl)

end Sys2Proof.Machine
end

section
/-! SUPPORT. Ports, units, line deadlines, frame starts and resets keep absent channels inert (R72, R137, R138, R149), and with
that every step does. -/

namespace Sys2Proof.Machine

/-! ### Output ports (R128 to R132, R137) -/

theorem State.advanceTo_keepsInert (s : State) (n : Nat) : s.keepsInert (s.advanceTo n) := State.keepsInert_same rfl rfl

/-- A port of the arrangement moved. -/
theorem State.movePort_keepsInert {s : State} {k : Channel} (hk : s.hasChannel k = true) (m : OutputPort × Bool) :
    s.keepsInert (s.movePort k m) := State.keepsInert_of_works hk (s.movePort_worksOn k m)

theorem execStatusReport_keepsInert (k : Channel) (locked : Bool) (s : State) : Leaves (execStatusReport k locked s) s.keepsInert := by
  unfold execStatusReport
  split
  · rename_i hk
    exact leaves_next.2 (State.movePort_keepsInert hk _)
  · exact leaves_next.2 State.keepsInert_rfl

theorem execReverseCarrierLost_keepsInert (k : Channel) (s : State) : Leaves (execReverseCarrierLost k s) s.keepsInert := by
  unfold execReverseCarrierLost
  split
  · rename_i hk
    exact leaves_next.2 (State.movePort_keepsInert hk _)
  · exact leaves_next.2 State.keepsInert_rfl

theorem execReportTimeout_keepsInert (k : Channel) (s : State) : Leaves (execReportTimeout k s) s.keepsInert := by
  unfold execReportTimeout
  split
  · rename_i hk _
    exact leaves_next.2 (State.keepsInert_trans (s.advanceTo_keepsInert (_ + Config.reportTimeoutTicks))
      (State.movePort_keepsInert (s := s.advanceTo _) hk _))
  · exact leaves_next.2 State.keepsInert_rfl

/-- A move of a port that was not ABSENT: an inert channel has no such port. -/
theorem State.movePort_keepsInert_of_port (s : State) {k : Channel} (n : Nat) (m : OutputPort × Bool)
    (hp : (s.outputs.get k).state ≠ .absent) : s.keepsInert ((s.advanceTo n).movePort k m) :=
  State.keepsInert_of_worksOn (State.worksOn_trans ⟨rfl, fun _ _ => rfl⟩ ((s.advanceTo n).movePort_worksOn k m))
    fun _ h => absurd h.port hp

theorem execSettleExpiry_keepsInert (k : Channel) (s : State) : Leaves (execSettleExpiry k s) s.keepsInert := by
  unfold execSettleExpiry
  dsimp only
  split
  · rename_i hp _
    exact leaves_next.2 (s.movePort_keepsInert_of_port _ _ (by simp [hp]))
  · exact leaves_next.2 State.keepsInert_rfl

theorem execRelockExpiry_keepsInert (k : Channel) (s : State) : Leaves (execRelockExpiry k s) s.keepsInert := by
  unfold execRelockExpiry
  dsimp only
  split
  · rename_i hp _
    exact leaves_next.2 (s.movePort_keepsInert_of_port _ _ (by simp [hp]))
  · exact leaves_next.2 State.keepsInert_rfl

/-! ### The warp and light units -/

/-- Work on a walk: an inert channel has none. -/
theorem State.keepsInert_of_walk {s t : State} {k : Channel} {w : Walk} (h : s.worksOn t k)
    (hw : (s.warps.get k).walk = some w) : s.keepsInert t :=
  State.keepsInert_of_worksOn h fun _ hi => by
    have hn : (s.warps.get k).walk = none := hi.walk
    cases hn.symm.trans hw

theorem State.resumePixel_keepsInert (s : State) (k : Channel) : s.keepsInert (s.resumePixel k) := by
  cases hw : (s.warps.get k).walk with
  | none =>
    have hr : s.resumePixel k = s := by rw [State.resumePixel, hw]
    rw [hr]
    exact State.keepsInert_rfl
  | some w => exact State.keepsInert_of_walk (s.resumePixel_worksOn k) hw

theorem execWarpLineBegin_keepsInert (k : Channel) (s : State) : Leaves (execWarpLineBegin k s) s.keepsInert := by
  unfold execWarpLineBegin
  dsimp only
  split
  · exact leaves_next.2 State.keepsInert_rfl
  · rename_i w hw
    split
    · exact leaves_next.2 (State.keepsInert_of_walk (s.setWarp_worksOn k _) hw)
    · exact leaves_next.2 State.keepsInert_rfl

theorem execWarpPixel_keepsInert (k : Channel) (us : List Upset) (s : State) : Leaves (execWarpPixel k us s) s.keepsInert := by
  unfold execWarpPixel
  dsimp only
  split
  · exact leaves_next.2 (s.upsets_keepsInert us)
  · rename_i w hw
    exact leaves_next.2 (State.keepsInert_trans (s.upsets_keepsInert us)
      (State.keepsInert_of_walk (State.warpPixel_worksOn _ k w) hw))

/-- Work on a cache that holds an entry: an inert channel's is empty. -/
theorem State.keepsInert_of_cache {s t : State} {k : Channel} {read : Nat} {e : TileEntry} (h : s.worksOn t k)
    (he : ownerOf (s.warps.get k).cache read = some e) : s.keepsInert t :=
  State.keepsInert_of_worksOn h fun _ hi => by
    have hn : (s.warps.get k).cache = [] := hi.cache
    rw [hn] at he
    cases he

theorem execTileFillComplete_keepsInert (k : Channel) (read : Nat) (us : List Upset) (s : State) :
    Leaves (execTileFillComplete k read us s) s.keepsInert := by
  unfold execTileFillComplete
  dsimp only
  split
  · exact leaves_next.2 (s.upsets_keepsInert us)
  · rename_i e he
    refine leaves_next.2 (State.keepsInert_trans ?_ (State.resumePixel_keepsInert _ k))
    exact State.keepsInert_trans (State.keepsInert_of_cache (s.setWarp_worksOn k _) he) (State.upsets_keepsInert _ us)

theorem execTileFillTimeout_keepsInert (k : Channel) (read : Nat) (us : List Upset) (s : State) :
    Leaves (execTileFillTimeout k read us s) s.keepsInert := by
  unfold execTileFillTimeout
  dsimp only
  split
  · rename_i t o issued cancelled tb he
    refine leaves_next.2 (State.keepsInert_trans (State.keepsInert_trans (s.upsets_keepsInert us) ?_) (State.resumePixel_keepsInert _ k))
    refine State.keepsInert_of_cache (State.worksOn_trans (t := (s.upsets us).advanceTo (issued + Config.fillTimeoutTicks)) ⟨rfl, fun _ _ => rfl⟩ ?_) he
    exact State.worksOn_trans (State.setWarp_worksOn _ k _) (State.recordFaults_worksOn _ k [_])
  · exact leaves_next.2 (s.upsets_keepsInert us)
  · exact leaves_next.2 (s.upsets_keepsInert us)

theorem execLightPixelWrite_keepsInert (k : Channel) (us : List Upset) (s : State) :
    Leaves (execLightPixelWrite k us s) s.keepsInert := by
  unfold execLightPixelWrite
  dsimp only
  split
  · rename_i p rest params hheld _
    refine leaves_next.2 (State.keepsInert_trans (s.upsets_keepsInert us) (State.keepsInert_of_worksOn (k := k) ?_ fun _ hi => ?_))
    · exact State.worksOn_trans (State.setLight_worksOn _ k _) (State.recordFaults_worksOn _ k _)
    · have hn : ((s.upsets us).lights.get k).held = [] := hi.held
      cases hn.symm.trans hheld
  · exact leaves_next.2 (s.upsets_keepsInert us)

/-! ### Line deadlines (R23, R24, R127) -/

/-- At a deadline an inert channel hands no line, and has no walk to end. -/
theorem State.channelDeadline_keepsInert (s : State) (v : Nat) (k : Channel) : s.keepsInert (s.channelDeadline v k) := by
  obtain ⟨b, ns, h, hb⟩ := s.channelDeadline_eq v k
  rw [h]
  have hlate : Cond.channel (Cond.sourceLate k) = some k := Cond.channel_ofChannel k 6
  refine State.keepsInert_of_worksOn (k := k) ⟨rfl, fun j hj => ?_⟩ fun _ hi => ?_
  · refine (State.idle_latches (s := { s with
      outputs := s.outputs.set k (s.deadlinePort v k), warps := s.warps.set k (s.deadlineWarp v k)
      lights := s.lights.set k (s.deadlineLight v k) }) (fs := s.faults) (o := s.overflow) fun c hc => ?_).trans ?_
    · have hne : c ≠ Cond.sourceLate k := fun e => by
        rw [e, hlate] at hc
        exact hj (Option.some.inj hc).symm
      rw [hb c, decide_eq_false hne, Bool.false_and, Bool.false_or]
    · exact State.idle_units (fun _ => rfl) rfl (Quad.get_set_other _ _ hj) (Quad.get_set_other _ _ hj)
        (Quad.get_set_other _ _ hj) rfl rfl rfl rfl
  · have hform : (s.lights.get k).form = .noLines := hi.form
    have hwalk : (s.warps.get k).walk = none := hi.walk
    have hline : (s.lights.get k).lineFor s.timer.width v = none := by rw [LightUnit.lineFor, hform]
    have hlight : s.deadlineLight v k = s.lights.get k := by rw [State.deadlineLight, hline]
    have hnot : s.deadlineLate v k = false := by rw [State.deadlineLate, hline]
    have hlatch : b = s.latches := BitVec.eq_of_getLsbD_eq fun i hi' => by
      have := hb ⟨i, hi'⟩
      rwa [hnot, Bool.and_false, Bool.false_or] at this
    rw [hlatch, hlight]
    refine { hi with port := ?_, lock := ?_, walk := ?_, cache := ?_, form := ?_, held := ?_ }
    · exact (congrArg OutputPort.state (Quad.get_set_same _ k _)).trans hi.port
    · exact (congrArg OutputPort.lock (Quad.get_set_same _ k _)).trans hi.lock
    · refine (congrArg WarpUnit.walk (Quad.get_set_same _ k _)).trans ?_
      rw [State.deadlineWarp, hwalk]
      rfl
    · exact (congrArg WarpUnit.cache (Quad.get_set_same _ k _)).trans hi.cache
    · exact (congrArg LightUnit.form (Quad.get_set_same _ k _)).trans hi.form
    · exact (congrArg LightUnit.held (Quad.get_set_same _ k _)).trans hi.held

theorem State.deadlineOf_keepsInert (s : State) (v : Nat) : s.keepsInert (s.deadlineOf v) := by
  have hlined : s.keepsInert (s.lined v) :=
    State.keepsInert_trans (s.advanceTo_keepsInert _)
      (State.keepsInert_foldl (fun s k => s.channelDeadline v k) (fun s k => s.channelDeadline_keepsInert v k) channels _)
  have hmuster : ∀ t : State, t.keepsInert (t.musterAt v) := by
    intro t
    unfold State.musterAt
    split
    · exact State.keepsInert_trans (State.keepsInert_same rfl rfl) (State.musterPoint_keepsInert _)
    · exact State.keepsInert_rfl
  have hall : s.keepsInert (State.musterAt { s.lined v with timer := (s.lined v).timer.afterDeadline v } v) :=
    State.keepsInert_trans (State.keepsInert_trans hlined (State.keepsInert_same rfl rfl)) (hmuster _)
  show s.keepsInert (if (State.musterAt { s.lined v with timer := (s.lined v).timer.afterDeadline v } v).timer.phase = .blanking
    then (State.musterAt { s.lined v with timer := (s.lined v).timer.afterDeadline v } v).frameEndRound
    else State.musterAt { s.lined v with timer := (s.lined v).timer.afterDeadline v } v)
  split
  · exact State.keepsInert_trans hall (State.frameEndRound_keepsInert _)
  · exact hall

theorem execLineDeadline_keepsInert (s : State) : Leaves (execLineDeadline s) s.keepsInert := by
  unfold execLineDeadline
  split
  · exact leaves_next.2 (s.deadlineOf_keepsInert _)
  · exact leaves_next.2 State.keepsInert_rfl

/-! ### Frame starts, block by block -/

/-- The frame-start decision on an absent channel changes no slot's state. -/
theorem State.decideSlots_keepsInert (s : State) (o : RoundOutcome) : s.keepsInert (s.decideSlots o) := by
  refine ⟨rfl, fun k hk hi => { hi with slots := fun i => ?_ }⟩
  have hslots : ∀ i, ((s.rings.get k).slots.get i).state = .empty := hi.slots
  show (((s.decideSlots o).rings.get k).slots.get i).state = .empty
  unfold State.decideSlots State.decideChannel
  rw [Quad.get_of, if_neg (by simp [hk])]
  simpa [SlotRing.endDecision, SlotRing.clearMarks] using hslots i

theorem shownSlot_none {t : Trio Slot} (h : ∀ i, (t.get i).state = .empty) : shownSlot t = none := by
  simp [shownSlot, slotsWhere, h]

theorem State.recordShown_keepsInert (s : State) : s.keepsInert s.recordShown := by
  refine ⟨rfl, fun k _ hi => { hi with shown := ?_ }⟩
  have hslots : ∀ i, ((s.rings.get k).slots.get i).state = .empty := hi.slots
  show (Quad.of fun k => (s.rings.get k).shownFrame).get k = none
  rw [Quad.get_of, SlotRing.shownFrame, shownSlot_none hslots]
  rfl

/-- The decision raises conditions of channels of the arrangement alone. -/
theorem State.decisionRaises_channel {s : State} {o : RoundOutcome} {c : Cond} (hc : c ∈ s.decisionRaises o) :
    ∃ k, Cond.channel c = some k ∧ s.hasChannel k = true := by
  have hite : ∀ (b : Bool) (x : Cond), c ∈ (if b = true then [x] else []) → c = x := fun b x h => by
    cases b
    · cases h
    · exact List.mem_singleton.1 h
  obtain ⟨k, -, hk⟩ := List.mem_flatMap.1 hc
  refine ⟨k, ?_⟩
  unfold State.decideChannel at hk
  dsimp only at hk
  split at hk
  · rename_i hhas
    refine ⟨?_, hhas⟩
    rcases List.mem_append.1 hk with h | h
    · rw [hite _ _ h]
      exact Cond.channel_ofChannel k 4
    · rw [hite _ _ h]
      exact Cond.channel_ofChannel k 3
  · cases hk

theorem State.showFrame_keepsInert (s : State) : s.keepsInert s.showFrame := by
  have hcoh : s.cohAtFrameStart.channelShown = s.coh.channelShown := by
    unfold State.cohAtFrameStart
    split <;> rfl
  have happlied : s.keepsInert (s.setCoh s.cohAtFrameStart) :=
    State.keepsInert_same rfl (funext fun _ => State.idle_units (fun _ => rfl) rfl rfl rfl rfl rfl rfl hcoh rfl)
  unfold State.showFrame
  dsimp only
  have hall := State.keepsInert_trans (State.keepsInert_trans (State.keepsInert_trans happlied
    (State.decideSlots_keepsInert _ s.coh.outcome)) (State.recordShown_keepsInert _)) (State.recordFaults_keepsInert _ s.ringLostFault)
  refine State.keepsInert_trans hall (State.raiseAll_keepsInert fun c hc => ?_)
  obtain ⟨k, hk, hhas⟩ := State.decisionRaises_channel hc
  exact ⟨k, hk, by rw [State.hasChannel, hall.1]; exact hhas⟩

theorem State.tablesAtFrameStart_keepsInert (s : State) : s.keepsInert s.tablesAtFrameStart := by
  unfold State.tablesAtFrameStart
  split
  · exact State.keepsInert_rfl
  · exact State.keepsInert_same rfl rfl
  · exact State.keepsInert_same rfl rfl
  · rename_i sw _ _
    generalize (if sw.deferred = true then (true, true) else swapDue s.coh sw) = due
    obtain ⟨due, late⟩ := due
    cases due with
    | false => exact State.keepsInert_same rfl rfl
    | true =>
      refine State.keepsInert_trans ?_ (State.raise_keepsInert _ rfl)
      cases late with
      | false => exact State.keepsInert_same rfl rfl
      | true => exact State.keepsInert_trans (State.keepsInert_same rfl rfl) (State.raise_keepsInert _ rfl)

theorem State.rasterChange_keepsInert (s : State) : s.keepsInert s.rasterChange := by
  unfold State.rasterChange
  split
  · refine State.keepsInert_trans (State.keepsInert_same rfl rfl) (State.keepsInert_foldl _ (fun t k => ?_) channels _)
    split
    · rename_i hk
      exact State.movePort_keepsInert hk _
    · exact State.keepsInert_rfl
  · exact State.keepsInert_rfl

theorem State.filterOutputs_keepsInert (s : State) (up : Quad Bool) : s.keepsInert (s.filterOutputs up) := by
  refine ⟨rfl, fun k hk hi => { hi with confirmed := ?_, count := ?_ }⟩
  · have hc : s.loss.confirmed.get k = true := hi.confirmed
    simpa [State.idle, State.filterOutputs, State.hasOutput, hk] using hc
  · have hc : s.loss.count.get k = 0 := hi.count
    simpa [State.idle, State.filterOutputs, State.hasOutput, hk] using hc

theorem State.applyVector_keepsInert (s : State) (v : Option Vec32) : s.keepsInert (s.applyVector v) := by
  unfold State.applyVector
  dsimp only
  split
  · exact State.keepsInert_same rfl rfl
  · exact State.keepsInert_trans (State.keepsInert_same rfl rfl) (State.raise_keepsInert _ rfl)

theorem State.chooseSets_keepsInert (s : State) : s.keepsInert s.chooseSets := by
  have hchosen : s.keepsInert { s with loss := { s.loss with
      chosen := Quad.of fun k => if s.hasChannel k then chooseSet s.lossmap s.loss.applied k else s.loss.chosen.get k } } := by
    refine ⟨rfl, fun k hk hi => { hi with chosen := ?_ }⟩
    have hc : s.loss.chosen.get k = 0 := hi.chosen
    simpa [State.idle, hk] using hc
  unfold State.chooseSets
  dsimp only
  split
  · exact hchosen
  · split
    · exact hchosen
    · exact State.keepsInert_trans hchosen (State.recordFaults_keepsInert _ _)

theorem State.selectSets_keepsInert (s : State) : s.keepsInert s.selectSets := by
  refine ⟨rfl, fun k hk hi => { hi with selected := ?_, missing := ?_ }⟩
  · have hc : s.loss.chosen.get k = 0 := hi.chosen
    simp [State.idle, State.selectSets, State.setIsMissing, hk, hc]
  · simp [State.idle, State.selectSets, State.setIsMissing, hk]

theorem State.lossAtFrameStart_keepsInert (s : State) (up : Quad Bool) (v : Option Vec32) :
    s.keepsInert (s.lossAtFrameStart up v) :=
  State.keepsInert_trans (State.keepsInert_trans (State.keepsInert_trans (s.filterOutputs_keepsInert up)
    (State.applyVector_keepsInert _ v)) (State.chooseSets_keepsInert _)) (State.selectSets_keepsInert _)

/-- The fit test finds no absent channel unfit (R72). -/
theorem State.fitTest_keepsInert (s : State) : s.keepsInert s.fitTest :=
  ⟨rfl, fun k hk hi => { hi with unfit := by simp [State.idle, State.fitTest, State.setTables, State.channelUnfit, hk] }⟩

theorem State.channelStart_keepsInert (s : State) (k : Channel) : s.keepsInert (s.channelStart k) := by
  unfold State.channelStart
  split
  · rename_i hk
    exact State.keepsInert_of_works hk (State.worksOn_trans (State.worksOn_trans (s.setWarp_worksOn k _)
      (State.setLight_worksOn _ k _)) (State.recordFaults_worksOn _ k _))
  · exact State.keepsInert_rfl

/-- The mark of a frame on the lane changes neither a port's state nor its lock record. -/
theorem State.beginFrame_keepsInert (s : State) (own : Bool) : s.keepsInert (s.beginFrame own) := by
  obtain ⟨p, h, hp⟩ := s.beginFrame_eq own
  rw [h]
  refine ⟨rfl, fun k _ hi => { hi with port := ?_, lock := ?_ }⟩
  · exact (congrArg OutputPort.state (hp k)).trans hi.port
  · exact (congrArg OutputPort.lock (hp k)).trans hi.lock

theorem State.frameStart_keepsInert (s : State) (own : Bool) : s.keepsInert (s.frameStart own) := by
  have hmodes : ∀ t : State, t.keepsInert t.takeModes := fun _ => State.keepsInert_same rfl rfl
  have hraster : s.keepsInert s.showFrame.tablesAtFrameStart.rasterChange.takeModes :=
    State.keepsInert_trans (State.keepsInert_trans (State.keepsInert_trans s.showFrame_keepsInert
      (State.tablesAtFrameStart_keepsInert _)) (State.rasterChange_keepsInert _)) (hmodes _)
  have hframed : s.keepsInert s.framed :=
    State.keepsInert_trans (State.keepsInert_trans hraster (State.lossAtFrameStart_keepsInert _ _ _)) (State.fitTest_keepsInert _)
  rw [State.frameStart_eq]
  exact State.keepsInert_trans (State.keepsInert_trans hframed
    (State.keepsInert_foldl _ State.channelStart_keepsInert channels _)) (State.beginFrame_keepsInert _ own)

theorem State.ownerFrame_keepsInert (s : State) : s.keepsInert s.ownerFrame :=
  State.keepsInert_trans (s.frameStart_keepsInert false) (State.levelNotices_keepsInert _ s)

theorem State.frameEvent_keepsInert {s t : State} (h : s.frameEvent t) : s.keepsInert t := by
  rcases h with rfl | ⟨n, rfl⟩ | ⟨n, own, rfl⟩
  · exact State.keepsInert_rfl
  · exact State.keepsInert_trans (s.advanceTo_keepsInert n) (State.ownerFrame_keepsInert _)
  · have hcount : ((s.advanceTo n).coh.countStart own).channelShown = (s.advanceTo n).coh.channelShown := by
      unfold Coherence.countStart
      split <;> rfl
    have hcoh : (s.advanceTo n).keepsInert ((s.advanceTo n).setCoh ((s.advanceTo n).coh.countStart own)) :=
      State.keepsInert_same rfl (funext fun _ => State.idle_units (fun _ => rfl) rfl rfl rfl rfl rfl rfl hcount rfl)
    exact State.keepsInert_trans (State.keepsInert_trans (State.keepsInert_trans (s.advanceTo_keepsInert n) hcoh)
      (State.frameStart_keepsInert _ own)) (State.levelNotices_keepsInert _ _)

/-! ### Resets (R164, R165, R192) -/

/-- At the reset values every channel is inert. -/
theorem State.resetValues_inert (s : State) (straps : StrapRecord) (fs : List FaultRecord) (o : Bool) (k : Channel) :
    ((s.resetValues straps fs o).idle k).Inert := by
  have hslot : ∀ i : SlotNo, (SlotRing.reset.slots.get i).state = .empty := fun i => by fin_cases i <;> rfl
  constructor
  case slots => exact fun i => by simpa [State.idle, State.resetValues, State.reset] using hslot i
  case latched => exact fun c => by simp [State.idle, State.resetValues, State.reset]
  all_goals simp [State.idle, State.resetValues, State.reset, OutputPort.reset, WarpUnit.reset, LightUnit.reset, LossSelector.reset,
    TableStore.reset, Coherence.reset]

theorem State.resetEvent_absentInert {s t : State} (h : s.absentInert = true) (ht : s.resetEvent t) : t.absentInert = true := by
  rcases ht with rfl | ⟨u, straps, fs, o, rfl⟩
  · exact h
  · have hr : (u.resetValues straps fs o).absentInert = true :=
      (State.absentInert_iff _).2 fun k _ => u.resetValues_inert straps fs o k
    unfold State.firstFrame
    split
    · exact hr
    · exact State.absentInert_of_keeps hr (State.ownerFrame_keepsInert _)
    · exact State.absentInert_of_keeps hr (State.ownerFrame_keepsInert _)

theorem State.pipelineReset_keepsInert (s : State) : s.keepsInert s.pipelineReset := by
  rw [State.pipelineReset_eq]
  refine State.keepsInert_trans ?_ (State.levelNotices_keepsInert _ s)
  unfold State.pipelineCleared
  dsimp only
  refine State.keepsInert_trans ?_ (State.fitTest_keepsInert _)
  refine ⟨rfl, fun k _ hi => { hi with slots := fun i => ?_, progress := ?_, walk := ?_, cache := ?_, form := ?_, held := ?_, shown := ?_ }⟩
  · simp [State.idle, State.clearSlots, Slot.emptied]
  · simp [State.idle, State.clearSlots]
  · simp [State.idle, WarpUnit.pipelineReset]
  · simp [State.idle, WarpUnit.pipelineReset]
  · have hform : (s.lights.get k).form = .noLines := hi.form
    simp [State.idle, State.clearSlots, LightUnit.pipelineReset, hform]
  · simp [State.idle, (LightUnit.pipelineReset_spec _).2.1]
  · simp [State.idle, Coherence.reset]

/-! ### Every command -/

/-- Every command keeps absent channels inert. -/
theorem exec_absentInert {s : State} (h : s.absentInert = true) (i : Instr) : Leaves (exec i s) (·.absentInert = true) := by
  have of_keeps : ∀ {o : Host.Outcome State Fault Refusal}, Leaves o s.keepsInert → Leaves o (·.absentInert = true) :=
    fun ho t ht => State.absentInert_of_keeps h (ho t ht)
  have of_frame : ∀ {o : Host.Outcome State Fault Refusal} {us : List Upset}, Leaves o (s.upsets us).frameEvent →
      Leaves o (·.absentInert = true) := fun {_ us} ho =>
    of_keeps fun t ht => State.keepsInert_trans (s.upsets_keepsInert us) (State.frameEvent_keepsInert (ho t ht))
  cases i with
  | pinReset arr role pos done =>
    exact fun t ht => State.resetEvent_absentInert h (execPinReset_resetEvent arr role pos done s t ht)
  | startupHeaderReadDone => exact of_keeps (execStartupHeaderReadDone_keepsInert s)
  | imageCheckReadDone => exact of_keeps (execImageCheckReadDone_keepsInert s)
  | startupLoadDone => exact of_keeps (execStartupLoadDone_keepsInert s)
  | inputCarrierDetected k => exact of_keeps (execInputCarrierDetected_keepsInert k s)
  | inputTrainingDone k => exact of_keeps (execInputTrainingDone_keepsInert k s)
  | inputLinkLost k => exact of_keeps (execInputLinkLost_keepsInert k s)
  | frameOpen k record => exact of_keeps (execFrameOpen_keepsInert k record s)
  | line k record => exact of_keeps (execLine_keepsInert k record s)
  | frameClose k record => exact of_keeps (execFrameClose_keepsInert k record s)
  | recordUnknown k record => exact leaves_next.2 h
  | cell k record => exact of_keeps (execCell_keepsInert k record s)
  | identify => exact of_keeps (State.serve_keepsInert State.identifyCommand_keepsInert)
  | status => exact of_keeps (State.serve_keepsInert State.statusCommand_keepsInert)
  | set => exact of_keeps (State.serve_keepsInert State.setCommand_keepsInert)
  | get => exact of_keeps (State.serve_keepsInert State.getCommand_keepsInert)
  | clear => exact of_keeps (State.serve_keepsInert State.clearCommand_keepsInert)
  | faultRead => exact of_keeps (State.serve_keepsInert State.faultReadCommand_keepsInert)
  | restartOutput => exact of_keeps (State.serve_keepsInert State.restartCommand_keepsInert)
  | resetFull => exact of_keeps (State.serve_keepsInert State.resetFullCommand_keepsInert)
  | resetFullEffect done =>
    exact fun t ht => State.resetEvent_absentInert h (execResetFullEffect_resetEvent done s t ht)
  | resetPipeline =>
    refine of_keeps (State.serve_keepsInert fun c t => ?_)
    rcases t.resetPipelineCommand_cases c with he | he
    · rw [he]
      exact State.keepsInert_rfl
    · rw [he]
      exact t.pipelineReset_keepsInert
  | badCommand => exact of_keeps (State.serve_keepsInert fun _ _ => State.keepsInert_rfl)
  | tableOpen => exact of_keeps (State.serve_keepsInert State.openCommand_keepsInert)
  | tableWrite => exact of_keeps (State.serve_keepsInert State.writeCommand_keepsInert)
  | tableRead us =>
    exact of_keeps fun t ht => State.keepsInert_trans (s.upsets_keepsInert us)
      (State.serve_keepsInert State.readCommand_keepsInert t ht)
  | tableSeal => exact of_keeps (State.serve_keepsInert State.sealCommand_keepsInert)
  | tableDropStaged => exact of_keeps (State.serve_keepsInert State.dropCommand_keepsInert)
  | tableDropLive => exact of_keeps (State.serve_keepsInert State.dropCommand_keepsInert)
  | tableSwap => exact of_keeps (State.serve_keepsInert State.swapCommand_keepsInert)
  | tableList => exact of_keeps (State.serve_keepsInert State.listCommand_keepsInert)
  | store => exact of_keeps (State.serve_keepsInert State.storeCommand_keepsInert)
  | load => exact of_keeps (State.serve_keepsInert State.loadCommand_keepsInert)
  | defaultFillPageDone => exact of_keeps (execDefaultFillPageDone_keepsInert s)
  | completionEnqueue op => exact of_keeps (execCompletionEnqueue_keepsInert op s)
  | storePhaseDone us => exact of_keeps (execStorePhaseDone_keepsInert us s)
  | flashWriteFailed done => exact of_keeps (execFlashWriteFailed_keepsInert done s)
  | loadReadDone => exact of_keeps (execLoadReadDone_keepsInert s)
  | reverseLaneSend k => exact of_keeps (execReverseLaneSend_keepsInert k s)
  | reverseSendEnd k => exact of_keeps (execReverseSendEnd_keepsInert k s)
  | frameStart us => exact of_frame (execFrameStart_frameEvent us s)
  | syncPulse us => exact of_frame (execSyncPulse_frameEvent us s)
  | ownStart us => exact of_frame (execOwnStart_frameEvent us s)
  | lineDeadline => exact of_keeps (execLineDeadline_keepsInert s)
  | musterHandle token => exact of_keeps (execMusterHandle_keepsInert token s)
  | musterReturn token => exact of_keeps (execMusterReturn_keepsInert token s)
  | showHandle token => exact of_keeps (execShowHandle_keepsInert token s)
  | showReturn token => exact of_keeps (execShowReturn_keepsInert token s)
  | warpLineBegin k => exact of_keeps (execWarpLineBegin_keepsInert k s)
  | warpPixel k us => exact of_keeps (execWarpPixel_keepsInert k us s)
  | tileFillComplete k read us => exact of_keeps (execTileFillComplete_keepsInert k read us s)
  | tileFillTimeout k read us => exact of_keeps (execTileFillTimeout_keepsInert k read us s)
  | lightPixelWrite k us => exact of_keeps (execLightPixelWrite_keepsInert k us s)
  | statusReport k locked => exact of_keeps (execStatusReport_keepsInert k locked s)
  | reverseCarrierLost k => exact of_keeps (execReverseCarrierLost_keepsInert k s)
  | reportTimeout k => exact of_keeps (execReportTimeout_keepsInert k s)
  | settleExpiry k => exact of_keeps (execSettleExpiry_keepsInert k s)
  | relockExpiry k => exact of_keeps (execRelockExpiry_keepsInert k s)

/-- Settles O12: what a command works on is a channel of the arrangement, or something that an inert channel does not have. -/
theorem absentChannelsStayInert : Obligations.AbsentChannelsStayInert := fun _ t h ht =>
  step_leaves (P := fun s => s.absentInert = true) (fun _ h => State.absentInert_of_keeps h (State.keepsInert_same rfl rfl))
    (fun _ _ h => State.absentInert_of_keeps h (State.keepsInert_same rfl rfl)) (fun _ => exec_absentInert) h t ht

end Sys2Proof.Machine
end

section
/-! SUPPORT. The default fill, page by page (R57, R155). -/

namespace Sys2Proof.Machine

/-- The completion that a command which ends has due: none where its link is DOWN (R155). -/
theorem State.dueCompletion_toList (s : State) (link : Channel) (tag : Byte) (st : CompletionStatus) :
    (s.dueCompletion link tag st).toList = if (s.inputs.get link).link = .down then [] else [⟨link, tag, st⟩] := by
  unfold State.dueCompletion
  split <;> rfl

theorem TableRecord.not_bad_fillPage {r : TableRecord} {p i : Nat} (h : r.pageOf i = r.firstPage + p) : i ∉ (r.fillPage p).bad := by
  simp [TableRecord.fillPage, h]

/-- A page that is not the last: the fill goes on to the next. -/
theorem State.fillPageDone_goes_on {s : State} {f : FillOp} {r : TableRecord} (h : f.nextPage + 1 < r.pageCount) :
    s.fillPageDone f r = s.setTables { s.tables with
      directory := Assoc.insert s.tables.directory f.record (r.fillPage f.nextPage)
      fill := some { f with nextPage := f.nextPage + 1 } } := by
  rw [State.fillPageDone]
  exact if_pos h

/-- The last page: the table is OPEN and the completion of its OPEN is due. -/
theorem State.fillPageDone_ends {s : State} {f : FillOp} {r : TableRecord} (h : ¬ f.nextPage + 1 < r.pageCount) :
    s.fillPageDone f r = s.setTables { s.tables with
      directory := Assoc.insert s.tables.directory f.record { r.fillPage f.nextPage with state := .open }
      fill := none
      fillDue := s.tables.fillDue ++ (s.dueCompletion f.link f.tag .ok).toList } := by
  rw [State.fillPageDone]
  exact if_neg h

theorem exec_defaultFillPageDone {s : State} {f : FillOp} {r : TableRecord} (hf : s.tables.fill = some f)
    (hr : Assoc.find s.tables.directory f.record = some r) : exec .defaultFillPageDone s = .next (s.fillPageDone f r) := by
  change execDefaultFillPageDone s = _
  rw [execDefaultFillPageDone, hf]
  dsimp only
  rw [hr]

/-- Settles O33, by the two ways a page of the fill ends: the fill goes on, or the table opens. -/
theorem fillPageWritesDefaults : Obligations.FillPageWritesDefaults := by
  intro s f r hf hr
  rw [exec_defaultFillPageDone hf hr]
  by_cases h : f.nextPage + 1 < r.pageCount
  · rw [State.fillPageDone_goes_on h]
    exact ⟨_, _, _, rfl, r.read_fillPage f.nextPage, fun _ => TableRecord.not_bad_fillPage, fun _ => ⟨rfl, rfl, rfl⟩,
      fun hlast => absurd h (Nat.not_lt.2 hlast)⟩
  · rw [State.fillPageDone_ends h, State.dueCompletion_toList]
    exact ⟨_, _, _, rfl, r.read_fillPage f.nextPage, fun _ => TableRecord.not_bad_fillPage, fun hmore => absurd hmore h,
      fun _ => ⟨rfl, rfl, rfl⟩⟩

end Sys2Proof.Machine
end

section
/-! SUPPORT. The entries that TABLE WRITE stores and TABLE READ returns, whole or one field of each (R59 to R61, R71). -/

namespace Sys2Proof.Machine

/-! ### Entries stored, whole or by a field (R60) -/

/-- What entry `i` becomes of its payload bytes, whole or by one field, and whether a value was clamped (R60). -/
def TableRecord.sent (r : TableRecord) (f : Option FieldName) (i : Nat) (b : Bytes) : Entry × Bool :=
  match f with
  | none => r.key.entryOfBytes i b
  | some f => ((Assoc.find r.contents i).getD (r.default i)).withField f i b

/-- Whether a write of the fields named writes every field of an entry (log 5). -/
def wholeWrite (f : Option FieldName) : Bool := f == none || f == some .value

theorem TableRecord.storeEntry_eq (r : TableRecord) (f : Option FieldName) (i : Nat) (b : Bytes) :
    r.storeEntry f i b = (r.write i (r.sent f i b).1 (wholeWrite f), (r.sent f i b).2) := by
  cases f <;> rfl

/-- A row of entries stored: its first entry, and the rest of the row after it. -/
theorem TableRecord.storeEntries_succ (r : TableRecord) (f : Option FieldName) (size n i : Nat) (data : Bytes) (c : Bool) :
    TableRecord.storeEntries f size (n + 1) i data (r, c) = TableRecord.storeEntries f size n (i + 1) (data.drop size)
      (r.write i (r.sent f i (data.take size)).1 (wholeWrite f), c || (r.sent f i (data.take size)).2) := by
  rw [TableRecord.storeEntries, TableRecord.storeEntry_eq]

theorem TableRecord.find_write_other (r : TableRecord) {i j : Nat} (h : j ≠ i) (e : Entry) (whole : Bool) :
    Assoc.find (r.write i e whole).contents j = Assoc.find r.contents j := by
  unfold TableRecord.write
  dsimp only
  split
  · exact Assoc.find_erase_other _ h
  · exact Assoc.find_insert_other _ _ h

theorem TableRecord.bad_write_other (r : TableRecord) {i j : Nat} (h : j ≠ i) (e : Entry) (whole : Bool) :
    j ∈ (r.write i e whole).bad ↔ j ∈ r.bad := by
  cases whole <;> simp [TableRecord.write, h]

theorem TableRecord.sent_write_other (r : TableRecord) {i j : Nat} (h : j ≠ i) (e : Entry) (whole : Bool) (f : Option FieldName)
    (b : Bytes) : (r.write i e whole).sent f j b = r.sent f j b := by
  cases f with
  | none => rfl
  | some f =>
    change ((Assoc.find (r.write i e whole).contents j).getD (r.default j)).withField f j b = _
    rw [r.find_write_other h]
    rfl

theorem TableRecord.read_write_other (r : TableRecord) {i j : Nat} (h : j ≠ i) (e : Entry) (whole : Bool) :
    (r.write i e whole).read j = r.read j := by
  simp only [TableRecord.read, r.bad_write_other h, r.find_write_other h]
  rfl

/-- An entry reads back as it was stored where its parity was good or all its fields were written (log 5). -/
theorem TableRecord.read_write_same (r : TableRecord) {i : Nat} {whole : Bool} (h : whole = true ∨ i ∉ r.bad) (e : Entry) :
    (r.write i e whole).read i = e := by
  have hbad : i ∉ (r.write i e whole).bad := by
    rcases h with rfl | h
    · simp [TableRecord.write]
    · cases whole <;> simp [TableRecord.write, h]
  rw [TableRecord.read, if_neg hbad]
  unfold TableRecord.write
  dsimp only
  split
  · rename_i he
    rw [Assoc.find_erase_same]
    exact he.symm
  · rw [Assoc.find_insert_same]
    rfl

theorem slice_drop (b : Bytes) (size j : Nat) : slice (b.drop size) (j * size) size = slice b ((j + 1) * size) size := by
  rw [slice, slice, List.drop_drop, Nat.succ_mul, Nat.add_comm]

/-- A row of entries stored: each holds what was sent, every other entry is as before, and a value was clamped exactly when
one of the row was. -/
theorem TableRecord.storeEntries_reads (f : Option FieldName) (size n i : Nat) (data : Bytes) (r : TableRecord) (c : Bool) :
    (∀ j, j < n → (wholeWrite f = true ∨ i + j ∉ r.bad) →
        (TableRecord.storeEntries f size n i data (r, c)).1.read (i + j) = (r.sent f (i + j) (slice data (j * size) size)).1)
      ∧ (∀ j, j < i ∨ i + n ≤ j → (TableRecord.storeEntries f size n i data (r, c)).1.read j = r.read j)
      ∧ ((TableRecord.storeEntries f size n i data (r, c)).2 = true ↔
          c = true ∨ ∃ j, j < n ∧ (r.sent f (i + j) (slice data (j * size) size)).2 = true) := by
  induction n generalizing i data r c with
  | zero => exact ⟨fun j hj => absurd hj j.not_lt_zero, fun _ _ => rfl, by simp [TableRecord.storeEntries]⟩
  | succ n ih =>
    rw [TableRecord.storeEntries_succ]
    obtain ⟨hrow, hothers, hclamped⟩ := ih (i + 1) (data.drop size) (r.write i (r.sent f i (data.take size)).1 (wholeWrite f))
      (c || (r.sent f i (data.take size)).2)
    have hnext : ∀ j, i + 1 + j = i + (j + 1) := fun j => by omega
    have hfirst : data.take size = slice data (0 * size) size := by simp [slice]
    refine ⟨fun j hj hgood => ?_, fun j hj => ?_, ?_⟩
    · cases j with
      | zero =>
        rw [← hfirst]
        exact (hothers i (Or.inl i.lt_succ_self)).trans (r.read_write_same hgood _)
      | succ j =>
        rw [← hnext j, hrow j (by omega) (hgood.imp_right fun hg => by rwa [r.bad_write_other (by omega), hnext]),
          r.sent_write_other (by omega), slice_drop]
    · rw [hothers j (by omega), r.read_write_other (by omega)]
    · have hsent : ∀ j, ((r.write i (r.sent f i (data.take size)).1 (wholeWrite f)).sent f (i + 1 + j)
          (slice (data.drop size) (j * size) size)).2 = (r.sent f (i + (j + 1)) (slice data ((j + 1) * size) size)).2 := fun j => by
        rw [r.sent_write_other (by omega), slice_drop, hnext]
      rw [hclamped, Nat.exists_lt_succ_left, ← hfirst]
      simp only [Bool.or_eq_true, hsent, or_assoc, Nat.add_zero]

/-! ### What a span names (R51, R59) -/

/-- The field that a mode and a field byte name: none in FULL mode. -/
def fieldNamed (key : Key) (mode : Bool) (fieldByte : Byte) : Option FieldName :=
  if mode then key.fieldOf fieldByte.toNat else none

theorem spanOf_named {key : Key} {mode : Bool} {fieldByte : Byte} (h : mode = true → fieldNamed key mode fieldByte ≠ none)
    (start count : Nat) :
    spanOf key mode fieldByte.toNat start count = some ⟨fieldNamed key mode fieldByte, start, count⟩ := by
  cases mode with
  | false => rfl
  | true =>
    obtain ⟨f, hf⟩ := Option.ne_none_iff_exists'.1 (h rfl)
    have hkind : key.fieldOf fieldByte.toNat = some f := hf
    simp [spanOf, fieldNamed, hkind]

theorem Span.entrySize_pos (p : Span) (key : Key) : 1 ≤ p.entrySize key := by
  unfold Span.entrySize
  split
  · rename_i f _
    cases f <;> decide
  · cases key <;> exact Nat.le_of_ble_eq_true rfl

theorem fieldModeOf_byte (mode : Bool) : fieldModeOf (if mode then 1 else 0 : Byte).toNat = some mode := by
  cases mode <;> rfl

/-! ### TABLE WRITE (R59, R60) -/

/-- What a TABLE WRITE reads of its payload. -/
theorem writePayload_parsed {b : Bytes} {key : Key} {mode : Bool} {fieldByte : Byte} {start count : Nat} {data : Bytes}
    (hp : b = key.bytes ++ [if mode then 1 else 0, fieldByte] ++ toLe 4 start ++ toLe 2 count ++ data)
    (hstart : start < 2 ^ 32) (hcount : count < 65536) :
    b.length = 11 + data.length ∧ keyAt b 0 = some key ∧ fieldModeOf (byteAt b 3) = some mode ∧ byteAt b 4 = fieldByte.toNat
      ∧ field b 5 4 = start ∧ field b 9 2 = count ∧ b.drop 11 = data := by
  subst hp
  refine ⟨by simp; omega, ?_, ?_, ?_, ?_, field_two _ _ (by simp) hcount, List.drop_left' (by simp)⟩
  · simp only [List.append_assoc]
    exact keyAt_start key _
  · rw [← fieldModeOf_byte mode]
    simp only [List.append_assoc]
    exact congrArg fieldModeOf (byteAt_at key.bytes _ _ (by simp))
  · have hsplit : key.bytes ++ [if mode then 1 else 0, fieldByte] = (key.bytes ++ [if mode then 1 else 0]) ++ [fieldByte] := by simp
    rw [hsplit]
    simp only [List.append_assoc (key.bytes ++ _)]
    exact byteAt_at _ _ _ (by simp)
  · rw [List.append_assoc (_ ++ toLe 4 start)]
    exact (field_toLe_at _ _ start (by simp)).trans (Nat.mod_eq_of_lt hstart)

/-- A WRITE of entries that the OPEN table has, with their bytes. -/
theorem State.writeCommand_stores {s : State} {c : Cell} {key : Key} {mode : Bool} {fieldByte : Byte} {start count n : Nat}
    {data : Bytes} {r : TableRecord} (hstart : start < 2 ^ 32) (hdata : data.length ≤ 1024)
    (hnamed : mode = true → fieldNamed key mode fieldByte ≠ none)
    (hp : c.payload = key.bytes ++ [if mode then 1 else 0, fieldByte] ++ toLe 4 start ++ toLe 2 count ++ data)
    (hk : s.keyAbsent key = false) (hload : s.loader.starting = false)
    (hr : findTable s.tables.directory key .staged = some (n, r)) (hopen : r.state = .open) (hl : r.locked = false)
    (h1 : 1 ≤ count) (hin : start + count ≤ r.entryCount)
    (hlen : data.length = count * (Span.mk (fieldNamed key mode fieldByte) start count).entrySize key) :
    s.writeCommand c =
      { state := s.setDirectory (Assoc.insert s.tables.directory n
          (TableRecord.storeEntries (fieldNamed key mode fieldByte)
            ((Span.mk (fieldNamed key mode fieldByte) start count).entrySize key) count start data (r, false)).1)
        status := if (TableRecord.storeEntries (fieldNamed key mode fieldByte)
            ((Span.mk (fieldNamed key mode fieldByte) start count).entrySize key) count start data (r, false)).2
          then .clamped else .ok } := by
  have hcount : count < 65536 := by
    have := Nat.le_mul_of_pos_right count (Span.entrySize_pos ⟨fieldNamed key mode fieldByte, start, count⟩ key)
    omega
  obtain ⟨hlength, hkey, hmode, hbyte, hfirst, hmany, hdrop⟩ := writePayload_parsed hp hstart hcount
  have hchecks : s.tableChecks [key] false = none := State.tableChecks_passed (by simpa using hk) hload (by simp)
  have hshort : ¬(c.payload.length < 11 ∨ Config.maxCellPayload < c.payload.length) := by
    simp only [hlength, Config.maxCellPayload]
    omega
  have hinside : (Span.mk (fieldNamed key mode fieldByte) start count).inside r = true := by
    simp [Span.inside, h1, hin]
  unfold State.writeCommand
  simp [hshort, hkey, hmode, hchecks, hr, hl, hopen, hbyte, hfirst, hmany, spanOf_named hnamed, hinside, hdrop, hlen]

/-- Settles O34: the WRITE is carried out, and each entry of the row then holds what was sent. -/
theorem writeStoresEntries : Obligations.WriteStoresEntries := by
  intro s c rest key mode fieldByte named start count n data r hserved hcarries hstart hdata hn hnamed hp hk hload hr size hopen
    hl h1 hin hlen sent
  have hkey : r.key = key := (findTable_some hr).2.1
  have hsize : size = (Span.mk named start count).entrySize key := by
    cases named <;> rfl
  have hsent : ∀ i, r.sent named (start + i) (slice data (i * size) size) = sent i := fun i => by
    subst hkey
    cases named <;> rfl
  have hwhole : ∀ i, named = none ∨ named = some .value ∨ start + i ∉ r.bad → wholeWrite named = true ∨ start + i ∉ r.bad := fun i => by
    simp [wholeWrite, or_assoc]
  obtain ⟨hrow, hothers, hclamped⟩ := TableRecord.storeEntries_reads named size count start data r false
  rw [hsize] at hlen
  rw [hsize] at hrow hothers hclamped
  have hfield : named = fieldNamed key mode fieldByte := hn
  have hanswer := State.writeCommand_stores (s := { s with cells := rest }) hstart hdata (hfield ▸ hnamed) hp hk hload hr hopen hl
    h1 hin (hfield ▸ hlen)
  rw [← hfield] at hanswer
  refine ⟨_, _, congrArg Host.Outcome.next (State.serve_answered (t := { s with tables := { s.tables with directory := _ } })
    hserved hcarries hanswer), fun i hi hgood => ?_, hothers, (TableRecord.storeEntries_frame _ _ _ _ _ _ _).1, ?_, ?_⟩
  · exact (hrow i hi (hwhole i hgood)).trans (by rw [← hsize, hsent])
  · have hstatus : ∀ b : Bool, (if b = true then Status.clamped else Status.ok) = .clamped ↔ b = true := by decide
    simp only [← hsize, hsent, Bool.false_eq_true, false_or] at hclamped ⊢
    exact (hstatus _).trans hclamped
  · split
    · exact Or.inl rfl
    · exact Or.inr rfl

/-! ### TABLE READ (R61, R71) -/

theorem State.raise_withCells (s : State) (cs : List Cell) (d : Cond) :
    ({ s with cells := cs } : State).raise d = { s.raise d with cells := cs } := by
  have hn : (({ s with cells := cs } : State).raise d).notices = (s.raise d).notices :=
    (State.raise_notices _ d).trans (s.raise_notices d).symm
  obtain ⟨ns, h⟩ := s.raise_spec d
  obtain ⟨ns', h'⟩ := ({ s with cells := cs } : State).raise_spec d
  rw [h, h'] at hn
  obtain rfl : ns' = ns := hn
  rw [h, h']

theorem State.recordFault_withCells (s : State) (cs : List Cell) (f : FaultRecord) :
    ({ s with cells := cs } : State).recordFault f = { s.recordFault f with cells := cs } := by
  show (if _ then _ else _) = ({ (if _ then _ else _ : State) with cells := cs } : State)
  split
  · exact State.raise_withCells { s with faults := s.faults ++ [f] } cs Cond.faultLogged
  · rfl

/-- Faults are recorded alike before a cell is taken and after. -/
theorem State.recordFaults_withCells (s : State) (cs : List Cell) (fs : List FaultRecord) :
    ({ s with cells := cs } : State).recordFaults fs = { s.recordFaults fs with cells := cs } := by
  induction fs generalizing s with
  | nil => rfl
  | cons f fs ih => rw [State.recordFaults_cons, State.recordFaults_cons, State.recordFault_withCells, ih]

theorem bankOf_code (bank : Bank) : bankOf bank.code.toNat = some bank := by
  cases bank <;> rfl

/-- What a TABLE READ reads of its payload. -/
theorem readPayload_parsed {b : Bytes} {key : Key} {bank : Bank} {mode : Bool} {fieldByte : Byte} {start count : Nat}
    (hp : b = key.bytes ++ [bank.code, if mode then 1 else 0, fieldByte] ++ toLe 4 start ++ toLe 2 count)
    (hstart : start < 2 ^ 32) (hcount : count < 65536) :
    b.length = 12 ∧ keyAt b 0 = some key ∧ bankOf (byteAt b 3) = some bank ∧ fieldModeOf (byteAt b 4) = some mode
      ∧ byteAt b 5 = fieldByte.toNat ∧ field b 6 4 = start ∧ field b 10 2 = count := by
  subst hp
  refine ⟨by simp, ?_, ?_, ?_, ?_, ?_, ?_⟩
  · simp only [List.append_assoc]
    exact keyAt_start key _
  · rw [← bankOf_code bank]
    simp only [List.append_assoc]
    exact congrArg bankOf (byteAt_at key.bytes _ _ (by simp))
  · rw [← fieldModeOf_byte mode]
    have hsplit : key.bytes ++ [bank.code, if mode then 1 else 0, fieldByte]
        = (key.bytes ++ [bank.code]) ++ [if mode then 1 else 0, fieldByte] := by simp
    rw [hsplit]
    simp only [List.append_assoc (key.bytes ++ _)]
    exact congrArg fieldModeOf (byteAt_at _ _ _ (by simp))
  · have hsplit : key.bytes ++ [bank.code, if mode then 1 else 0, fieldByte]
        = (key.bytes ++ [bank.code, if mode then 1 else 0]) ++ [fieldByte] := by simp
    rw [hsplit]
    simp only [List.append_assoc (key.bytes ++ _)]
    exact byteAt_at _ _ _ (by simp)
  · exact (field_toLe_at _ _ start (by simp)).trans (Nat.mod_eq_of_lt hstart)
  · exact (field_toLe_last _ count (by simp)).trans (Nat.mod_eq_of_lt hcount)

/-- A READ of entries that the table has, of not more bytes than a reply takes. -/
theorem State.readCommand_reads {s : State} {c : Cell} {key : Key} {bank : Bank} {mode : Bool} {fieldByte : Byte}
    {start count n : Nat} {r : TableRecord} (hstart : start < 2 ^ 32)
    (hnamed : mode = true → fieldNamed key mode fieldByte ≠ none)
    (hp : c.payload = key.bytes ++ [bank.code, if mode then 1 else 0, fieldByte] ++ toLe 4 start ++ toLe 2 count)
    (hk : s.keyAbsent key = false) (hload : s.loader.starting = false)
    (hr : findTable s.tables.directory key bank = some (n, r)) (hfilled : r.state ≠ .filling)
    (h1 : 1 ≤ count) (hin : start + count ≤ r.entryCount)
    (hlen : count * (Span.mk (fieldNamed key mode fieldByte) start count).entrySize key ≤ 1024) :
    s.readCommand c =
      { state := s.recordFaults (r.parityFaults none (List.range' start count))
        status := .ok
        payload := r.readSpan ⟨fieldNamed key mode fieldByte, start, count⟩ } := by
  have hcount : count < 65536 := by
    have := Nat.le_mul_of_pos_right count (Span.entrySize_pos ⟨fieldNamed key mode fieldByte, start, count⟩ key)
    omega
  obtain ⟨hlength, hkey, hbank, hmode, hbyte, hfirst, hmany⟩ := readPayload_parsed hp hstart hcount
  have hchecks : s.tableChecks [key] false = none := State.tableChecks_passed (by simpa using hk) hload (by simp)
  have hinside : (Span.mk (fieldNamed key mode fieldByte) start count).inside r = true := by
    simp [Span.inside, h1, hin]
  have hfits : ¬Config.maxEntryData < count * (Span.mk (fieldNamed key mode fieldByte) start count).entrySize key := Nat.not_lt.2 hlen
  unfold State.readCommand
  simp [hlength, hkey, hbank, hmode, hchecks, hr, hfilled, hbyte, hfirst, hmany, spanOf_named hnamed, hinside, hfits, Span.entries]

/-- Settles O35: the READ is carried out, and with good parity it records no fault. -/
theorem readReturnsEntries : Obligations.ReadReturnsEntries := by
  intro s c rest key bank mode fieldByte named start count n r hserved hcarries hstart hn hnamed hp hk hload hr size hfilled h1 hin
    hlen p
  have hfield : named = fieldNamed key mode fieldByte := hn
  have hsize : size = (Span.mk named start count).entrySize key := by
    cases named <;> rfl
  have hread : r.readSpan ⟨named, start, count⟩ = p := by
    cases named <;> rfl
  rw [hsize, hfield] at hlen
  have hanswer := State.readCommand_reads (s := { s with cells := rest }) hstart (hfield ▸ hnamed) hp hk hload hr hfilled h1 hin hlen
  rw [← hfield, hread, State.recordFaults_withCells] at hanswer
  have hexec : exec (.tableRead []) s =
      .next ((s.recordFaults (r.parityFaults none (List.range' start count))).replied c rest .ok p false) :=
    congrArg Host.Outcome.next (State.serve_answered hserved hcarries hanswer)
  refine ⟨hexec, fun hgood => ?_⟩
  rw [hexec, r.parityFaults_good none _ hgood]
  rfl

end Sys2Proof.Machine
end

section
/-! SUPPORT. How STORE and LOAD begin: the tables that a STORE takes, the tables that a LOAD allocates, and the refusals of
both (R197, R200). -/

namespace Sys2Proof.Machine

/-- The loader has no operation, and no completion of one waits. -/
def ImageLoader.free (l : ImageLoader) : Prop := l.op = none ∧ l.due = none

theorem ImageLoader.free_iff (l : ImageLoader) : (l.op.isSome || l.due.isSome) = true ↔ ¬l.free := by
  rw [ImageLoader.free]
  cases l.op <;> cases l.due <;> simp

/-! ### STORE (R197) -/

theorem State.hasChannel_of_keyAbsent {s : State} {key : Key} {k : Channel} (h : s.keyAbsent key = false)
    (hk : key.channel = some k) : s.straps.arrangement.hasChannel k = true := by
  unfold State.keyAbsent at h
  rw [hk] at h
  simpa [State.hasChannel] using h

/-- The image order holds every key of the arrangement. -/
theorem mem_imageKeys {s : State} {key : Key} (h : s.keyAbsent key = false) : key ∈ imageKeys s.straps.arrangement := by
  have hset : ∀ m : SetNo, m = 0 ∨ m = 1 ∨ m = 2 ∨ m = 3 := by decide
  rw [imageKeys, List.mem_append]
  cases hk : key.channel with
  | none =>
    obtain rfl : key = .lossmap := by
      cases key <;> simp_all [Key.channel]
    exact Or.inr (List.mem_singleton.2 rfl)
  | some k =>
    refine Or.inl (List.mem_flatMap.2 ⟨k, List.mem_filter.2 ⟨mem_channels k, State.hasChannel_of_keyAbsent h hk⟩, ?_⟩)
    cases key with
    | mesh k' => simp_all [Key.channel]
    | blend k' m =>
      obtain rfl := Option.some.inj hk
      simpa using hset m
    | tone k' => simp_all [Key.channel]
    | lossmap => cases hk

/-- The lookup of a key finds the record of its only table in the bank. -/
theorem DirSound.findTable_eq {dir : Assoc TableRecord} {keys : List Key} {filling : List Nat} (h : DirSound dir keys filling)
    {n : Nat} {r : TableRecord} (hr : Assoc.find dir n = some r) : findTable dir r.key r.bank = some (n, r) := by
  cases hf : findTable dir r.key r.bank with
  | none => exact absurd rfl (findTable_none_find hf hr rfl)
  | some e =>
    obtain ⟨m, q⟩ := e
    obtain ⟨hq, hk, hb⟩ := findTable_find h.wf hf
    by_cases hm : m = n
    · subst hm
      obtain rfl := Option.some.inj (hq.symm.trans hr)
      rfl
    · exact absurd hb (h.once m n q r hq hr hm hk)

/-- In a sound directory of the arrangement's keys a STORE takes the LIVE tables that have no drop mark. -/
theorem State.mem_tablesToStore {s : State} (h : s.directorySound = true)
    (hkeys : ∀ e ∈ s.tables.directory, s.keyAbsent e.2.key = false) (n : Nat) : n ∈ s.tablesToStore ↔
      ∃ r, Assoc.find s.tables.directory n = some r ∧ r.state = .live ∧ r.dropMark = false := by
  obtain ⟨hd, -⟩ := s.directorySound_iff.1 h
  unfold State.tablesToStore
  rw [List.mem_filterMap]
  constructor
  · rintro ⟨key, -, hkey⟩
    split at hkey
    · rename_i m r hfind
      obtain ⟨hr, -, hb⟩ := findTable_find hd.wf hfind
      split at hkey
      · cases hkey
      · rename_i hmark
        obtain rfl := Option.some.inj hkey
        exact ⟨r, hr, (TableRecord.bank_live r).1 hb, by simpa using hmark⟩
    · cases hkey
  · rintro ⟨r, hr, hlive, hmark⟩
    refine ⟨r.key, mem_imageKeys (hkeys (n, r) (Assoc.mem_of_find hr)), ?_⟩
    have hfind := hd.findTable_eq hr
    rw [(TableRecord.bank_live r).2 hlive] at hfind
    rw [hfind]
    simp [hmark]

theorem State.storeCommand_busy {s : State} {c : Cell} (hp : c.payload = []) (h : ¬s.loader.free) :
    s.storeCommand c = .refuse s .busy := by
  simp [State.storeCommand, hp, (ImageLoader.free_iff _).2 h]

theorem State.storeCommand_begins {s : State} {c : Cell} (hp : c.payload = []) (h : s.loader.free) :
    s.storeCommand c =
      { state := s.setLoader ⟨some (.store c.link c.tag .p1 s.settings s.tablesToStore), none, .bad⟩, status := .accepted } := by
  simp [State.storeCommand, hp, h.1, h.2]

/-! ### The allocations of a LOAD (R50, R200) -/

/-- The allocations of a LOAD, one by one. -/
theorem allocateLoad_steps {arr : Arrangement} (ts : List ImageTable) (dirs : Nat → Assoc TableRecord) (records : Nat → Nat)
    (h : ∀ i, i < ts.length → ∀ x, ts[i]? = some x → createTable arr (dirs i) x.key x.dims .filling = some (records i, dirs (i + 1))) :
    allocateLoad arr (dirs 0) ts =
      some (dirs ts.length, ((List.range ts.length).map records).zip (ts.map (·.offset))) := by
  induction ts generalizing dirs records with
  | nil => rfl
  | cons t ts ih =>
    have hrest := ih (fun i => dirs (i + 1)) (fun i => records (i + 1)) fun i hi x hx =>
      h (i + 1) (Nat.succ_lt_succ hi) x hx
    rw [allocateLoad, h 0 (Nat.succ_pos _) t rfl]
    dsimp only
    rw [hrest, List.length_cons, List.range_succ_eq_map]
    simp [List.map_map, Function.comp_def]

/-- A LOAD that comes to a table without a record or a run allocates nothing. -/
theorem allocateLoad_fails {arr : Arrangement} (i : Nat) (ts : List ImageTable) (dirs : Nat → Assoc TableRecord)
    (records : Nat → Nat) {x : ImageTable} (hx : ts[i]? = some x)
    (h : ∀ j, j < i → ∀ y, ts[j]? = some y → createTable arr (dirs j) y.key y.dims .filling = some (records j, dirs (j + 1)))
    (hfail : createTable arr (dirs i) x.key x.dims .filling = none) : allocateLoad arr (dirs 0) ts = none := by
  induction i generalizing ts dirs records with
  | zero =>
    obtain ⟨rest, rfl⟩ : ∃ rest, ts = x :: rest := by
      cases ts with
      | nil => cases hx
      | cons t rest => exact ⟨rest, congrArg (· :: rest) (Option.some.inj hx)⟩
    rw [allocateLoad, hfail]
  | succ i ih =>
    cases ts with
    | nil => cases hx
    | cons t ts =>
      rw [allocateLoad, h 0 (Nat.succ_pos _) t rfl]
      dsimp only
      rw [ih ts (fun i => dirs (i + 1)) (fun i => records (i + 1)) hx (fun j hj y hy => h (j + 1) (Nat.succ_lt_succ hj) y hy) hfail]
      rfl

/-- Allocations leave the records of before. -/
theorem allocations_keep {arr : Arrangement} {ts : List ImageTable} {dirs : Nat → Assoc TableRecord} {records : Nat → Nat} {k : Nat}
    (hk : k ≤ ts.length)
    (h : ∀ i, i < ts.length → ∀ x, ts[i]? = some x → createTable arr (dirs i) x.key x.dims .filling = some (records i, dirs (i + 1)))
    {n : Nat} {r : TableRecord} (hr : Assoc.find (dirs 0) n = some r) : Assoc.find (dirs k) n = some r := by
  induction k with
  | zero => exact hr
  | succ k ih =>
    obtain ⟨p, ⟨-, hfree, -⟩, -, hdir⟩ := createTable_eq_some.1 (h k hk _ (List.getElem?_eq_getElem hk))
    rw [hdir, Assoc.find_insert_other]
    · exact ih (Nat.le_of_succ_le hk)
    · rintro rfl
      rw [ih (Nat.le_of_succ_le hk)] at hfree
      cases hfree

/-! ### LOAD (R200) -/

theorem State.loadCommand_busy {s : State} {c : Cell} (hp : c.payload = []) (h : ¬s.loader.free) :
    s.loadCommand c = .refuse s .busy := by
  simp [State.loadCommand, hp, (ImageLoader.free_iff _).2 h]

theorem State.loadCommand_noImage {s : State} {c : Cell} (hp : c.payload = []) (h : s.loader.free) (hi : s.loader.image = .none) :
    s.loadCommand c = .refuse s .noTable := by
  simp [State.loadCommand, hp, h.1, h.2, hi]

theorem State.loadCommand_badImage {s : State} {c : Cell} (hp : c.payload = []) (h : s.loader.free) (hi : s.loader.image = .bad) :
    s.loadCommand c = .refuse (s.recordFault imageCheckFault) .noTable := by
  simp [State.loadCommand, hp, h.1, h.2, hi]

theorem State.loadCommand_badForm {s : State} {c : Cell} (hp : c.payload = []) (h : s.loader.free) (hi : s.loader.image = .good)
    (ht : imageTables s.flash = none) :
    s.loadCommand c = .refuse ((s.setLoader { s.loader with image := .bad }).recordFault imageCheckFault) .noTable := by
  simp [State.loadCommand, hp, h.1, h.2, hi, ht]

theorem State.loadCommand_staged {s : State} {c : Cell} {ts : List ImageTable} (hp : c.payload = []) (h : s.loader.free)
    (hi : s.loader.image = .good) (ht : imageTables s.flash = some ts)
    (hs : ∃ x ∈ s.imageTablesUsed ts, (findTable s.tables.directory x.key .staged).isSome = true) :
    s.loadCommand c = .refuse s .state := by
  have hany : (s.imageTablesUsed ts).any (fun t => (findTable s.tables.directory t.key .staged).isSome) = true :=
    List.any_eq_true.2 hs
  unfold State.loadCommand
  simp only [hp, h.1, h.2, hi, ht, hany]
  simp

/-- A LOAD of a good image whose keys have no staged table, but for which no record or no run remains. -/
theorem State.loadCommand_noSpace {s : State} {c : Cell} {ts : List ImageTable} (hp : c.payload = []) (h : s.loader.free)
    (hi : s.loader.image = .good) (ht : imageTables s.flash = some ts)
    (hs : ∀ x ∈ s.imageTablesUsed ts, findTable s.tables.directory x.key .staged = none)
    (ha : allocateLoad s.straps.arrangement s.tables.directory (s.imageTablesUsed ts) = none) :
    s.loadCommand c = .refuse s .noSpace := by
  have hany : (s.imageTablesUsed ts).any (fun t => (findTable s.tables.directory t.key .staged).isSome) = false :=
    List.any_eq_false.2 fun x hx => by simp [hs x hx]
  simp [State.loadCommand, hp, h.1, h.2, hi, ht, hany, ha]

/-- A LOAD of a good image whose tables are all allocated. -/
theorem State.loadCommand_begins {s : State} {c : Cell} {ts : List ImageTable} {dir : Assoc TableRecord} {loads : List (Nat × Nat)}
    (hp : c.payload = []) (h : s.loader.free) (hi : s.loader.image = .good) (ht : imageTables s.flash = some ts)
    (hs : ∀ x ∈ s.imageTablesUsed ts, findTable s.tables.directory x.key .staged = none)
    (ha : allocateLoad s.straps.arrangement s.tables.directory (s.imageTablesUsed ts) = some (dir, loads)) :
    s.loadCommand c =
      { state := (s.setDirectory dir).setLoader ⟨some (.load c.link c.tag loads), none, .good⟩, status := .accepted } := by
  have hany : (s.imageTablesUsed ts).any (fun t => (findTable s.tables.directory t.key .staged).isSome) = false :=
    List.any_eq_false.2 fun x hx => by simp [hs x hx]
  simp [State.loadCommand, hp, h.1, h.2, hi, ht, hany, ha]

/-- A key has a staged table exactly where the lookup finds one. -/
theorem findTable_staged_iff {dir : Assoc TableRecord} {key : Key} :
    (findTable dir key .staged).isSome = true ↔ ∃ e ∈ dir, e.2.key = key ∧ e.2.state ≠ .live := by
  simp [findTable, TableRecord.bank_staged]

theorem State.serve_refused {s t : State} {c : Cell} {rest : List Cell} (h : s.served c rest) {mine : Cell → Bool}
    {command : Cell → State → Answer} (hm : mine c = true) {st : Status}
    (ha : command c { s with cells := rest } = .refuse { t with cells := rest } st) : s.serve mine command = t.replied c rest st [] false :=
  State.serve_answered h hm ha

/-- Settles O41: the refusals one by one in the order of the checks, the tables that a STORE takes, and the allocations of
a LOAD. -/
theorem storeAndLoadBegin : Obligations.StoreAndLoadBegin := by
  intro s c rest hserved hp refused free spoilt
  refine ⟨fun hc hbusy => ?_, fun hc hfree hsound hkeys => ?_, fun hc => ⟨fun hbusy => ?_, fun hfree hi => ?_, fun hfree hi => ?_,
    fun hfree hi ht => ?_, ?_⟩⟩
  · exact congrArg Host.Outcome.next (State.serve_refused (t := s) hserved hc (State.storeCommand_busy hp hbusy))
  · exact ⟨s.tablesToStore, congrArg Host.Outcome.next (State.serve_answered (t := { s with loader := _ }) hserved hc
      (State.storeCommand_begins (s := { s with cells := rest }) hp hfree)), State.mem_tablesToStore hsound hkeys⟩
  · exact congrArg Host.Outcome.next (State.serve_refused (t := s) hserved hc (State.loadCommand_busy hp hbusy))
  · exact congrArg Host.Outcome.next (State.serve_refused (t := s) hserved hc (State.loadCommand_noImage hp hfree hi))
  · refine congrArg Host.Outcome.next (State.serve_refused hserved hc ?_)
    rw [← State.recordFault_withCells]
    exact State.loadCommand_badImage hp hfree hi
  · refine congrArg Host.Outcome.next (State.serve_refused hserved hc ?_)
    rw [← State.recordFault_withCells]
    exact State.loadCommand_badForm (s := { s with cells := rest }) hp hfree hi ht
  · intro ts hfree hi ht used staged record run fit made
    refine ⟨fun hstaged => ?_, ?_⟩
    · refine congrArg Host.Outcome.next (State.serve_refused (t := s) hserved hc
        (State.loadCommand_staged (s := { s with cells := rest }) hp hfree hi ht ?_))
      obtain ⟨x, hx, hst⟩ := hstaged
      exact ⟨x, hx, findTable_staged_iff.2 hst⟩
    · intro dirs records pages hnone hdir allocates
      have hunstaged : ∀ x ∈ s.imageTablesUsed ts, findTable s.tables.directory x.key .staged = none := fun x hx =>
        Option.not_isSome_iff_eq_none.1 fun hst => hnone x hx (findTable_staged_iff.1 hst)
      have hcreate : ∀ i, allocates i → ∀ x, used[i]? = some x →
          createTable s.straps.arrangement (dirs i) x.key x.dims .filling = some (records i, dirs (i + 1)) := fun i ha x hx => by
        obtain ⟨hrecord, hfit, hnext⟩ := ha x hx
        exact createTable_eq_some.2 ⟨pages i, hrecord, hfit, hnext⟩
      refine ⟨fun hall => ⟨?_, fun n r hr => ?_⟩, fun i x hbefore hx hfull => ?_⟩
      · have hloads := allocateLoad_steps used dirs records fun i hi => hcreate i (hall i hi)
        rw [hdir] at hloads
        exact congrArg Host.Outcome.next (State.serve_answered
          (t := { s with tables := { s.tables with directory := _ }, loader := _ }) hserved hc
          (State.loadCommand_begins (s := { s with cells := rest }) hp hfree hi ht hunstaged hloads))
      · exact allocations_keep (Nat.le_refl _) (fun i hi => hcreate i (hall i hi)) (by rw [hdir]; exact hr)
      · have hloads := allocateLoad_fails i used dirs records hx (fun j hj => hcreate j (hbefore j hj)) (createTable_eq_none.2 hfull)
        rw [hdir] at hloads
        exact congrArg Host.Outcome.next (State.serve_refused (t := s) hserved hc
          (State.loadCommand_noSpace (s := { s with cells := rest }) hp hfree hi ht hunstaged hloads))

end Sys2Proof.Machine
end

section
/-! SUPPORT. The start-up load: the settings records applied in order, and each table of the image created LIVE (R193 to
R195). -/

namespace Sys2Proof.Machine

/-! ### The settings records (R195) -/

theorem settingOf_eq_some {n : Nat} {id : SettingId} (h : settingOf n = some id) : n = id.code := by
  obtain ⟨hn, rfl⟩ := List.getElem?_eq_some_iff.1 (show settingIds[n]? = some id from h)
  exact (List.Nodup.idxOf_getElem (by decide) n hn).symm

/-- The settings after one record of the image: an unknown identifier and an absent channel change nothing (R195). -/
def State.recordApplied (s : State) (st : Settings) (rec : Bytes) : Settings :=
  match settingOf (byteAt rec 0), channelOf (byteAt rec 1) with
  | some id, some k =>
    if id.perChannel = true ∧ s.hasChannel k = false then st
    else st.store id k (id.legal s.straps.arrangement st (field rec 2 8))
  | some id, none => if id.perChannel = true then st else st.store id 0 (id.legal s.straps.arrangement st (field rec 2 8))
  | none, _ => st

/-- A setting stored changes the settings and the notices, and the notices for notice_enable alone. -/
theorem State.storeSetting_spec (s : State) (id : SettingId) (k : Channel) (v : Nat) :
    ∃ ns : List Notice, s.storeSetting id k v =
        { s with settings := s.settings.store id k (id.legal s.straps.arrangement s.settings v), notices := ns }
      ∧ (id ≠ .noticeEnable → ns = s.notices) := by
  cases id
  case noticeEnable =>
    obtain ⟨ns, h⟩ := s.setEnables_spec (BitVec.ofNat 45 (SettingId.noticeEnable.legal s.straps.arrangement s.settings v))
    exact ⟨ns, h, fun hne => absurd rfl hne⟩
  all_goals exact ⟨s.notices, rfl, fun _ => rfl⟩

/-- A setting without a value per channel is stored alike for every channel. -/
theorem Settings.store_channel {id : SettingId} (h : id.perChannel = false) (st : Settings) (k k' : Channel) (v : Nat) :
    st.store id k v = st.store id k' v := by
  cases id <;> simp_all [SettingId.perChannel, Settings.store]

theorem State.applyRecord_spec (s : State) (rec : Bytes) :
    ∃ ns : List Notice, s.applyRecord rec = { s with settings := s.recordApplied s.settings rec, notices := ns }
      ∧ (byteAt rec 0 ≠ SettingId.code .noticeEnable → ns = s.notices) := by
  have hquiet : ∀ id, settingOf (byteAt rec 0) = some id → byteAt rec 0 ≠ SettingId.code .noticeEnable → id ≠ .noticeEnable := by
    rintro id hid hne rfl
    exact hne (settingOf_eq_some hid)
  unfold State.applyRecord State.recordApplied
  cases hid : settingOf (byteAt rec 0) with
  | none => exact ⟨s.notices, rfl, fun _ => rfl⟩
  | some id =>
    cases hp : id.perChannel with
    | false =>
      obtain ⟨ns, hs, hn⟩ := s.storeSetting_spec id 0 (field rec 2 8)
      refine ⟨ns, ?_, fun hne => hn (hquiet id hid hne)⟩
      cases hk : channelOf (byteAt rec 1) with
      | none => simpa [hp] using hs
      | some k => simpa [hp, Settings.store_channel hp s.settings k 0] using hs
    | true =>
      cases hk : channelOf (byteAt rec 1) with
      | none => exact ⟨s.notices, by simp [hp], fun _ => rfl⟩
      | some k =>
        cases hc : s.hasChannel k with
        | false => exact ⟨s.notices, by simp [hp, hc], fun _ => rfl⟩
        | true =>
          obtain ⟨ns, hs, hn⟩ := s.storeSetting_spec id k (field rec 2 8)
          exact ⟨ns, by simpa [hp, hc] using hs, fun hne => hn (hquiet id hid hne)⟩

/-- The records of a list applied in order. -/
theorem State.foldl_applyRecord_spec (s : State) (recs : List Bytes) :
    ∃ ns : List Notice,
      recs.foldl State.applyRecord s = { s with settings := recs.foldl s.recordApplied s.settings, notices := ns }
      ∧ ((∀ rec ∈ recs, byteAt rec 0 ≠ SettingId.code .noticeEnable) → ns = s.notices) := by
  induction recs generalizing s with
  | nil => exact ⟨s.notices, rfl, fun _ => rfl⟩
  | cons rec recs ih =>
    obtain ⟨ns, hs, hn⟩ := s.applyRecord_spec rec
    obtain ⟨ns', hs', hn'⟩ := ih (s.applyRecord rec)
    refine ⟨ns', ?_, fun hall => (hn' fun x hx => hall x (List.mem_cons_of_mem _ hx)).trans ?_⟩
    · rw [List.foldl_cons, hs', hs]
      rfl
    · rw [hs]
      exact hn (hall rec (List.mem_cons_self ..))

/-! ### The tables of the image (R195) -/

/-- A block of the flash within a longer one. -/
theorem Memory.slice_readBytes (m : Assoc Byte) (a : Nat) {o n len : Nat} (h : o + n ≤ len) :
    slice (Memory.readBytes m a len) o n = Memory.readBytes m (a + o) n := by
  refine List.ext_getElem (by simp [slice, Memory.readBytes]; omega) fun i h1 h2 => ?_
  simp [slice, Memory.readBytes, Nat.add_assoc]

/-- A table written from the image: its entries are those of the image, brought into range (R170). -/
theorem TableRecord.read_writeImage (r : TableRecord) (m : Assoc Byte) (off : Nat) {j : Nat} (hj : j < r.entryCount) :
    (r.writeImage m off).read j =
      (r.key.entryOfBytes j (Memory.readBytes m (14 + off + j * r.key.entryBytes) r.key.entryBytes)).1 := by
  obtain ⟨-, hread, -⟩ := TableRecord.storeEntries_whole r.key.entryBytes r.entryCount 0
    (Memory.readBytes m (headerBytes + off) (r.entryCount * r.key.entryBytes)) r false
  have hblock : slice (Memory.readBytes m (headerBytes + off) (r.entryCount * r.key.entryBytes)) (j * r.key.entryBytes) r.key.entryBytes
      = Memory.readBytes m (14 + off + j * r.key.entryBytes) r.key.entryBytes := by
    refine Memory.slice_readBytes m _ ?_
    rw [← Nat.succ_mul]
    exact Nat.mul_le_mul_right _ hj
  rw [← hblock]
  simp only [Nat.zero_add] at hread
  exact hread j hj

theorem Assoc.modify_free {α : Type} {m : Assoc α} {k : Nat} (h : Assoc.find m k = none) (f : α → α) : Assoc.modify m k f = m := by
  induction m with
  | nil => rfl
  | cons e rest ih =>
    obtain ⟨j, y⟩ := e
    rw [Assoc.find_cons] at h
    split at h
    · cases h
    rename_i hj
    rw [Assoc.modify] at ih ⊢
    rw [List.map_cons, ih h, if_neg hj]

/-- A value put at a free key and changed there at once. -/
theorem Assoc.modify_insert {α : Type} {m : Assoc α} {k : Nat} (h : Assoc.find m k = none) (x : α) (f : α → α) :
    Assoc.modify (Assoc.insert m k x) k f = Assoc.insert m k (f x) := by
  induction m with
  | nil => simp [Assoc.insert, Assoc.modify]
  | cons e rest ih =>
    obtain ⟨j, y⟩ := e
    have hj : j ≠ k := by
      rintro rfl
      rw [Assoc.find_cons, if_pos rfl] at h
      cases h
    have hfree := Assoc.modify_free h f
    rw [Assoc.find_cons, if_neg hj] at h
    rw [Assoc.insert, Assoc.insert]
    by_cases hlt : k < j
    · rw [if_pos hlt, if_pos hlt, ← congrArg ((k, f x) :: ·) hfree]
      simp [Assoc.modify]
    · rw [if_neg hlt, if_neg hlt, if_neg (Ne.symm hj), if_neg (Ne.symm hj), ← ih h]
      simp [Assoc.modify, hj]

/-- The lookup of a LIVE table finds one exactly where the directory has one. -/
theorem liveRecord_isSome {dir : Assoc TableRecord} {key : Key} :
    (liveRecord dir key).isSome = true ↔ ∃ e ∈ dir, e.2.key = key ∧ e.2.state = .live := by
  simp [liveRecord, findTable, TableRecord.bank_live]

theorem State.loadLive_live {s : State} {x : ImageTable} (h : ∃ e ∈ s.tables.directory, e.2.key = x.key ∧ e.2.state = .live) :
    s.loadLive x = s := by
  rw [State.loadLive, if_pos (liveRecord_isSome.2 h)]

theorem State.loadLive_full {s : State} {x : ImageTable}
    (h : (∀ n, ¬freeRecord s.tables.directory n) ∨ ∀ p, ¬freeRun s.straps.arrangement s.tables.directory (x.key.pages x.dims) p) :
    s.loadLive x = s := by
  rw [State.loadLive, createTable_eq_none.2 h]
  split <;> rfl

theorem State.loadLive_creates {s : State} {x : ImageTable} {n p : Nat}
    (h : ¬∃ e ∈ s.tables.directory, e.2.key = x.key ∧ e.2.state = .live) (hn : freeRecord s.tables.directory n)
    (hp : firstRun s.straps.arrangement s.tables.directory (x.key.pages x.dims) p) :
    s.loadLive x = s.setDirectory
      (Assoc.insert s.tables.directory n ((newTable x.key x.dims .live p).writeImage s.flash x.offset)) := by
  rw [State.loadLive, if_neg (mt liveRecord_isSome.1 h), createTable_eq_some.2 ⟨p, hn, hp, rfl⟩]
  exact congrArg s.setDirectory (Assoc.modify_insert hn.2.1 _ _)

/-- The creation of a table from the image changes the directory alone, and every record of before stands. -/
theorem State.loadLive_frame (s : State) (x : ImageTable) : s.loadLive x = s.setDirectory (s.loadLive x).tables.directory
    ∧ ∀ n r, Assoc.find s.tables.directory n = some r → Assoc.find (s.loadLive x).tables.directory n = some r := by
  unfold State.loadLive
  split
  · exact ⟨rfl, fun _ _ h => h⟩
  split
  · exact ⟨rfl, fun _ _ h => h⟩
  rename_i n dir hcreate
  obtain ⟨p, ⟨-, hfree, -⟩, -, rfl⟩ := createTable_eq_some.1 hcreate
  refine ⟨rfl, fun m r hr => ?_⟩
  have hm : m ≠ n := by
    rintro rfl
    rw [hfree] at hr
    cases hr
  have hfind := Assoc.find_modify (Assoc.insert s.tables.directory n (newTable x.key x.dims .live p)) n m fun r =>
    r.writeImage s.flash x.offset
  rw [if_neg hm, Assoc.find_insert_other _ _ hm, hr] at hfind
  exact hfind

theorem State.foldl_loadLive_frame (s : State) (ts : List ImageTable) :
    ts.foldl State.loadLive s = s.setDirectory (ts.foldl State.loadLive s).tables.directory
    ∧ ∀ n r, Assoc.find s.tables.directory n = some r → Assoc.find (ts.foldl State.loadLive s).tables.directory n = some r := by
  induction ts generalizing s with
  | nil => exact ⟨rfl, fun _ _ h => h⟩
  | cons x ts ih =>
    obtain ⟨hone, hkeep⟩ := s.loadLive_frame x
    obtain ⟨hrest, hkeeps⟩ := ih (s.loadLive x)
    have hagain := congrArg (fun t : State => t.setDirectory (ts.foldl State.loadLive (s.loadLive x)).tables.directory) hone
    exact ⟨hrest.trans hagain, fun n r h => hkeeps n r (hkeep n r h)⟩

/-! ### The steps of the load -/

theorem exec_startupHeaderReadDone {s : State} (h : s.loader.op = some (.startup .header)) : exec .startupHeaderReadDone s =
    .next (if Memory.readBytes s.flash 0 4 = [0xC4, 0x12, 0xDA, 0x7E] then
        s.setLoader { s.loader with op := some (.startup .check) } else s.endStartup .none) := by
  have hmagic : hasMagic s.flash = true ↔ Memory.readBytes s.flash 0 4 = [0xC4, 0x12, 0xDA, 0x7E] := beq_iff_eq
  change execStartupHeaderReadDone s = _
  rw [execStartupHeaderReadDone, h]
  simp only [hmagic]
  split <;> rfl

theorem exec_imageCheckReadDone {s : State} (h : s.loader.op = some (.startup .check)) : exec .imageCheckReadDone s =
    if imageGood s.flash = true then
      .next (s.setLoader { s.loader with op := some (.startup .apply), image := .good }).applySettings
    else .next ((s.endStartup .bad).recordFault imageCheckFault) := by
  change execImageCheckReadDone s = _
  rw [execImageCheckReadDone, h]

theorem exec_startupLoadDone {s : State} (h : s.loader.op = some (.startup .apply)) : exec .startupLoadDone s =
    .next (s.applyTables.setLoader { s.applyTables.loader with op := none }) := by
  change execStartupLoadDone s = _
  rw [execStartupLoadDone, h]

/-- One table of the image after those before it. -/
theorem State.foldl_loadLive_take (s : State) {ts : List ImageTable} {i : Nat} {x : ImageTable} (hx : ts[i]? = some x) :
    (ts.take (i + 1)).foldl State.loadLive s = ((ts.take i).foldl State.loadLive s).loadLive x := by
  rw [List.take_add_one, hx, List.foldl_append]
  rfl

/-- A table that the start-up load creates: its fields are those that it was given, its entries those of the image. -/
theorem loaded_fields (key : Key) (dims : Option Dims) (p : Nat) (m : Assoc Byte) (off : Nat) :
    let r := (newTable key dims .live p).writeImage m off
    r.key = key ∧ r.state = .live ∧ r.dims = dims ∧ r.firstPage = p ∧ r.pageCount = key.pages dims ∧ r.locked = false
      ∧ r.dropMark = false
      ∧ ∀ j, j < key.entryCount dims → r.read j =
          (key.entryOfBytes j (Memory.readBytes m (14 + off + j * key.entryBytes) key.entryBytes)).1 := by
  have hframe := ((newTable key dims .live p).writeImage_frame m off).1
  exact ⟨(congrArg TableRecord.key hframe :), (congrArg TableRecord.state hframe :), (congrArg TableRecord.dims hframe :),
    (congrArg TableRecord.firstPage hframe :), (congrArg TableRecord.pageCount hframe :), (congrArg TableRecord.locked hframe :),
    (congrArg TableRecord.dropMark hframe :), fun j hj => (newTable key dims .live p).read_writeImage m off hj⟩

theorem State.applyTables_frame (s : State) : s.applyTables = s.setDirectory s.applyTables.tables.directory
    ∧ ∀ n r, Assoc.find s.tables.directory n = some r → Assoc.find s.applyTables.tables.directory n = some r := by
  unfold State.applyTables
  split
  · exact ⟨rfl, fun _ _ h => h⟩
  · exact s.foldl_loadLive_frame _

/-- Settles O17, moment by moment: the header read, the checking read, and the end of the load, whose tables are created one
after another. -/
theorem startupLoadRuns : Obligations.StartupLoadRuns := by
  refine ⟨fun s h => ?_, fun s h => ⟨fun hgood => ?_, fun hbad => ?_⟩, fun s h => ?_⟩
  · exact exec_startupHeaderReadDone h
  · obtain ⟨ns, hs, hn⟩ := State.foldl_applyRecord_spec
      (s.setLoader { s.loader with op := some (.startup .apply), image := .good }) (settingsRecords s.flash)
    rw [exec_imageCheckReadDone h, if_pos hgood]
    exact ⟨ns, congrArg Host.Outcome.next hs, hn⟩
  · rw [exec_imageCheckReadDone h, if_neg (by simp [hbad])]
    rfl
  · obtain ⟨hframe, hkeep⟩ := s.applyTables_frame
    refine ⟨s.applyTables.tables.directory, ?_, hkeep, fun hnone => ?_, fun ts hts => ?_⟩
    · rw [exec_startupLoadDone h]
      exact congrArg (fun t : State => Host.Outcome.next (t.setLoader { t.loader with op := none })) hframe
    · rw [State.applyTables, hnone]
    · intro used
      have happly : s.applyTables = used.foldl State.loadLive s := by rw [State.applyTables, hts]; rfl
      refine ⟨fun i => ((used.take i).foldl State.loadLive s).tables.directory, rfl, ?_, fun i x hx => ?_⟩
      · change ((used.take used.length).foldl State.loadLive s).tables.directory = _
        rw [List.take_length, happly]
      · intro d isLive record run
        dsimp only
        have hbefore := (s.foldl_loadLive_frame (used.take i)).1
        rw [s.foldl_loadLive_take hx]
        have hstraps : ((used.take i).foldl State.loadLive s).straps = s.straps :=
          (congrArg State.straps hbefore :)
        have hflash : ((used.take i).foldl State.loadLive s).flash = s.flash :=
          (congrArg State.flash hbefore :)
        refine ⟨fun hlive => congrArg (·.tables.directory) (State.loadLive_live hlive), fun hlive n p hn hrun hmin => ?_,
          fun _ hfull => congrArg (·.tables.directory) (State.loadLive_full (by rw [hstraps]; exact hfull))⟩
        have hfirst : firstRun ((used.take i).foldl State.loadLive s).straps.arrangement d (x.key.pages x.dims) p := by
          rw [hstraps]
          exact ⟨hrun, hmin⟩
        have hcreates := State.loadLive_creates hlive hn hfirst
        rw [hflash] at hcreates
        exact ⟨_, congrArg (·.tables.directory) hcreates, loaded_fields x.key x.dims p s.flash x.offset⟩

end Sys2Proof.Machine
end

section
/-! SUPPORT. The table changes of a frame start (R66 to R68): what they make of the directory, the swap and the latches of
SWAP_DONE and SWAP_LATE, and that no other block of a frame start touches these. -/

namespace Sys2Proof.Machine

/-! ### What a swap concerns -/

/-- The part of the state that a swap concerns. -/
structure SwapView where
  directory : Assoc TableRecord
  swap : Option PendingSwap
  storing : Bool
  done : Bool
  late : Bool

def State.swapView (s : State) : SwapView :=
  ⟨s.tables.directory, s.tables.swap, s.loader.storing, s.latches.getLsbD Cond.swapDone, s.latches.getLsbD Cond.swapLate⟩

/-- The conditions that a swap raises. -/
def swapRaises : List Cond := [Cond.swapDone, Cond.swapLate]

/-- A swap does not concern what leaves the ledger and these latches alone. -/
theorem State.swapView_eq {s t : State} (hl : t.ledger = s.ledger)
    (hb : ∀ d ∈ swapRaises, t.latches.getLsbD d = s.latches.getLsbD d) : t.swapView = s.swapView := by
  have hop : t.loader.op = s.loader.op := congrArg (·.2.2.2) hl
  have hstoring : t.loader.storing = s.loader.storing := by rw [ImageLoader.storing, ImageLoader.storing, hop]
  rw [State.swapView, State.swapView, hstoring, hb _ (by decide), hb _ (by decide)]
  rw [show t.tables.directory = s.tables.directory from congrArg (·.1) hl,
    show t.tables.swap = s.tables.swap from congrArg (·.2.1) hl]

/-! ### The other blocks of a frame start -/

/-- The decision raises FRAME_HELD and FRAME_DROP alone. -/
theorem State.decisionRaises_not_swap (s : State) (o : RoundOutcome) {d : Cond} (hd : d ∈ swapRaises) : d ∉ s.decisionRaises o := by
  have hne : ∀ d ∈ swapRaises, ∀ k : Channel, d ≠ Cond.frameHeld k ∧ d ≠ Cond.frameDrop k := by decide
  intro hmem
  obtain ⟨k, -, hk⟩ := List.mem_flatMap.1 hmem
  unfold State.decideChannel at hk
  split at hk
  · rcases List.mem_append.1 hk with hk | hk
    · exact (hne d hd k).1 (List.mem_singleton.1 (List.mem_ite_nil_right.1 hk).2)
    · exact (hne d hd k).2 (List.mem_singleton.1 (List.mem_ite_nil_right.1 hk).2)
  · cases hk

theorem swapRaises_ne_faultLogged {d : Cond} (hd : d ∈ swapRaises) : d ≠ Cond.faultLogged := by
  revert d
  decide

theorem State.recordFaults_latch_other (s : State) (fs : List FaultRecord) {d : Cond} (hd : d ≠ Cond.faultLogged) :
    (s.recordFaults fs).latches.getLsbD d = s.latches.getLsbD d := by
  obtain ⟨gs, o, b, ns, h, hb⟩ := s.recordFaults_eq fs
  rw [h]
  exact hb d hd

/-- Coherence and the slots come before the table changes and leave them their view. -/
theorem State.showFrame_swapView (s : State) : s.showFrame.swapView = s.swapView := by
  refine State.swapView_eq s.showFrame_ledger fun d hd => ?_
  let applied := s.setCoh s.cohAtFrameStart
  have hlatch := (((applied.decideSlots s.coh.outcome).recordShown).recordFaults s.ringLostFault).raiseAll_latch
    (applied.decisionRaises s.coh.outcome) d
  rw [decide_eq_false (State.decisionRaises_not_swap _ _ hd), Bool.false_or,
    State.recordFaults_latch_other _ _ (swapRaises_ne_faultLogged hd)] at hlatch
  exact hlatch

theorem State.rasterChange_swapView (s : State) : s.rasterChange.swapView = s.swapView := by
  have hne : ∀ d ∈ swapRaises, ∀ j : Channel, d ≠ Cond.outputChange j := by decide
  obtain ⟨p, w, u, b, ns, h, -, -, hb⟩ := s.rasterChange_eq
  rw [h]
  exact State.swapView_eq rfl fun d hd => hb d (hne d hd)

/-- The loss selector raises PRESENCE_CHANGED and, with the faults it records, FAULT_LOGGED. -/
theorem State.lossAtFrameStart_swapView (s : State) (up : Quad Bool) (handed : Option Vec32) :
    (s.lossAtFrameStart up handed).swapView = s.swapView := by
  have hne : ∀ d ∈ swapRaises, d ≠ Cond.presenceChanged := by decide
  have happly : ∀ y : State, (y.applyVector handed).swapView = y.swapView := fun y => by
    unfold State.applyVector
    dsimp only
    split
    · rfl
    · obtain ⟨b, ns, h, hb⟩ := State.raise_eq { y with loss := { y.loss with applied := y.newVector handed } } Cond.presenceChanged
      rw [h]
      exact State.swapView_eq rfl fun d hd => (hb d).trans (by rw [decide_eq_false (hne d hd), Bool.false_or])
  have hchoose : ∀ y : State, y.chooseSets.swapView = y.swapView := fun y => by
    unfold State.chooseSets
    dsimp only
    split
    · rfl
    split
    · rfl
    · obtain ⟨gs, o, b, ns, h, hb⟩ := State.recordFaults_eq _ _
      rw [h]
      exact State.swapView_eq rfl fun d hd => hb d (swapRaises_ne_faultLogged hd)
  exact (hchoose _).trans (happly (s.filterOutputs up))

theorem State.channelStarts_swapView (s : State) : (channels.foldl State.channelStart s).swapView = s.swapView := by
  obtain ⟨w, u, gs, o, b, ns, h, -, hb⟩ := s.channelStarts_eq
  rw [h]
  exact State.swapView_eq rfl fun d hd => hb d (swapRaises_ne_faultLogged hd)

/-- After a frame start the part has of the swap what the table changes left, and coherence as it was then. -/
theorem State.frameStart_swapView (s : State) (own : Bool) :
    (s.frameStart own).swapView = s.showFrame.tablesAtFrameStart.swapView ∧ (s.frameStart own).coh = s.showFrame.coh := by
  constructor
  · rw [State.frameStart_eq]
    obtain ⟨p, h, -⟩ := State.beginFrame_eq (channels.foldl State.channelStart s.framed) own
    rw [h]
    refine (State.channelStarts_swapView s.framed).trans ?_
    exact (State.lossAtFrameStart_swapView _ _ _).trans (State.rasterChange_swapView _)
  · unfold State.frameStart
    dsimp only
    obtain ⟨dir, sw, l2, n2, h2⟩ := s.showFrame.tablesAtFrameStart_spec
    obtain ⟨p, w, u, l3, n3, h3⟩ := s.showFrame.tablesAtFrameStart.rasterChange_spec
    obtain ⟨x, g4, o4, l4, n4, h4⟩ := State.lossAtFrameStart_spec s.showFrame.tablesAtFrameStart.rasterChange.takeModes
      (Quad.of fun k => (s.outputs.get k).state.up) s.coh.handedVector
    obtain ⟨w5, u5, g5, o5, l5, n5, h5⟩ := State.channelStarts_spec
      (s.showFrame.tablesAtFrameStart.rasterChange.takeModes.lossAtFrameStart
        (Quad.of fun k => (s.outputs.get k).state.up) s.coh.handedVector).fitTest
    rw [h5, h4]
    obtain ⟨p6, h6⟩ := State.beginFrame_spec _ own
    rw [h6, h3, h2]
    rfl

/-! ### The table changes (R66 to R68) -/

/-- Whether a swap is due by the test of R66. -/
def swapDueNow (c : Coherence) (w : PendingSwap) : Prop :=
  w.target = none ∨ c.mode = .loose ∨ ∃ f g, w.target = some f ∧ c.shown = some g ∧ (g = f ∨ newer g f = true)

theorem swapDue_iff (c : Coherence) (w : PendingSwap) : (swapDue c w).1 = true ↔ swapDueNow c w := by
  unfold swapDue swapDueNow
  cases w.target with
  | none => simp
  | some f =>
    dsimp only
    by_cases hm : c.mode = .loose
    · simp [hm]
    · cases hs : c.shown <;> simp [hm]

theorem swapDue_late_iff (c : Coherence) (w : PendingSwap) : (swapDue c w).2 = true ↔ w.target ≠ none ∧ c.mode = .loose := by
  unfold swapDue
  cases w.target with
  | none => simp
  | some f =>
    dsimp only
    by_cases hm : c.mode = .loose
    · simp [hm]
    · cases hs : c.shown <;> simp [hm]

/-- What a frame start makes of a record where no swap takes effect: a LIVE one that is marked is removed (R68). -/
def TableRecord.afterDrops (r : TableRecord) : Option TableRecord := if r.state = .live ∧ r.dropMark = true then none else some r

/-- What a frame start makes of a record where the swap of the keys takes effect (R68). -/
def TableRecord.afterSwap (r : TableRecord) (keys : List Key) : Option TableRecord :=
  if r.state = .live then (if r.key ∈ keys ∨ r.dropMark = true then none else some r)
  else if r.key ∈ keys then some { r with state := .live, locked := false } else some r

theorem find_dropMarked {dir : Assoc TableRecord} (h : Assoc.wf dir = true) (n : Nat) :
    Assoc.find (dropMarked dir) n = (Assoc.find dir n).bind TableRecord.afterDrops := by
  rw [dropMarked, Assoc.find_filter _ h]
  cases Assoc.find dir n with
  | none => rfl
  | some r =>
    by_cases hl : r.state = .live
    · cases hm : r.dropMark <;> simp [TableRecord.afterDrops, Option.filter, hl, hm]
    · simp [TableRecord.afterDrops, Option.filter, hl]

theorem find_swapped {dir : Assoc TableRecord} (h : Assoc.wf dir = true) (keys : List Key) (n : Nat) :
    Assoc.find (promote (dropMarked dir) keys) n = (Assoc.find dir n).bind (·.afterSwap keys) := by
  rw [find_promote (show Assoc.wf (dropMarked dir) = true from Assoc.wf_filter _ h), find_dropMarked h]
  cases Assoc.find dir n with
  | none => rfl
  | some r =>
    by_cases hl : r.state = .live
    · by_cases hm : r.dropMark = true
      · simp [TableRecord.afterDrops, TableRecord.afterSwap, hl, hm]
      · by_cases hk : r.key ∈ keys <;>
          simp [TableRecord.afterDrops, TableRecord.afterSwap, TableRecord.promoted, Option.filter, hl, hm, hk]
    · by_cases hk : r.key ∈ keys <;>
        simp [TableRecord.afterDrops, TableRecord.afterSwap, TableRecord.promoted, Option.filter, hl, hk]

/-- While a STORE runs a due swap takes its deferred mark, and that is all (R67). -/
theorem State.tablesAtFrameStart_storing {s : State} (h : s.loader.storing = true) : s.tablesAtFrameStart =
    s.setTables { s.tables with
      swap := s.tables.swap.map fun w => { w with deferred := w.deferred || (swapDue s.coh w).1 } } := by
  unfold State.tablesAtFrameStart
  rw [h]
  cases hw : s.tables.swap with
  | none =>
    dsimp only [Option.map_none]
    rw [← hw]
    rfl
  | some w => rfl

/-- Without a swap that takes effect the marked LIVE tables are removed, and that is all. -/
theorem State.tablesAtFrameStart_waits {s : State} (h : s.loader.storing = false)
    (hw : ∀ w, s.tables.swap = some w → ¬(w.deferred = true ∨ swapDueNow s.coh w)) :
    s.tablesAtFrameStart = s.setDirectory (dropMarked s.tables.directory) := by
  unfold State.tablesAtFrameStart
  rw [h]
  cases hs : s.tables.swap with
  | none => rfl
  | some w =>
    obtain ⟨hd, hn⟩ := not_or.1 (hw w hs)
    have hdue : (swapDue s.coh w).1 = false := by rwa [← swapDue_iff, Bool.not_eq_true] at hn
    simp [hd, hdue]

/-- A swap that takes effect (R68). -/
theorem State.tablesAtFrameStart_takes {s : State} {w : PendingSwap} (h : s.loader.storing = false) (hs : s.tables.swap = some w)
    (hw : w.deferred = true ∨ swapDueNow s.coh w) :
    let t := s.setTables { s.tables with directory := promote (dropMarked s.tables.directory) w.keys, swap := none }
    s.tablesAtFrameStart = (if (w.deferred || (swapDue s.coh w).2) = true then t.raise Cond.swapLate else t).raise Cond.swapDone := by
  have hpair : (if w.deferred = true then (true, true) else swapDue s.coh w) = (true, w.deferred || (swapDue s.coh w).2) := by
    cases hd : w.deferred with
    | true => rfl
    | false => exact Prod.ext ((swapDue_iff _ _).2 (hw.resolve_left (by simp [hd]))) rfl
  unfold State.tablesAtFrameStart
  rw [h, hs]
  dsimp only
  rw [hpair]
  rfl

theorem State.swapView_raise_done (s : State) : (s.raise Cond.swapDone).swapView = { s.swapView with done := true } := by
  obtain ⟨b, ns, h, hb⟩ := s.raise_eq Cond.swapDone
  rw [h, State.swapView, State.swapView]
  dsimp only
  rw [hb, hb]
  rfl

theorem State.swapView_raise_late (s : State) : (s.raise Cond.swapLate).swapView = { s.swapView with late := true } := by
  obtain ⟨b, ns, h, hb⟩ := s.raise_eq Cond.swapLate
  rw [h, State.swapView, State.swapView]
  dsimp only
  rw [hb, hb]
  rfl

/-- A swap that takes effect raises SWAP_DONE, and SWAP_LATE where it is late (R68). -/
theorem State.tablesAtFrameStart_taken {s : State} {w : PendingSwap} (h : s.loader.storing = false) (hs : s.tables.swap = some w)
    (hw : w.deferred = true ∨ swapDueNow s.coh w) :
    s.tablesAtFrameStart.swapView = ⟨promote (dropMarked s.tables.directory) w.keys, none, false, true,
      s.latches.getLsbD Cond.swapLate || (w.deferred || (swapDue s.coh w).2)⟩ := by
  rw [State.tablesAtFrameStart_takes h hs hw, State.swapView_raise_done]
  cases w.deferred || (swapDue s.coh w).2 with
  | true =>
    rw [if_pos rfl, State.swapView_raise_late, Bool.or_true, ← h]
    rfl
  | false =>
    rw [if_neg (by decide), Bool.or_false, ← h]
    rfl

/-- What a frame start does to what a swap concerns, on coherence as it is after the decision. -/
structure TableChanges (a b : SwapView) (c : Coherence) : Prop where
  free : ∀ n, Assoc.find a.directory n = none → Assoc.find b.directory n = none
  storing : a.storing = true → b.directory = a.directory ∧ b.done = a.done ∧ b.late = a.late
    ∧ (a.swap = none → b.swap = none)
    ∧ ∀ w, a.swap = some w → ∃ d : Bool, b.swap = some { w with deferred := d } ∧ (d = true ↔ w.deferred = true ∨ swapDueNow c w)
  takes : a.storing = false → ∀ w, a.swap = some w → (w.deferred = true ∨ swapDueNow c w) →
    b.swap = none ∧ b.done = true ∧ (b.late = true ↔ a.late = true ∨ w.deferred = true ∨ (w.target ≠ none ∧ c.mode = .loose))
    ∧ ∀ n r, Assoc.find a.directory n = some r → Assoc.find b.directory n = r.afterSwap w.keys
  waits : a.storing = false → (∀ w, a.swap = some w → ¬(w.deferred = true ∨ swapDueNow c w)) →
    b.swap = a.swap ∧ b.done = a.done ∧ b.late = a.late
    ∧ ∀ n r, Assoc.find a.directory n = some r → Assoc.find b.directory n = r.afterDrops

theorem State.tableChanges {s : State} (h : Assoc.wf s.tables.directory = true) :
    TableChanges s.swapView s.tablesAtFrameStart.swapView s.coh := by
  have hnone : ∀ {n : Nat} {dir : Assoc TableRecord} {f : TableRecord → Option TableRecord},
      Assoc.find dir n = (Assoc.find s.tables.directory n).bind f → Assoc.find s.tables.directory n = none → Assoc.find dir n = none :=
    fun hd hn => hd.trans (congrArg (Option.bind · _) hn)
  refine ⟨fun n hn => ?_, fun hst => ?_, fun hst w hs hw => ?_, fun hst hw => ?_⟩
  · cases hst : s.loader.storing with
    | true =>
      rw [State.tablesAtFrameStart_storing hst]
      exact hn
    | false =>
      by_cases hw : ∃ w, s.tables.swap = some w ∧ (w.deferred = true ∨ swapDueNow s.coh w)
      · obtain ⟨w, hs, hw⟩ := hw
        rw [State.tablesAtFrameStart_taken hst hs hw]
        exact hnone (find_swapped h w.keys n) hn
      · rw [State.tablesAtFrameStart_waits hst fun w hs hd => hw ⟨w, hs, hd⟩]
        exact hnone (find_dropMarked h n) hn
  · rw [State.tablesAtFrameStart_storing hst]
    refine ⟨rfl, rfl, rfl, fun hs => congrArg (Option.map _) hs, fun w hs => ⟨_, congrArg (Option.map _) hs, ?_⟩⟩
    rw [Bool.or_eq_true, swapDue_iff]
  · rw [State.tablesAtFrameStart_taken hst hs hw]
    refine ⟨rfl, rfl, ?_, fun n r hr => (find_swapped h w.keys n).trans ?_⟩
    · rw [← swapDue_late_iff]
      simp [State.swapView]
    · rw [show Assoc.find s.tables.directory n = some r from hr]
      rfl
  · rw [State.tablesAtFrameStart_waits hst hw]
    refine ⟨rfl, rfl, rfl, fun n r hr => (find_dropMarked h n).trans ?_⟩
    rw [show Assoc.find s.tables.directory n = some r from hr]
    rfl

/-! ### The frame starts -/

theorem State.frameStart_changes {s : State} (own : Bool) (h : s.directorySound = true) :
    TableChanges s.swapView (s.frameStart own).swapView (s.frameStart own).coh := by
  have hsound : s.showFrame.directorySound = true := State.directorySound_of_ledger s.showFrame_ledger h
  obtain ⟨hview, hcoh⟩ := s.frameStart_swapView own
  rw [hview, hcoh, ← s.showFrame_swapView]
  exact State.tableChanges (State.directory_wf hsound)

/-- The notices of level conditions come after the table changes. -/
theorem State.levelNotices_changes {a : SwapView} {s : State} (before : State) (h : TableChanges a s.swapView s.coh) :
    TableChanges a (s.levelNotices before).swapView (s.levelNotices before).coh := by
  obtain ⟨ns, hn⟩ := s.levelNotices_spec before
  rw [hn]
  exact h

/-- Every frame start makes the table changes. -/
theorem exec_frameStarts_change {s : State} {i : Instr} (h : s.directorySound = true)
    (hi : (i = .frameStart [] ∧ s.straps.role ≠ .follower) ∨ ((i = .syncPulse [] ∨ i = .ownStart []) ∧ s.straps.role = .follower)) :
    ∃ t, exec i s = .next t ∧ TableChanges s.swapView t.swapView t.coh := by
  rcases hi with ⟨rfl, hrole⟩ | ⟨rfl | rfl, hrole⟩
  · exact ⟨_, State.exec_frameStart hrole, State.levelNotices_changes _
      (State.frameStart_changes (s := s.advanceTo s.timer.nextStart) false h)⟩
  · exact ⟨_, State.exec_syncPulse hrole, State.levelNotices_changes _
      (State.frameStart_changes (s := s.setCoh (s.coh.countStart false)) false h)⟩
  · exact ⟨_, State.exec_ownStart hrole, State.levelNotices_changes _
      (State.frameStart_changes (s := (s.advanceTo s.timer.ownStartDue).setCoh (s.coh.countStart true)) true h)⟩

/-- Settles O40: of a frame start the table changes alone concern a swap, and they make of each record what the statement
says. -/
theorem swapPromotesAtFrameStart : Obligations.SwapPromotesAtFrameStart := by
  intro s i hsound hi
  obtain ⟨t, hexec, hfree, hstoring, htakes, hwaits⟩ := exec_frameStarts_change hsound hi
  exact ⟨t, hexec, hfree, hstoring, htakes, hwaits⟩

end Sys2Proof.Machine
end

section
/-! SUPPORT. The phases of a STORE (R197, R198): what the flash holds after the operations of each phase, and the faults that
its reads find. -/

namespace Sys2Proof.Machine

/-! ### Strings in parts -/

/-- A part of a string that is put together from parts. -/
theorem slice_part (parts : List Bytes) (i : Nat) {x : Bytes} {off n : Nat} (hx : parts[i]? = some x)
    (ho : off = ((parts.take i).map List.length).sum) (hn : n = x.length) : slice parts.flatten off n = x := by
  obtain ⟨hi, rfl⟩ := List.getElem?_eq_some_iff.1 hx
  conv_lhs => rw [← List.take_append_drop i parts, List.drop_eq_getElem_cons hi, List.flatten_append, List.flatten_cons,
    ← List.append_assoc]
  exact slice_at _ _ _ (by rw [ho, List.length_flatten]) hn

/-- A piece of a piece. -/
theorem slice_slice (b : Bytes) {a m o n : Nat} (h : o + n ≤ m) : slice (slice b a m) o n = slice b (a + o) n := by
  rw [slice, slice, slice, List.drop_take, List.drop_drop, List.take_take, Nat.min_eq_left (by omega)]

/-- A part of a string whose parts all have one length. -/
theorem slice_flatMap {α : Type} (xs : List α) (f : α → Bytes) {n i : Nat} {x : α} (hf : ∀ y, (f y).length = n) (hx : xs[i]? = some x) :
    slice (xs.flatMap f) (i * n) n = f x := by
  refine slice_part (xs.map f) i (by simp [hx]) ?_ (hf x).symm
  have hi := (List.getElem?_eq_some_iff.1 hx).1
  have hlen : ∀ e ∈ ((xs.map f).take i).map List.length, e = n := by
    intro e he
    obtain ⟨y, hy, rfl⟩ := List.mem_map.1 he
    obtain ⟨z, -, rfl⟩ := List.mem_map.1 (List.mem_of_mem_take hy)
    exact hf z
  rw [List.eq_replicate_of_mem hlen, List.sum_replicate]
  simp [Nat.min_eq_left (Nat.le_of_lt hi)]

/-! ### Blocks of the flash -/

theorem Memory.read_writeBytes_outside (m : Assoc Byte) {a b : Nat} {bs : Bytes} (h : b < a ∨ a + bs.length ≤ b) :
    Memory.read (Memory.writeBytes m a bs) b = Memory.read m b := by
  rw [Memory.read, Memory.writeBytes, Assoc.find_append, Assoc.find_append, Memory.find_cellsFrom,
    Assoc.find_filter_key m (fun k => decide (k < a)), Assoc.find_filter_key m (fun k => decide (a + bs.length ≤ k)),
    if_neg (c := _ ∧ _) (fun hc => by omega)]
  rcases h with h | h
  · simp [h, show ¬a + bs.length ≤ b by omega, Memory.read]
  · simp [h, show ¬b < a by omega, Memory.read]

theorem Memory.readBytes_congr {m m' : Assoc Byte} {a n : Nat} (h : ∀ b, a ≤ b → b < a + n → Memory.read m b = Memory.read m' b) :
    Memory.readBytes m a n = Memory.readBytes m' a n :=
  List.map_congr_left fun i hi => h (a + i) (by omega) (by have := List.mem_range.1 hi; omega)

/-- A part of a block that has been programmed. -/
theorem Memory.readBytes_writeBytes (m : Assoc Byte) (a : Nat) (bs : Bytes) (hf : a + bs.length ≤ Config.flashBytes) {o n : Nat}
    (h : o + n ≤ bs.length) : Memory.readBytes (Memory.writeBytes m a bs) (a + o) n = slice bs o n := by
  refine List.ext_getElem (by simp [Memory.readBytes, slice]; omega) fun i h1 h2 => ?_
  have hi : i < n := by simpa [Memory.readBytes] using h1
  simp only [Memory.readBytes, List.getElem_map, List.getElem_range]
  rw [Memory.read_writeBytes _ _ _ _ (by omega), if_pos (by omega)]
  simp [slice, List.getElem_take, List.getElem_drop, show a + o + i - a = o + i by omega, show o + i < bs.length by omega]

/-! ### Flash operations -/

/-- The flash after all of a job. -/
def FlashJob.finish (m : Assoc Byte) (j : FlashJob) : Assoc Byte := j.run m j.units

@[simp] theorem FlashJob.finish_erase (m : Assoc Byte) (sector : Nat) :
    FlashJob.finish m (.erase sector) = Memory.eraseRange m (sector * Config.sectorBytes) Config.sectorBytes := rfl

@[simp] theorem FlashJob.finish_program (m : Assoc Byte) (a : Nat) (bs : Bytes) (r : Option TableRecord) :
    FlashJob.finish m (.program a bs r) = Memory.writeBytes m a bs :=
  congrArg (Memory.writeBytes m a) (List.take_length (l := bs))

theorem jobUnits_cons (j : FlashJob) (js : List FlashJob) : jobUnits (j :: js) = j.units + jobUnits js := by
  have hsum : ∀ js, jobUnits js = (js.map FlashJob.units).sum := fun js => List.sum_eq_foldl.symm
  rw [hsum, hsum, List.map_cons, List.sum_cons]

/-- All the operations of a list of jobs. -/
theorem runJobs_all (js : List FlashJob) (m : Assoc Byte) : runJobs js (jobUnits js) m = js.foldl FlashJob.finish m := by
  induction js generalizing m with
  | nil => rfl
  | cons j js ih =>
    rw [runJobs, jobUnits_cons, Nat.add_sub_cancel_left, Nat.min_eq_right (Nat.le_add_right ..), ih]
    rfl

theorem jobFaults_all (js : List FlashJob) : jobFaults js (jobUnits js) = js.flatMap fun j => j.faults j.units := by
  induction js with
  | nil => rfl
  | cons j js ih =>
    rw [jobFaults, jobUnits_cons, Nat.add_sub_cancel_left, Nat.min_eq_right (Nat.le_add_right ..), ih]
    rfl

/-- The faults of an interrupted list of jobs are those of entries that its tables have bad. -/
theorem mem_jobFaults {js : List FlashJob} {n : Nat} {f : FaultRecord} (h : f ∈ jobFaults js n) :
    ∃ a bs r, .program a bs (some r) ∈ js ∧ ∃ i ∈ r.bad, f = ⟨.poolParity, r.key.channel, none, .page (r.pageOf i)⟩ := by
  induction js generalizing n with
  | nil => cases h
  | cons j js ih =>
    rcases List.mem_append.1 h with h | h
    · match j, h with
      | .program a bs (some r), h =>
        obtain ⟨i, hi, rfl⟩ := List.mem_map.1 h
        exact ⟨a, bs, r, List.mem_cons_self .., i, by simpa using (List.mem_filter.1 hi).2, rfl⟩
    · obtain ⟨a, bs, r, hj, hi⟩ := ih h
      exact ⟨a, bs, r, List.mem_cons_of_mem _ hj, hi⟩

/-- Whole sectors erased. -/
theorem read_eraseSectors (sectors : List Nat) (m : Assoc Byte) (b : Nat) :
    Memory.read ((sectors.map FlashJob.erase).foldl FlashJob.finish m) b =
      if b / 65536 ∈ sectors then 0xFF else Memory.read m b := by
  induction sectors generalizing m with
  | nil => rfl
  | cons x sectors ih =>
    have hin : x * Config.sectorBytes ≤ b ∧ b < x * Config.sectorBytes + Config.sectorBytes ↔ b / 65536 = x := by
      rw [show Config.sectorBytes = 65536 from rfl]
      omega
    rw [List.map_cons, List.foldl_cons, ih, FlashJob.finish_erase, Memory.read_eraseRange]
    simp only [hin, List.mem_cons]
    by_cases hx : b / 65536 = x
    · simp [hx, Memory.erased]
    · simp [hx]

/-! ### The body of the image -/

/-- The bytes of the tables' data, all together. -/
def tablesLength (rs : List TableRecord) : Nat := (rs.map fun r => r.entryCount * r.key.entryBytes).sum

theorem tablesLength_cons (r : TableRecord) (rs : List TableRecord) :
    tablesLength (r :: rs) = r.entryCount * r.key.entryBytes + tablesLength rs := by
  rw [tablesLength, List.map_cons, List.sum_cons, tablesLength]

theorem imageLength_eq (st : Settings) (rs : List TableRecord) : imageLength st rs = (imageHead st rs).length + tablesLength rs :=
  congrArg ((imageHead st rs).length + ·) List.sum_eq_foldl.symm

theorem TableRecord.read_length {r : TableRecord} (h : r.Sized) (i : Nat) : (r.read i).bytes.length = r.key.entryBytes := by
  rw [TableRecord.read]
  split
  · exact r.key.defaultEntry_length r.dims i
  · exact h.find i

theorem TableRecord.imageData_length {r : TableRecord} (h : r.Sized) : r.imageData.length = r.entryCount * r.key.entryBytes := by
  rw [TableRecord.imageData, List.length_flatMap, List.map_congr_left fun i _ => r.read_length h i]
  simp

/-- The programming of the tables' data leaves the flash before it. -/
theorem read_tableJobs_before (rs : List TableRecord) (a : Nat) (m : Assoc Byte) {b : Nat} (hb : b < a) :
    Memory.read ((tableJobs a rs).foldl FlashJob.finish m) b = Memory.read m b := by
  induction rs generalizing a m with
  | nil => rfl
  | cons r rs ih =>
    rw [tableJobs, List.foldl_cons, ih _ _ (Nat.lt_add_right _ hb), FlashJob.finish_program,
      Memory.read_writeBytes_outside _ (Or.inl hb)]

theorem tableJobs_append (before rs : List TableRecord) (a : Nat) :
    tableJobs a (before ++ rs) = tableJobs a before ++ tableJobs (a + tablesLength before) rs := by
  induction before generalizing a with
  | nil => rfl
  | cons r before ih =>
    rw [List.cons_append, tableJobs, ih, tableJobs, List.cons_append, tablesLength_cons, ← Nat.add_assoc]
    rfl

/-- An entry of a table in the body that has been programmed. -/
theorem readBytes_tableJobs {before after : List TableRecord} {r : TableRecord} {a i : Nat} (m : Assoc Byte) (hr : r.Sized)
    (hi : i < r.entryCount) (hf : a + tablesLength (before ++ r :: after) ≤ Config.flashBytes) :
    Memory.readBytes ((tableJobs a (before ++ r :: after)).foldl FlashJob.finish m)
      (a + tablesLength before + i * r.key.entryBytes) r.key.entryBytes = (r.read i).bytes := by
  have hlen := TableRecord.imageData_length hr
  have hin : i * r.key.entryBytes + r.key.entryBytes ≤ r.entryCount * r.key.entryBytes := by
    rw [← Nat.succ_mul]
    exact Nat.mul_le_mul_right _ hi
  have htotal : tablesLength (before ++ r :: after) = tablesLength before + (r.entryCount * r.key.entryBytes + tablesLength after) := by
    simp [tablesLength]
  rw [tableJobs_append, List.foldl_append, tableJobs, List.foldl_cons, FlashJob.finish_program,
    Memory.readBytes_congr fun b _ hb => read_tableJobs_before after _ _ (by rw [TableRecord.dataBytes]; omega),
    Memory.readBytes_writeBytes _ _ _ (by omega) (by omega), TableRecord.imageData,
    slice_flatMap _ _ (r.read_length hr) (List.getElem?_range hi)]

/-- The programming of the tables reads every entry of each (R198). -/
theorem faults_tableJobs {rs : List TableRecord} (h : ∀ r ∈ rs, r.Sized) (a : Nat) :
    ((tableJobs a rs).flatMap fun j => j.faults j.units) = rs.flatMap fun r => r.parityFaults none (List.range r.entryCount) := by
  induction rs generalizing a with
  | nil => rfl
  | cons r rs ih =>
    have hall : (List.range r.entryCount).filter (fun i => decide (i * r.key.entryBytes < r.imageData.length)) = List.range r.entryCount := by
      refine List.filter_eq_self.2 fun i hi => ?_
      rw [TableRecord.imageData_length (h r (List.mem_cons_self ..))]
      have hpos : 0 < r.key.entryBytes := (Span.mk none 0 0).entrySize_pos r.key
      exact decide_eq_true (Nat.mul_lt_mul_of_pos_right (List.mem_range.1 hi) hpos)
    rw [tableJobs, List.flatMap_cons, List.flatMap_cons, ih fun q hq => h q (List.mem_cons_of_mem _ hq)]
    refine congrArg (· ++ _) ?_
    rw [FlashJob.units, FlashJob.faults, hall]

/-- Of tables whose parity is good the programming finds no fault. -/
theorem faults_tableJobs_good {rs : List TableRecord} (h : ∀ r ∈ rs, r.bad = []) (a : Nat) :
    ((tableJobs a rs).flatMap fun j => j.faults j.units) = [] := by
  induction rs generalizing a with
  | nil => rfl
  | cons r rs ih =>
    rw [tableJobs, List.flatMap_cons, ih fun q hq => h q (List.mem_cons_of_mem _ hq), List.append_nil]
    exact r.parityFaults_good none _ (h r (List.mem_cons_self ..))

/-! ### The phases -/

theorem mem_recordsIn {dir : Assoc TableRecord} {ns : List Nat} {r : TableRecord} (h : r ∈ recordsIn dir ns) :
    ∃ n, Assoc.find dir n = some r := by
  obtain ⟨n, -, hr⟩ := List.mem_filterMap.1 h
  exact ⟨n, hr⟩

theorem State.recordsIn_sized {s : State} (h : s.directorySound = true) (ns : List Nat) :
    ∀ r ∈ recordsIn s.tables.directory ns, r.Sized := fun r hr => by
  obtain ⟨n, hn⟩ := mem_recordsIn hr
  exact ((s.directorySound_iff.1 h).1.fits n r hn).sized

/-- All the operations of the phase in progress. -/
theorem State.runStore_all (s : State) : s.runStore (jobUnits s.storeJobs) =
    ({ s with flash := s.storeJobs.foldl FlashJob.finish s.flash } : State).recordFaults (s.storeJobs.flatMap fun j => j.faults j.units) := by
  rw [← runJobs_all, ← jobFaults_all]
  rfl

theorem State.storeJobs_eq {s : State} {link : Channel} {tag : Byte} {p : StorePhase} {st : Settings} {ns : List Nat}
    (h : s.loader.op = some (.store link tag p st ns)) :
    s.storeJobs = phaseJobs p st (recordsIn s.tables.directory ns) s.flash := by
  rw [State.storeJobs, h]

/-- The flash after all the operations of a phase. -/
def flashAfter (p : StorePhase) (st : Settings) (rs : List TableRecord) (m : Assoc Byte) : Assoc Byte :=
  (phaseJobs p st rs m).foldl FlashJob.finish m

/-- The faults that the operations of a phase find. -/
def phaseFaults (p : StorePhase) (st : Settings) (rs : List TableRecord) (m : Assoc Byte) : List FaultRecord :=
  (phaseJobs p st rs m).flatMap fun j => j.faults j.units

theorem State.runStore_phase {s : State} {link : Channel} {tag : Byte} {p : StorePhase} {st : Settings} {ns : List Nat}
    (h : s.loader.op = some (.store link tag p st ns)) : s.runStore (jobUnits s.storeJobs) =
      ({ s with flash := flashAfter p st (recordsIn s.tables.directory ns) s.flash } : State).recordFaults
        (phaseFaults p st (recordsIn s.tables.directory ns) s.flash) := by
  rw [s.runStore_all, State.storeJobs_eq h]
  rfl

/-- A phase of a STORE that is not the last: the next begins. -/
theorem exec_storePhaseDone_next {s : State} {link : Channel} {tag : Byte} {p q : StorePhase} {st : Settings} {ns : List Nat}
    (h : s.loader.op = some (.store link tag p st ns)) (hq : p.after = some q) :
    exec (.storePhaseDone []) s = .next
      ((({ s with flash := flashAfter p st (recordsIn s.tables.directory ns) s.flash } : State).recordFaults
        (phaseFaults p st (recordsIn s.tables.directory ns) s.flash)).setLoader
          { s.loader with op := some (.store link tag q st ns) }) := by
  have hrun := State.runStore_phase h
  have hloader : (s.runStore (jobUnits s.storeJobs)).loader = s.loader := by
    obtain ⟨gs, o, l, qs, hfs⟩ := s.runStore_spec (jobUnits s.storeJobs)
    rw [hfs]
  rw [hrun] at hloader
  change execStorePhaseDone [] s = _
  simp only [execStorePhaseDone, State.upsets, List.foldl_nil, h, hq, hrun, hloader]

/-- A phase that reads no entry and is not the last. -/
theorem exec_storePhaseDone_quiet {s : State} {link : Channel} {tag : Byte} {p q : StorePhase} {st : Settings} {ns : List Nat}
    (h : s.loader.op = some (.store link tag p st ns)) (hq : p.after = some q)
    (hf : phaseFaults p st (recordsIn s.tables.directory ns) s.flash = []) :
    exec (.storePhaseDone []) s = .next { s with
      flash := flashAfter p st (recordsIn s.tables.directory ns) s.flash
      loader := { s.loader with op := some (.store link tag q st ns) } } := by
  rw [exec_storePhaseDone_next h hq, hf]
  rfl

/-- The last phase of a STORE: the image is GOOD. -/
theorem exec_storePhaseDone_last {s : State} {link : Channel} {tag : Byte} {st : Settings} {ns : List Nat}
    (h : s.loader.op = some (.store link tag .p4 st ns)) :
    exec (.storePhaseDone []) s = .next { s with
      flash := flashAfter .p4 st (recordsIn s.tables.directory ns) s.flash
      loader := ⟨none, s.dueCompletion link tag .ok, .good⟩ } := by
  have hrun := State.runStore_phase h
  change execStorePhaseDone [] s = _
  simp only [execStorePhaseDone, State.upsets, List.foldl_nil, h, StorePhase.after, hrun]
  rfl

/-- Faults recorded, and what the log, the overflow flag, the latch and the notices then are (R183, R188). -/
theorem State.recordFaults_logged (s : State) (fs : List FaultRecord) :
    ∃ (gs : List FaultRecord) (o : Bool) (l : BitVec 45) (qs : List Notice),
      s.recordFaults fs = { s with faults := gs, overflow := o, latches := l, notices := qs } ∧ s.logsFaults fs gs o l qs := by
  obtain ⟨gs, o, l, qs, h⟩ := s.recordFaults_spec fs
  have hlog := s.recordFaults_logsFaults fs
  rw [h] at hlog
  exact ⟨gs, o, l, qs, h, hlog⟩

/-- Without faults nothing is recorded. -/
theorem State.logsFaults_nil {s : State} {gs : List FaultRecord} {o : Bool} {l : BitVec 45} {qs : List Notice}
    (h : s.logsFaults [] gs o l qs) : gs = s.faults ∧ o = s.overflow ∧ l = s.latches ∧ qs = s.notices := by
  obtain ⟨hlog, hover, hrest⟩ := h
  rw [if_neg (by simp)] at hrest
  refine ⟨by simpa using hlog, Bool.eq_iff_iff.2 ?_, hrest⟩
  simpa using hover

/-- A failed flash operation: the image is BAD, and the faults are those of what had been read and FLASH_WRITE (R198). -/
theorem exec_flashWriteFailed {s : State} {link : Channel} {tag : Byte} {p : StorePhase} {st : Settings} {ns : List Nat} (done : Nat)
    (h : s.loader.op = some (.store link tag p st ns)) :
    exec (.flashWriteFailed done) s = .next
      ((({ s with flash := runJobs s.storeJobs done s.flash } : State).recordFaults
        (jobFaults s.storeJobs done ++ [flashWriteFault])).setLoader ⟨none, s.dueCompletion link tag .failed, .bad⟩) := by
  change execFlashWriteFailed done s = _
  rw [execFlashWriteFailed, h, State.recordFaults, List.foldl_append]
  rfl

theorem storeSettings_length (st : Settings) : (storeSettings st).length = 32 := rfl

/-- Phase 1: the magic alone in an erased header sector. -/
theorem read_phase1 (st : Settings) (rs : List TableRecord) (m : Assoc Byte) :
    let m' := flashAfter .p1 st rs m
    Memory.readBytes m' 0 4 = [0xC4, 0x12, 0xDA, 0x7E]
      ∧ ∀ a : Nat, 4 ≤ a → Memory.read m' a = if a < 65536 then 0xFF else Memory.read m a := by
  simp only [flashAfter, phaseJobs, List.foldl_cons, List.foldl_nil, FlashJob.finish_erase, FlashJob.finish_program]
  refine ⟨Memory.readBytes_writeBytes _ 0 magicBytes (by decide) (o := 0) (n := 4) (by decide), fun a ha => ?_⟩
  rw [Memory.read_writeBytes_outside _ (Or.inr ha), Memory.read_eraseRange]
  simp [Config.sectorBytes, Memory.erased]

/-- Phase 2: the other sectors of the image erased. -/
theorem read_phase2 (st : Settings) (rs : List TableRecord) (m : Assoc Byte) (a : Nat) :
    Memory.read (flashAfter .p2 st rs m) a =
      if 65536 ≤ a ∧ a / 65536 ≤ (13 + imageLength st rs) / 65536 then 0xFF else Memory.read m a := by
  have hin : a / 65536 ∈ List.range' 1 ((headerBytes + imageLength st rs - 1) / Config.sectorBytes) ↔
      65536 ≤ a ∧ a / 65536 ≤ (13 + imageLength st rs) / 65536 := by
    rw [List.mem_range'_1, show headerBytes + imageLength st rs - 1 = 13 + imageLength st rs by simp only [headerBytes]; omega,
      show Config.sectorBytes = 65536 from rfl]
    omega
  rw [flashAfter, phaseJobs, read_eraseSectors]
  simp only [hin]

/-- Phase 3 in its two parts: the settings and directory records, then the tables' data. -/
theorem phase3_parts (st : Settings) (rs : List TableRecord) (m : Assoc Byte) :
    flashAfter .p3 st rs m =
      (tableJobs (14 + (imageHead st rs).length) rs).foldl FlashJob.finish (Memory.writeBytes m 14 (imageHead st rs)) := by
  rw [flashAfter, phaseJobs, List.foldl_cons, FlashJob.finish_program]
  rfl

/-- Phase 3: the settings and directory records. -/
theorem read_phase3_head {st : Settings} {rs : List TableRecord} (m : Assoc Byte)
    (hf : 14 + (imageHead st rs).length ≤ Config.flashBytes) :
    Memory.readBytes (flashAfter .p3 st rs m) 14 (imageHead st rs).length = imageHead st rs := by
  rw [phase3_parts, Memory.readBytes_congr fun b _ hb => read_tableJobs_before rs _ _ hb]
  have hblock := Memory.readBytes_writeBytes m 14 (imageHead st rs) hf (o := 0) (Nat.le_of_eq (Nat.zero_add _))
  simpa [slice] using hblock

/-- Phase 3: the entries of a table. -/
theorem read_phase3_entry {st : Settings} {before after : List TableRecord} {r : TableRecord} {i : Nat} (m : Assoc Byte)
    (hr : r.Sized) (hi : i < r.entryCount) (hf : 14 + imageLength st (before ++ r :: after) ≤ Config.flashBytes) :
    Memory.readBytes (flashAfter .p3 st (before ++ r :: after) m)
      (14 + (imageHead st (before ++ r :: after)).length + tablesLength before + i * r.key.entryBytes) r.key.entryBytes =
        (r.read i).bytes := by
  rw [imageLength_eq, ← Nat.add_assoc] at hf
  rw [phase3_parts]
  exact readBytes_tableJobs _ hr hi hf

/-- Phase 3 leaves the header. -/
theorem read_phase3_header (st : Settings) (rs : List TableRecord) (m : Assoc Byte) {a : Nat} (ha : a < 14) :
    Memory.read (flashAfter .p3 st rs m) a = Memory.read m a := by
  rw [phase3_parts, read_tableJobs_before rs _ _ (Nat.lt_add_right _ ha),
    Memory.read_writeBytes_outside _ (Or.inl ha)]

/-- Phase 4: the rest of the header, with the CRC-32 of the body. -/
theorem read_phase4 {st : Settings} {rs : List TableRecord} (m : Assoc Byte) (hlen : imageLength st rs < 2 ^ 32) :
    let m' := flashAfter .p4 st rs m
    Memory.readBytes m' 12 2 = [32, BitVec.ofNat 8 rs.length] ∧ crcCorrect m' = true ∧ bodyLength m' = imageLength st rs
      ∧ ∀ a : Nat, a < 4 ∨ 14 ≤ a → Memory.read m' a = Memory.read m a := by
  intro m'
  let crc := crc32 (Memory.readBytes m headerBytes (imageLength st rs))
  let header := toLe 4 (imageLength st rs) ++ toLe 4 crc.toNat ++ oneByte (storeSettings st).length ++ oneByte rs.length
  have hm : m' = Memory.writeBytes m 4 header := by
    simp only [m', flashAfter, phaseJobs, List.foldl_cons, List.foldl_nil, FlashJob.finish_program]
    rfl
  have hheader : header.length = 10 := by simp [header]
  have houtside : ∀ a : Nat, a < 4 ∨ 14 ≤ a → Memory.read m' a = Memory.read m a := fun a ha => by
    rw [hm]
    exact Memory.read_writeBytes_outside m (ha.imp_right fun h => by rw [hheader]; exact h)
  have hpart : ∀ o n, o + n ≤ 10 → Memory.readBytes m' (4 + o) n = slice header o n := fun o n h => by
    rw [hm]
    exact Memory.readBytes_writeBytes m 4 header (by rw [hheader]; decide) (by rw [hheader]; exact h)
  have hbody : bodyLength m' = imageLength st rs := by
    have hfield : slice header 0 4 = toLe 4 (imageLength st rs) := by simp [header, slice]
    rw [bodyLength, flashField, hpart 0 4 (by decide), hfield, leNat_toLe]
    exact Nat.mod_eq_of_lt hlen
  have hcrc : headerCrc m' = crc.toNat := by
    have hfield : slice header 4 4 = toLe 4 crc.toNat :=
      (congrArg (slice · 4 4) (List.append_assoc _ _ _)).trans (slice_at _ _ _ (by simp) (by simp))
    rw [headerCrc, flashField, hpart 4 4 (by decide), hfield, leNat_toLe]
    exact Nat.mod_eq_of_lt crc.isLt
  refine ⟨?_, ?_, hbody, houtside⟩
  · rw [hpart 8 2 (by decide)]
    exact (congrArg (slice · 8 2) (List.append_assoc _ _ _)).trans (slice_last _ _ (by simp) (by simp))
  · have hsame : Memory.readBytes m' headerBytes (imageLength st rs) = Memory.readBytes m headerBytes (imageLength st rs) :=
      Memory.readBytes_congr fun b hb _ => houtside b (Or.inr hb)
    rw [crcCorrect, hbody, hcrc, hsame]
    exact beq_self_eq_true _

/-- The tables whose entries a phase programs are those of the STORE, in phase 3. -/
theorem source_of_mem_phaseJobs {p : StorePhase} {st : Settings} {rs : List TableRecord} {m : Assoc Byte} {a : Nat} {bs : Bytes}
    {r : TableRecord} (h : .program a bs (some r) ∈ phaseJobs p st rs m) : p = .p3 ∧ r ∈ rs := by
  have htable : ∀ (rs : List TableRecord) (b : Nat), .program a bs (some r) ∈ tableJobs b rs → r ∈ rs := fun rs => by
    induction rs with
    | nil => exact fun _ h => (by cases h)
    | cons q rs ih =>
      intro b h
      rcases List.mem_cons.1 h with h | h
      · cases h
        exact List.mem_cons_self ..
      · exact List.mem_cons_of_mem _ (ih _ h)
  cases p with
  | p1 => simp [phaseJobs] at h
  | p2 => simp [phaseJobs] at h
  | p3 => exact ⟨rfl, htable rs _ ((List.mem_cons.1 h).resolve_left (by simp))⟩
  | p4 => simp [phaseJobs] at h

theorem phaseFaults_p3 (st : Settings) (rs : List TableRecord) (m : Assoc Byte) :
    phaseFaults .p3 st rs m = (tableJobs (14 + (imageHead st rs).length) rs).flatMap fun j => j.faults j.units := rfl

/-- Settles O42: the operations of each phase one by one, and the faults of the entries read. -/
theorem storePhasesEndGood : Obligations.StorePhasesEndGood := by
  intro s link tag st ns running due
  refine ⟨fun h => ?_, fun h => ?_, fun h => ?_, fun h hlen _ => ?_, fun p done h => ?_⟩
  · exact ⟨_, exec_storePhaseDone_quiet h rfl rfl, read_phase1 st _ s.flash⟩
  · refine ⟨_, exec_storePhaseDone_quiet h rfl ?_, read_phase2 st _ s.flash⟩
    refine List.flatMap_eq_nil_iff.2 fun j hj => ?_
    obtain ⟨sector, -, rfl⟩ := List.mem_map.1 hj
    rfl
  · intro rs
    have hexec := exec_storePhaseDone_next h rfl
    obtain ⟨gs, o, l, qs, hfs, hlog⟩ := State.recordFaults_logged { s with flash := flashAfter .p3 st rs s.flash }
      (phaseFaults .p3 st rs s.flash)
    rw [hfs] at hexec
    rw [phaseFaults_p3] at hlog
    refine ⟨_, gs, o, l, qs, hexec, fun hgood => ?_, fun hsound => ?_, read_phase3_head s.flash, fun hf hsound before after r i hrs hi => ?_,
      fun a ha => read_phase3_header st rs s.flash ha⟩
    · rw [faults_tableJobs_good hgood] at hlog
      exact State.logsFaults_nil hlog
    · rw [faults_tableJobs (State.recordsIn_sized hsound ns)] at hlog
      exact hlog
    · have hsized : r.Sized := State.recordsIn_sized hsound ns r (by rw [show recordsIn _ ns = _ from hrs]; simp)
      rw [hrs] at hf ⊢
      exact read_phase3_entry s.flash hsized hi hf
  · exact ⟨_, exec_storePhaseDone_last h, read_phase4 s.flash hlen⟩
  · obtain ⟨gs, o, l, qs, hfs, hlog⟩ := State.recordFaults_logged { s with flash := runJobs s.storeJobs done s.flash }
      (jobFaults s.storeJobs done ++ [flashWriteFault])
    have hexec := exec_flashWriteFailed done h
    rw [hfs] at hexec
    have hread : ∀ f ∈ jobFaults s.storeJobs done, p = .p3 ∧ ∃ r ∈ recordsIn s.tables.directory ns, ∃ i ∈ r.bad,
        f = ⟨.poolParity, r.key.channel, none, .page (r.pageOf i)⟩ := fun f hf => by
      obtain ⟨a, bs, r, hj, hi⟩ := mem_jobFaults hf
      rw [State.storeJobs_eq h] at hj
      obtain ⟨hp, hr⟩ := source_of_mem_phaseJobs hj
      exact ⟨hp, r, hr, hi⟩
    exact ⟨_, gs, o, l, qs, hexec, _, hlog, fun hp => List.eq_nil_iff_forall_not_mem.2 fun f hf => hp (hread f hf).1,
      fun f hf => (hread f hf).2⟩

end Sys2Proof.Machine
end

section
/-! SUPPORT. The reply of TABLE LIST (R70, R178): the largest free run, the places of the fields, and the records. -/

namespace Sys2Proof.Machine

/-! ### Free runs (R70) -/

/-- Each free run found is a row of free pages within those looked at. -/
theorem freeRuns_sound {f : Nat → Bool} {n p : Nat} {e : Nat × Nat} (h : e ∈ freeRuns f n p) :
    0 < e.2 ∧ p ≤ e.1 ∧ e.1 + e.2 ≤ p + n ∧ ∀ i, i < e.2 → f (e.1 + i) = true := by
  induction n generalizing p e with
  | zero => cases h
  | succ n ih =>
    have hrest : ∀ e ∈ freeRuns f n (p + 1), 0 < e.2 ∧ p ≤ e.1 ∧ e.1 + e.2 ≤ p + (n + 1) ∧ ∀ i, i < e.2 → f (e.1 + i) = true := by
      intro e he
      obtain ⟨h1, h2, h3, h4⟩ := ih he
      exact ⟨h1, by omega, by omega, h4⟩
    rw [freeRuns] at h
    cases hp : f p with
    | false =>
      rw [hp] at h
      exact hrest e h
    | true =>
      have hone : 0 < 1 ∧ p ≤ p ∧ p + 1 ≤ p + (n + 1) ∧ ∀ i, i < 1 → f (p + i) = true :=
        ⟨by decide, le_refl p, by omega, fun i hi => by rwa [Nat.lt_one_iff.1 hi]⟩
      rw [hp, if_pos rfl] at h
      split at h
      · rename_i q l more hr
        obtain ⟨h1, h2, h3, h4⟩ := hrest (q, l) (hr ▸ List.mem_cons_self ..)
        split at h
        · rename_i hq
          subst hq
          rcases List.mem_cons.1 h with rfl | h
          · refine ⟨Nat.succ_pos l, le_refl p, by dsimp only at h3 ⊢; omega, fun i hi => ?_⟩
            cases i with
            | zero => exact hp
            | succ i => simpa [Nat.add_assoc, Nat.add_comm 1 i] using h4 i (Nat.lt_of_succ_lt_succ hi)
          · exact hrest e (hr ▸ List.mem_cons_of_mem _ h)
        · rcases List.mem_cons.1 h with rfl | h
          · exact hone
          · exact hrest e (hr ▸ h)
      · obtain rfl := List.mem_singleton.1 h
        exact hone

/-- A free first page begins the first run found, which is as long as any that begins there. -/
theorem freeRuns_first {f : Nat → Bool} {n p : Nat} (hp : f p = true) :
    ∃ l more, freeRuns f (n + 1) p = (p, l) :: more ∧ ∀ l', l' ≤ n + 1 → (∀ i, i < l' → f (p + i) = true) → l' ≤ l := by
  induction n generalizing p with
  | zero => exact ⟨1, [], by simp [freeRuns, hp], fun l' h _ => h⟩
  | succ n ih =>
    cases hq : f (p + 1) with
    | false =>
      have hshort : ∀ l', l' ≤ n + 1 + 1 → (∀ i, i < l' → f (p + i) = true) → l' ≤ 1 := fun l' _ hl => by
        by_contra hlong
        have := hl 1 (by omega)
        rw [hq] at this
        cases this
      refine ⟨1, freeRuns f (n + 1) (p + 1), ?_, hshort⟩
      have hne : ∀ q l more, freeRuns f (n + 1) (p + 1) = (q, l) :: more → q ≠ p + 1 := by
        rintro q l more hr rfl
        obtain ⟨hpos, -, -, hfree⟩ := freeRuns_sound (e := (p + 1, l)) (hr ▸ List.mem_cons_self ..)
        rw [← Nat.add_zero (p + 1), hfree 0 hpos] at hq
        cases hq
      rw [freeRuns, if_pos hp]
      cases hr : freeRuns f (n + 1) (p + 1) with
      | nil => rfl
      | cons e more => exact if_neg (hne e.1 e.2 more hr)
    | true =>
      obtain ⟨l, more, hr, hmax⟩ := ih hq
      refine ⟨l + 1, more, by rw [freeRuns, if_pos hp, hr]; exact if_pos rfl, fun l' hl' hfree => ?_⟩
      have := hmax (l' - 1) (by omega) fun i hi => by
        rw [Nat.add_assoc, Nat.add_comm 1 i]
        exact hfree (i + 1) (by omega)
      omega

/-- No row of free pages is longer than every run found. -/
theorem freeRuns_covers {f : Nat → Bool} {n p q l : Nat} (hl : 0 < l) (hq : p ≤ q) (hn : q + l ≤ p + n)
    (hfree : ∀ i, i < l → f (q + i) = true) : ∃ e ∈ freeRuns f n p, l ≤ e.2 := by
  induction n generalizing p with
  | zero => omega
  | succ n ih =>
    by_cases hqp : q = p
    · subst hqp
      obtain ⟨l', more, hr, hmax⟩ := freeRuns_first (n := n) (hfree 0 hl)
      exact ⟨(q, l'), hr ▸ List.mem_cons_self .., hmax l (by omega) hfree⟩
    · obtain ⟨e, he, hle⟩ := ih (p := p + 1) (by omega) (by omega)
      rw [freeRuns]
      cases hp : f p with
      | false => exact ⟨e, he, hle⟩
      | true =>
        rw [if_pos rfl]
        split
        · rename_i q' l' more hr
          rw [hr] at he
          split
          · rcases List.mem_cons.1 he with rfl | he
            · exact ⟨(p, l' + 1), List.mem_cons_self .., Nat.le_succ_of_le hle⟩
            · exact ⟨e, List.mem_cons_of_mem _ he, hle⟩
          · exact ⟨e, List.mem_cons_of_mem _ he, hle⟩
        · rename_i hr
          rw [hr] at he
          cases he

theorem freePick_eq_none {α : Type} {n : Nat} {xs : List α} : freePick n xs = none ↔ xs = [] := by
  match xs with
  | [] => simp [freePick]
  | [x] => simp [freePick]
  | x :: y :: rest =>
    have hlt : n % (x :: y :: rest).length < (x :: y :: rest).length := Nat.mod_lt _ (Nat.succ_pos _)
    simp only [freePick, List.getElem?_eq_getElem hlt]
    simp

theorem mem_of_freePick {α : Type} {n : Nat} {xs : List α} {x : α} (h : freePick n xs = some x) : x ∈ xs := by
  match xs, h with
  | [y], h => exact List.mem_singleton.2 (Option.some.inj h).symm
  | _ :: _ :: _, h => exact List.mem_of_getElem? h

/-- The longest of a list of runs: no run is longer, and one of them is as long unless there is none. -/
theorem foldl_max_spec (runs : List (Nat × Nat)) (b : Nat) :
    b ≤ runs.foldl (fun m r => max m r.2) b ∧ (∀ e ∈ runs, e.2 ≤ runs.foldl (fun m r => max m r.2) b)
      ∧ (runs.foldl (fun m r => max m r.2) b = b ∨ ∃ e ∈ runs, e.2 = runs.foldl (fun m r => max m r.2) b) := by
  induction runs generalizing b with
  | nil => exact ⟨le_refl b, fun _ h => (by cases h), Or.inl rfl⟩
  | cons r runs ih =>
    obtain ⟨hb, hall, hone⟩ := ih (max b r.2)
    rw [List.foldl_cons]
    refine ⟨le_trans (le_max_left ..) hb, fun e he => ?_, ?_⟩
    · rcases List.mem_cons.1 he with rfl | he
      · exact le_trans (le_max_right ..) hb
      · exact hall e he
    · rcases hone with hone | ⟨e, he, h⟩
      · rw [hone]
        rcases le_total b r.2 with hle | hle
        · exact Or.inr ⟨r, List.mem_cons_self .., (max_eq_right hle).symm⟩
        · exact Or.inl (max_eq_left hle)
      · exact Or.inr ⟨e, List.mem_cons_of_mem _ he, h⟩

/-- The page is a free table page of the arrangement (R49, R50). -/
def tablePageFree (arr : Arrangement) (dir : Assoc TableRecord) (q : Nat) : Prop :=
  arr.linePages ≤ q ∧ q < 512 ∧ pageUsed dir q = false

theorem linePages_add_tablePages (arr : Arrangement) : arr.linePages + arr.tablePages = 512 := by
  have := linePages_lt arr
  show arr.linePages + (512 - arr.linePages) = 512
  omega

/-- No run is named exactly where no table page is free. -/
theorem largestRun_eq_none {arr : Arrangement} {dir : Assoc TableRecord} {choice : Nat} :
    largestRun arr dir choice = none ↔ ∀ q, ¬tablePageFree arr dir q := by
  have hpages := linePages_add_tablePages arr
  rw [largestRun, freePick_eq_none, List.filter_eq_nil_iff]
  obtain ⟨-, hall, hone⟩ := foldl_max_spec (freeRuns (pageFree arr dir) arr.tablePages arr.linePages) 0
  constructor
  · intro h q hq
    obtain ⟨e, he, hle⟩ := freeRuns_covers (f := pageFree arr dir) (n := arr.tablePages) (p := arr.linePages) (l := 1) (by decide) hq.1
      (by have := hq.2.1; omega) fun i hi => by
        rw [Nat.lt_one_iff.1 hi]
        exact pageFree_iff.2 hq
    rcases hone with hone | ⟨e', he', hmost⟩
    · have := hall e he
      omega
    · exact h e' he' (beq_iff_eq.2 hmost)
  · intro h e he _
    obtain ⟨hpos, -, -, hfree⟩ := freeRuns_sound he
    exact h _ (pageFree_iff.1 (hfree 0 hpos))

/-- The run named is free, and no row of free pages is longer. -/
theorem largestRun_eq_some {arr : Arrangement} {dir : Assoc TableRecord} {choice q n : Nat} (h : largestRun arr dir choice = some (q, n)) :
    0 < n ∧ n ≤ 512 ∧ (∀ i, i < n → tablePageFree arr dir (q + i))
      ∧ ∀ q' n', (∀ i, i < n' → tablePageFree arr dir (q' + i)) → n' ≤ n := by
  have hpages := linePages_add_tablePages arr
  obtain ⟨hmem, hmost⟩ := List.mem_filter.1 (mem_of_freePick h)
  obtain ⟨hpos, hlo, hhi, hfree⟩ := freeRuns_sound hmem
  obtain ⟨-, hall, -⟩ := foldl_max_spec (freeRuns (pageFree arr dir) arr.tablePages arr.linePages) 0
  refine ⟨hpos, by dsimp only at hhi; omega, fun i hi => pageFree_iff.1 (hfree i hi), fun q' n' hrun => ?_⟩
  rcases Nat.eq_zero_or_pos n' with rfl | hn
  · exact Nat.zero_le n
  have hfirst := hrun 0 hn
  have hlast := hrun (n' - 1) (by omega)
  obtain ⟨e, he, hle⟩ := freeRuns_covers (f := pageFree arr dir) (n := arr.tablePages) (p := arr.linePages) hn hfirst.1
    (by have := hlast.2.1; omega) fun i hi => pageFree_iff.2 (hrun i hi)
  exact le_trans (le_trans hle (hall e he)) (Nat.le_of_eq (beq_iff_eq.1 hmost).symm)

end Sys2Proof.Machine
end

section
/-! SUPPORT. TABLE LIST field by field (R178). -/

namespace Sys2Proof.Machine

/-! ### The pending swap (R178) -/

/-- The fields of a pending swap as TABLE LIST returns it. -/
def PendingSwap.parts (w : PendingSwap) : List Bytes :=
  [oneByte (1 + 2 * flag w.target.isSome + 4 * flag w.deferred), toLe 2 (w.target.getD 0).toNat, oneByte w.keys.length,
    w.keys.flatMap Key.bytes, List.replicate (75 - 3 * w.keys.length) 0xFF]

theorem swapBytes_some (w : PendingSwap) : swapBytes (some w) = w.parts.flatten := by
  have htarget : frameField w.target = toLe 2 (w.target.getD 0).toNat := by
    cases w.target <;> rfl
  simp [swapBytes, PendingSwap.parts, htarget]

theorem swapBytes_length {sw : Option PendingSwap} (h : (keysOf sw).length ≤ 25) : (swapBytes sw).length = 79 := by
  cases sw with
  | none => rfl
  | some w =>
    have hw : w.keys.length ≤ 25 := h
    simp [swapBytes_some, PendingSwap.parts]
    omega

/-- The fields of a pending swap in their places. -/
theorem swapBytes_fields {w : PendingSwap} (h : w.keys.length ≤ 25) :
    byteAt (swapBytes (some w)) 0 = 1 + (if w.target.isSome then 2 else 0) + (if w.deferred then 4 else 0)
      ∧ slice (swapBytes (some w)) 1 2 = toLe 2 (w.target.getD 0).toNat ∧ byteAt (swapBytes (some w)) 3 = w.keys.length
      ∧ (∀ i key, w.keys[i]? = some key → slice (swapBytes (some w)) (4 + 3 * i) 3 = key.bytes)
      ∧ ∀ i, 3 * w.keys.length ≤ i → i < 75 → byteAt (swapBytes (some w)) (4 + i) = 255 := by
  rw [swapBytes_some]
  have hflags : slice w.parts.flatten 0 1 = oneByte (1 + 2 * flag w.target.isSome + 4 * flag w.deferred) :=
    slice_part _ 0 rfl rfl (by simp)
  have hcount : slice w.parts.flatten 3 1 = oneByte w.keys.length := slice_part _ 2 rfl (by simp [PendingSwap.parts]) (by simp)
  have hkeys : slice w.parts.flatten 4 (3 * w.keys.length) = w.keys.flatMap Key.bytes :=
    slice_part _ 3 rfl (by simp [PendingSwap.parts]) (flatMap_bytes_length _).symm
  have hrest : slice w.parts.flatten (4 + 3 * w.keys.length) (75 - 3 * w.keys.length) =
      List.replicate (75 - 3 * w.keys.length) 0xFF :=
    slice_part _ 4 rfl (by simp [PendingSwap.parts]; omega) (by simp)
  refine ⟨?_, slice_part _ 1 rfl (by simp [PendingSwap.parts]) (by simp), ?_, fun i key hi => ?_, fun i hlo hhi => ?_⟩
  · rw [byteAt, field, hflags, oneByte, leNat_toLe]
    cases w.target.isSome <;> cases w.deferred <;> rfl
  · rw [byteAt, field, hcount, oneByte, leNat_toLe]
    omega
  · have hlt := (List.getElem?_eq_some_iff.1 hi).1
    rw [← slice_slice _ (m := 3 * w.keys.length) (by omega), hkeys, Nat.mul_comm]
    exact slice_flatMap _ _ Key.bytes_length hi
  · rw [byteAt, field, show 4 + i = 4 + 3 * w.keys.length + (i - 3 * w.keys.length) by omega,
      ← slice_slice _ (m := 75 - 3 * w.keys.length) (by omega), hrest]
    simp [slice, show 75 - 3 * w.keys.length - (i - 3 * w.keys.length) = 75 - i by omega,
      show min 1 (75 - i) = 1 by omega, leNat]

theorem byteAt_slice (b : Bytes) {a m o : Nat} (h : o < m) : byteAt (slice b a m) o = byteAt b (a + o) :=
  congrArg leNat (slice_slice b h)

/-! ### A directory record (R178) -/

/-- The fields of a directory record as TABLE LIST returns it. -/
def TableRecord.parts (n : Nat) (r : TableRecord) : List Bytes :=
  [oneByte n, r.key.bytes, [r.bank.code], [r.state.code], oneByte (flag r.locked + 2 * flag r.dropMark),
    oneByte (r.dims.getD ⟨0, 0, 0⟩).spacing, toLe 2 r.firstPage, toLe 2 r.pageCount, toLe 2 (r.dims.getD ⟨0, 0, 0⟩).cols,
    toLe 2 (r.dims.getD ⟨0, 0, 0⟩).rows]

theorem TableRecord.listed_eq (n : Nat) (r : TableRecord) : r.listed n = (r.parts n).flatten := by
  simp [TableRecord.listed, TableRecord.parts]

theorem TableRecord.listed_length (n : Nat) (r : TableRecord) : (r.listed n).length = 16 := by
  simp [TableRecord.listed_eq, TableRecord.parts]

/-- The fields of a directory record in their places. -/
theorem TableRecord.listed_fields (n : Nat) (x : TableRecord) :
    slice (x.listed n) 0 1 = toLe 1 n ∧ slice (x.listed n) 1 3 = x.key.bytes
      ∧ byteAt (x.listed n) 4 = (if x.state = .live then 0 else 1) ∧ byteAt (x.listed n) 5 = x.state.code.toNat
      ∧ byteAt (x.listed n) 6 = (if x.locked then 1 else 0) + (if x.dropMark then 2 else 0)
      ∧ slice (x.listed n) 7 1 = toLe 1 (x.dims.getD ⟨0, 0, 0⟩).spacing
      ∧ slice (x.listed n) 8 2 = toLe 2 x.firstPage ∧ slice (x.listed n) 10 2 = toLe 2 x.pageCount
      ∧ slice (x.listed n) 12 2 = toLe 2 (x.dims.getD ⟨0, 0, 0⟩).cols ∧ slice (x.listed n) 14 2 = toLe 2 (x.dims.getD ⟨0, 0, 0⟩).rows := by
  rw [TableRecord.listed_eq]
  have hbank : byteAt (x.parts n).flatten 4 = x.bank.code.toNat := by
    rw [byteAt, field, slice_part (x.parts n) 2 (x := [x.bank.code]) (n := 1) rfl (by simp [TableRecord.parts]) rfl]
    simp [leNat]
  have hstate : byteAt (x.parts n).flatten 5 = x.state.code.toNat := by
    rw [byteAt, field, slice_part (x.parts n) 3 (x := [x.state.code]) (n := 1) rfl (by simp [TableRecord.parts]) rfl]
    simp [leNat]
  have hmarks : byteAt (x.parts n).flatten 6 = (flag x.locked + 2 * flag x.dropMark) % 256 ^ 1 := by
    rw [byteAt, field, slice_part (x.parts n) 4 (x := oneByte (flag x.locked + 2 * flag x.dropMark)) (n := 1) rfl
      (by simp [TableRecord.parts]) (by simp)]
    exact leNat_toLe 1 _
  refine ⟨slice_part _ 0 rfl (by simp) rfl, slice_part _ 1 rfl (by simp [TableRecord.parts]) (by simp), ?_, hstate, ?_,
    slice_part _ 5 rfl (by simp [TableRecord.parts]) rfl, slice_part _ 6 rfl (by simp [TableRecord.parts]) rfl,
    slice_part _ 7 rfl (by simp [TableRecord.parts]) rfl, slice_part _ 8 rfl (by simp [TableRecord.parts]) rfl,
    slice_part _ 9 rfl (by simp [TableRecord.parts]) rfl⟩
  · rw [hbank, TableRecord.bank]
    cases x.state <;> rfl
  · rw [hmarks]
    cases x.locked <;> cases x.dropMark <;> rfl

/-! ### The reply -/

/-- The fields of the reply of TABLE LIST, with the run that it names. -/
def TableStore.listParts (t : TableStore) (arr : Arrangement) (start n q : Nat) : List Bytes :=
  [toLe 2 arr.tablePages, toLe 2 (freePages arr t.directory), toLe 2 n, toLe 2 q, oneByte t.directory.length,
    oneByte (t.returned start).length,
    oneByte (flag ((t.directory.filter fun e => decide (start ≤ e.1)).length != (t.returned start).length)), t.fillingKey,
    swapBytes t.swap, (t.returned start).flatMap fun e => e.2.listed e.1]

theorem TableStore.list_parts (t : TableStore) (arr : Arrangement) (start choice : Nat) :
    ∃ n q, t.list arr start choice = (t.listParts arr start n q).flatten
      ∧ ((largestRun arr t.directory choice = none ∧ n = 0 ∧ q = 0xFFFF) ∨ largestRun arr t.directory choice = some (q, n)) := by
  unfold TableStore.list
  cases largestRun arr t.directory choice with
  | none => exact ⟨0, 0xFFFF, by simp [TableStore.listParts], Or.inl ⟨rfl, rfl, rfl⟩⟩
  | some e => exact ⟨e.2, e.1, by simp [TableStore.listParts], Or.inr rfl⟩

@[simp] theorem TableStore.fillingKey_length (t : TableStore) : t.fillingKey.length = 3 := by
  unfold TableStore.fillingKey
  split
  · exact Key.bytes_length _
  · rfl

/-- The fields of the reply in their places. -/
theorem TableStore.listParts_fields {t : TableStore} {start n q : Nat} (arr : Arrangement) (hswap : (keysOf t.swap).length ≤ 25)
    (hdir : t.directory.length ≤ 64) (hn : n < 65536) (hq : q < 65536) :
    let p := (t.listParts arr start n q).flatten
    let above := (t.directory.filter fun e => decide (start ≤ e.1)).length
    p.length = 93 + 16 * min 48 above
      ∧ field p 0 2 = arr.tablePages ∧ field p 2 2 = freePages arr t.directory ∧ field p 4 2 = n ∧ field p 6 2 = q
      ∧ byteAt p 8 = t.directory.length ∧ byteAt p 9 = min 48 above ∧ byteAt p 10 = (if 48 < above then 1 else 0)
      ∧ slice p 11 3 = t.fillingKey ∧ slice p 14 79 = swapBytes t.swap
      ∧ ∀ i m x, (t.returned start)[i]? = some (m, x) → slice p (93 + 16 * i) 16 = x.listed m := by
  intro p above
  have hswapLength := swapBytes_length hswap
  have hreturned : (t.returned start).length = min 48 above := by
    rw [TableStore.returned, List.length_take]
    rfl
  have habove : above ≤ 64 := le_trans (List.length_filter_le ..) hdir
  have hlisted : ((t.returned start).flatMap fun e => e.2.listed e.1).length = 16 * min 48 above := by
    rw [List.length_flatMap, List.map_congr_left fun e _ => TableRecord.listed_length e.1 e.2, ← hreturned]
    simp [Nat.mul_comm]
  have hnumber : ∀ (i : Nat) {v off k : Nat}, (t.listParts arr start n q)[i]? = some (toLe k v) →
      off = (((t.listParts arr start n q).take i).map List.length).sum → v < 256 ^ k → field p off k = v := fun i v off k hi ho hv => by
    rw [field, slice_part _ i hi ho (toLe_length k v).symm, leNat_toLe]
    exact Nat.mod_eq_of_lt hv
  have htable : arr.tablePages < 65536 := by
    cases arr <;> decide
  have hfree : freePages arr t.directory < 65536 := by
    refine lt_of_le_of_lt (List.length_filter_le ..) ?_
    rwa [List.length_range']
  have hcount : byteAt p 9 = (t.returned start).length :=
    hnumber 5 rfl (by simp [TableStore.listParts]) (by rw [hreturned]; omega)
  have hmore : byteAt p 10 = flag (above != (t.returned start).length) :=
    hnumber 6 rfl (by simp [TableStore.listParts]) (by unfold flag; split <;> decide)
  have hrecords : slice p 93 (16 * min 48 above) = (t.returned start).flatMap fun e => e.2.listed e.1 :=
    slice_part _ 9 rfl (by simp [TableStore.listParts, hswapLength]) hlisted.symm
  refine ⟨?_, hnumber 0 rfl rfl htable, hnumber 1 rfl ?_ hfree, hnumber 2 rfl ?_ hn, hnumber 3 rfl ?_ hq, hnumber 4 rfl ?_ (by omega),
    hcount.trans hreturned, ?_, slice_part _ 7 rfl ?_ (by simp), slice_part _ 8 rfl ?_ hswapLength.symm, fun i m x hi => ?_⟩
  · simp [p, TableStore.listParts, hswapLength, hlisted]
    omega
  · simp [TableStore.listParts]
  · simp [TableStore.listParts]
  · simp [TableStore.listParts]
  · simp [TableStore.listParts]
  · rw [hmore, hreturned, flag]
    refine if_congr ?_ rfl rfl
    simp
  · simp [TableStore.listParts]
  · simp [TableStore.listParts]
  · have hlt := (List.getElem?_eq_some_iff.1 hi).1
    rw [← slice_slice _ (m := 16 * min 48 above) (by omega), hrecords, Nat.mul_comm]
    exact slice_flatMap _ (fun e : Nat × TableRecord => e.2.listed e.1) (fun e => e.2.listed_length e.1) hi

/-- Settles O38: the reply is put together from its fields, and the run that it names is free and longest. -/
theorem listReportsDirectory : Obligations.ListReportsDirectory := by
  intro s c rest start hserved hcarries hstart hp hload hkeys hlen dir above r free run
  have hpayload : byteAt c.payload 0 = start := by
    rw [hp]
    simpa using byteAt_oneByte [] [] rfl (show start < 256 by omega)
  have hkeys' : (keysOf s.tables.swap).length ≤ 25 := by rwa [← s.swapKeys_eq]
  have hanswer : State.listCommand c { s with cells := rest } =
      { state := { s with free := s.free + 1, cells := rest }, status := .ok,
        payload := s.tables.list s.straps.arrangement start s.freeValue } := by
    have hchecks : State.tableChecks { s with cells := rest } [] false = none :=
      State.tableChecks_passed (by simp) hload (by simp)
    have hplen : c.payload.length = 1 := by simp [hp]
    unfold State.listCommand
    simp only [hplen, hpayload, hchecks, Nat.not_lt.2 hstart]
    rfl
  have hexec : exec .tableList s = .next (({ s with free := s.free + 1 } : State).replied c rest .ok
      (s.tables.list s.straps.arrangement start s.freeValue) false) :=
    congrArg Host.Outcome.next (State.serve_answered hserved hcarries hanswer)
  obtain ⟨n, q, hlist, hrun⟩ := s.tables.list_parts s.straps.arrangement start s.freeValue
  have hbounds : n < 65536 ∧ q < 65536 := by
    rcases hrun with ⟨-, rfl, rfl⟩ | hrun
    · decide
    · obtain ⟨hpos, hle, hfree, -⟩ := largestRun_eq_some hrun
      have := (hfree 0 hpos).2.1
      omega
  obtain ⟨hlength, htable, hpages, hn, hq, hcount, hreturned, hmore, hfilling, hswap, hrecords⟩ :=
    TableStore.listParts_fields s.straps.arrangement hkeys' hlen hbounds.1 hbounds.2
  refine ⟨_, hexec, ?_⟩
  rw [hlist]
  generalize (s.tables.listParts s.straps.arrangement start n q).flatten = p at *
  refine ⟨hlength, htable.trans ?_, hpages, ?_, hcount, hreturned, hmore, fun hnone => ?_, fun f x hf hx => ?_, fun hnone => ?_,
    fun w hw => ?_, fun i m x hi hx => ?_⟩
  · cases s.straps.arrangement <;> rfl
  · rw [hn, hq]
    rcases hrun with ⟨hnone, rfl, rfl⟩ | hrun
    · have hfull := largestRun_eq_none.1 hnone
      refine ⟨iff_of_true rfl hfull, fun _ => rfl, fun h => absurd h (lt_irrefl 0), fun q' n' hrun' => ?_⟩
      by_contra hpos
      exact hfull _ (hrun' 0 (Nat.lt_of_not_le hpos))
    · obtain ⟨hpos, -, hfree, hmost⟩ := largestRun_eq_some hrun
      exact ⟨iff_of_false (Nat.pos_iff_ne_zero.1 hpos) fun h => h _ (hfree 0 hpos), fun h => absurd hpos (by omega), fun _ => hfree, hmost⟩
  · rw [hfilling, TableStore.fillingKey, hnone]
    rfl
  · rw [hfilling, TableStore.fillingKey, hf]
    simp [show Assoc.find s.tables.directory f.record = some x from hx]
  · rw [hnone] at hswap
    rw [← slice_slice p (a := 14) (m := 79) (o := 0) (by decide), ← slice_slice p (a := 14) (m := 79) (o := 4) (by decide), hswap]
    decide
  · have hw25 : w.keys.length ≤ 25 := by rwa [hw] at hkeys'
    obtain ⟨hflags, htarget, hnumber, hkey, hrest⟩ := swapBytes_fields hw25
    rw [hw] at hswap
    rw [← hswap] at hflags htarget hnumber hkey hrest
    refine ⟨(byteAt_slice p (by decide)).symm.trans hflags, (slice_slice p (by decide)).symm.trans htarget,
      (byteAt_slice p (by decide)).symm.trans hnumber, fun i key hi => ?_, fun i hlo hhi => ?_⟩
    · have hlt := (List.getElem?_eq_some_iff.1 hi).1
      have := hkey i key hi
      rwa [slice_slice p (by omega), ← Nat.add_assoc] at this
    · have := hrest i hlo hhi
      rwa [byteAt_slice p (by omega), ← Nat.add_assoc] at this
  · have hreturned : (s.tables.returned start)[i]? = some (m, x) := by
      have hlt : i < Config.listRecords := lt_of_lt_of_le hi (min_le_left ..)
      rw [TableStore.returned, List.getElem?_take_of_lt hlt]
      exact hx
    have hrecord := hrecords i m x hreturned
    obtain ⟨h0, h1, h4, h5, h6, h7, h8, h10, h12, h14⟩ := x.listed_fields m
    rw [← hrecord] at h0 h1 h4 h5 h6 h7 h8 h10 h12 h14
    have hslice : ∀ o k, o + k ≤ 16 → slice p (93 + 16 * i + o) k = slice (slice p (93 + 16 * i) 16) o k := fun o k h =>
      (slice_slice p h).symm
    have hbyte : ∀ o, o < 16 → byteAt p (93 + 16 * i + o) = byteAt (slice p (93 + 16 * i) 16) o := fun o h => (byteAt_slice p h).symm
    refine ⟨(hslice 0 1 (by decide)).trans h0, (hslice 1 3 (by decide)).trans h1, (hbyte 4 (by decide)).trans h4,
      (hbyte 5 (by decide)).trans (h5.trans ?_), (hbyte 6 (by decide)).trans h6, (hslice 7 1 (by decide)).trans h7,
      (hslice 8 2 (by decide)).trans h8, (hslice 10 2 (by decide)).trans h10, (hslice 12 2 (by decide)).trans h12,
      (hslice 14 2 (by decide)).trans h14⟩
    cases x.state <;> rfl

end Sys2Proof.Machine
end

section
/-! SUPPORT. The tokens that come back to a part: a MUSTER at the master that sent it (R102, R103, R105), a SHOW at a follower
(R107, R109) and at its master (R105). -/

namespace Sys2Proof.Machine

/-! ### The command of each token -/

theorem exec_musterReturn_good {s : State} {token : Bytes} {m : MusterToken} (hrole : s.straps.role = .master)
    (hm : parseMuster token = some m) : exec (.musterReturn token) s = .next (s.musterReturned m) := by
  change execMusterReturn token s = _
  rw [execMusterReturn, hrole, hm]

theorem exec_showHandle_good {s : State} {token : Bytes} {m : ShowToken} (hrole : s.straps.role = .follower)
    (hm : parseShow token = some m) : exec (.showHandle token) s = .next (s.showHandled m token) := by
  change execShowHandle token s = _
  rw [execShowHandle, hrole, hm]

theorem exec_showReturn_good {s : State} {token : Bytes} {m : ShowToken} (hrole : s.straps.role = .master)
    (hm : parseShow token = some m) : exec (.showReturn token) s = .next (s.showReturned m) := by
  change execShowReturn token s = _
  rw [execShowReturn, hrole, hm]

/-! ### The outcome of a round (R103) -/

/-- A round for the proposal NONE cannot succeed (assumption log 17). -/
theorem closeOutcome_none (limit count : Nat) (ready : Bool) :
    closeOutcome limit count none ready = closeOutcome limit count none false := by
  cases ready <;> rfl

/-- A SHOW sets the repeat count back, and every other outcome counts one more. -/
theorem closeOutcome_count (limit count : Nat) (p : Option FrameNo) (ready : Bool) :
    (closeOutcome limit count p ready).2 =
      if (closeOutcome limit count p ready).1.frame.isSome then 0 else min (count + 1) 255 := by
  have hfailed : (closeOutcome limit count p false).2 =
      if (closeOutcome limit count p false).1.frame.isSome then 0 else min (count + 1) 255 := by
    rw [closeOutcome_failed]
    by_cases h : limit ≤ min (count + 1) 255 <;> simp [h, RoundOutcome.frame]
  cases ready with
  | false => exact hfailed
  | true =>
    cases p with
    | none => rwa [closeOutcome_none]
    | some f => rfl

/-! ### A MUSTER at its master (R102) -/

theorem State.musterReturned_stale {s : State} {t : MusterToken} (h : ∀ r, s.coh.round = some r → r.seq ≠ t.seq) :
    s.musterReturned t = s := by
  unfold State.musterReturned
  split
  · rfl
  next r hr => exact if_pos (h r hr).symm

theorem State.musterReturned_right {s : State} {t : MusterToken} {r : Round} (hr : s.coh.round = some r) (hseq : r.seq = t.seq)
    (hhop : t.hop.toNat = s.settings.ringLength - 1) :
    s.musterReturned t = (s.setCoh { s.coh with floor := t.floor }).closeMasterRound r t.allReady t.vector := by
  simp [State.musterReturned, hr, hseq, hhop]

theorem State.musterReturned_wrong {s : State} {t : MusterToken} {r : Round} (hr : s.coh.round = some r) (hseq : r.seq = t.seq)
    (hhop : t.hop.toNat ≠ s.settings.ringLength - 1) : s.musterReturned t =
      (s.recordFault ⟨.ringFormat, none, s.coh.shown, .seq t.seq⟩).closeMasterRound r false t.vector := by
  simp [State.musterReturned, hr, hseq, hhop]

/-- Settles O49: the round that a MUSTER closes is ready only after a right hop count, and `closeMasterRound` decides it. -/
theorem musterReturnClosesRound : Obligations.MusterReturnClosesRound := by
  intro s token m hrole hm
  have hexec := exec_musterReturn_good hrole hm
  constructor
  · intro hstale
    rw [hexec, State.musterReturned_stale hstale]
  intro r hr hseq right count o found
  by_cases hright : right
  · have hfound : found = s := if_pos hright
    have ho : (closeOutcome s.settings.coherenceLimit s.coh.repeatCount r.proposal m.allReady).1 = o := by
      cases hready : m.allReady with
      | false => simp [o, hready, closeOutcome_failed, count]
      | true => cases hp : r.proposal <;> simp [o, hready, hp, hright, closeOutcome, count]
    obtain ⟨sent, hclose, hsent, hvector, hecho, hout⟩ :=
      (s.setCoh { s.coh with floor := m.floor }).closeMasterRound_spec r m.allReady m.vector
    rw [closeOutcome_count] at hclose
    simp only [State.setCoh_coh, State.setCoh_settings, ho] at hclose hout
    refine ⟨sent, ?_, hsent, hvector, hecho, hout⟩
    rw [hexec, State.musterReturned_right hr hseq hright, hclose, hfound, if_pos hright]
    rfl
  · have hfound : found = s.recordFault ⟨.ringFormat, none, s.coh.shown, .seq m.seq⟩ := if_neg hright
    have ho : (closeOutcome s.settings.coherenceLimit s.coh.repeatCount r.proposal false).1 = o := by
      simp [o, hright, closeOutcome_failed, count]
    obtain ⟨fs, v, l, ns, hfault⟩ := s.recordFault_spec ⟨.ringFormat, none, s.coh.shown, .seq m.seq⟩
    obtain ⟨sent, hclose, hsent, hvector, hecho, hout⟩ :=
      (s.recordFault ⟨.ringFormat, none, s.coh.shown, .seq m.seq⟩).closeMasterRound_spec r false m.vector
    rw [closeOutcome_count] at hclose
    simp only [hfault, ho] at hclose hout
    refine ⟨sent, ?_, hsent, hvector, hecho, hout⟩
    rw [hexec, State.musterReturned_wrong hr hseq hright, hfound, hfault, hclose, if_neg hright]

/-! ### A SHOW at a follower (R107) -/

theorem State.takesShow_iff {s : State} {t : ShowToken} :
    s.takesShow t = true ↔ s.coh.musterMark = true ∧ s.coh.round = some ⟨t.seq, t.echo⟩ := by
  unfold State.takesShow
  rw [Bool.and_eq_true]
  refine and_congr_right fun _ => ?_
  cases s.coh.round with
  | none => simp
  | some r => cases r; simp

theorem State.showHandled_taken {s : State} {t : ShowToken} {o : RoundOutcome} (bytes : Bytes) (htake : s.takesShow t = true)
    (ho : t.outcome = some o) : s.showHandled t bytes = { s with
      ringOut := s.ringOut ++ [bytes]
      coh := { s.coh with pending := some ⟨o, some t.vector⟩, ringLost := false,
                          missCount := if s.coh.ringLost then 0 else s.coh.missCount } } := by
  rw [State.showHandled, htake, ho]
  rfl

theorem State.showHandled_discarded {s : State} {t : ShowToken} (bytes : Bytes) (htake : s.takesShow t = false) :
    s.showHandled t bytes = { s with ringOut := s.ringOut ++ [bytes] } := by
  rw [State.showHandled, htake]

/-! ### A SHOW at its master (R105) -/

/-- Whether a SHOW record is that of the round `seq`. -/
def isShowOf (seq : BitVec 8) (r : Option ShowRecord) : Bool := r.any fun x => x.seq == seq

theorem isShowOf_iff {seq : BitVec 8} {r : Option ShowRecord} : isShowOf seq r = true ↔ ∃ x, r = some x ∧ x.seq = seq := by
  simp [isShowOf, Option.any_eq_true]

theorem State.showReturned_eq (s : State) (t : ShowToken) : s.showReturned t =
    if isShowOf t.seq s.coh.showSent || isShowOf t.seq s.coh.showApplied then s.setCoh { s.coh with
      showSent := s.coh.showSent.map fun r => if r.seq = t.seq then { r with returned := true } else r
      showApplied := s.coh.showApplied.map fun r => if r.seq = t.seq then { r with returned := true } else r
      ringLost := false }
    else s := by
  unfold State.showReturned
  cases s.coh.showSent <;> cases s.coh.showApplied <;> rfl

/-- Settles O50: a follower takes the SHOW or discards it, a master finds its record or none. -/
theorem showIsTakenOrReturned : Obligations.ShowIsTakenOrReturned := by
  constructor
  · intro s token m o hrole hm ho taken
    rw [exec_showHandle_good hrole hm]
    by_cases htake : s.takesShow m = true
    · rw [State.showHandled_taken token htake ho, if_pos (State.takesShow_iff.1 htake)]
    · rw [State.showHandled_discarded token (Bool.eq_false_of_not_eq_true htake), if_neg (mt State.takesShow_iff.2 htake)]
  · intro s token m hrole hm mark hit
    have hfound : (isShowOf m.seq s.coh.showSent || isShowOf m.seq s.coh.showApplied) = true ↔ hit := by
      rw [Bool.or_eq_true, isShowOf_iff, isShowOf_iff]
    rw [exec_showReturn_good hrole hm, State.showReturned_eq]
    exact ⟨fun h => congrArg Host.Outcome.next (if_pos (hfound.2 h)),
      fun h => congrArg Host.Outcome.next (if_neg (mt hfound.1 h))⟩

end Sys2Proof.Machine
end

section
/-! SUPPORT. The queue of commands, the settings, the straps and the raster in force (R120, R125, R160, R192): the operations
that leave all four as they stand. -/

namespace Sys2Proof.Machine

/-- What stands between the commands that change it: the queue of commands, the settings, the straps and the raster. -/
def State.standing (s : State) : List Instr × Settings × StrapRecord × Nat × Nat × Nat :=
  (s.pending, s.settings, s.straps, s.timer.width, s.timer.height, s.timer.periodUs)

/-! ### Shared operations -/

@[simp] theorem State.setLoader_standing (s : State) (x : ImageLoader) : (s.setLoader x).standing = s.standing := rfl

@[simp] theorem State.setDirectory_standing (s : State) (x : Assoc TableRecord) : (s.setDirectory x).standing = s.standing := rfl

@[simp] theorem State.setWarp_standing (s : State) (k : Channel) (w : WarpUnit) : (s.setWarp k w).standing = s.standing := rfl

@[simp] theorem State.advanceTo_standing (s : State) (n : Nat) : (s.advanceTo n).standing = s.standing := rfl

@[simp] theorem State.raise_standing (s : State) (c : Cond) : (s.raise c).standing = s.standing := by
  obtain ⟨ns, h⟩ := s.raise_spec c
  rw [h]
  rfl

@[simp] theorem State.raiseAll_standing (s : State) (cs : List Cond) : (s.raiseAll cs).standing = s.standing := by
  obtain ⟨l, ns, h⟩ := s.raiseAll_spec cs
  rw [h]
  rfl

@[simp] theorem State.recordFaults_standing (s : State) (fs : List FaultRecord) : (s.recordFaults fs).standing = s.standing := by
  obtain ⟨gs, o, l, ns, h⟩ := s.recordFaults_spec fs
  rw [h]
  rfl

@[simp] theorem State.recordFault_standing (s : State) (f : FaultRecord) : (s.recordFault f).standing = s.standing :=
  s.recordFaults_standing [f]

@[simp] theorem State.levelNotices_standing (s before : State) : (s.levelNotices before).standing = s.standing := by
  obtain ⟨ns, h⟩ := s.levelNotices_spec before
  rw [h]
  rfl

@[simp] theorem State.runStore_standing (s : State) (n : Nat) : (s.runStore n).standing = s.standing := by
  obtain ⟨gs, o, l, ns, h⟩ := s.runStore_spec n
  rw [h]
  rfl

@[simp] theorem State.upsets_standing (s : State) (us : List Upset) : (s.upsets us).standing = s.standing := by
  obtain ⟨dir, w, h⟩ := s.upsets_spec us
  rw [h]
  rfl

theorem State.movePort_standing (s : State) (k : Channel) (m : OutputPort × Bool) : (s.movePort k m).standing = s.standing := by
  obtain ⟨w, l, b, ns, h⟩ := s.movePort_spec k m
  rw [h]
  rfl

theorem State.portEvent_standing {s t : State} {k : Channel} (h : s.portEvent k t) : t.standing = s.standing := by
  rcases h with rfl | ⟨n, m, rfl, -⟩
  · rfl
  · exact State.movePort_standing _ k m

theorem State.pixelWork_standing {s t : State} {k : Channel} {walk : Walk} (h : s.pixelWork t k walk) : t.standing = s.standing := by
  obtain ⟨u, ⟨w, gs, o, l, ns, rfl, -, -⟩, rfl | ⟨p, rfl⟩ | ⟨how, rfl⟩⟩ := h <;> rfl

theorem State.warpPixel_standing (s : State) (k : Channel) (walk : Walk) : (s.warpPixel k walk).standing = s.standing := by
  rcases s.warpPixel_cases k walk with he | ⟨-, hw⟩
  · rw [he]
  · exact State.pixelWork_standing hw

@[simp] theorem State.resumePixel_standing (s : State) (k : Channel) : (s.resumePixel k).standing = s.standing := by
  rcases s.resumePixel_cases k with he | ⟨walk, p, -, -, hw⟩
  · rw [he]
  · exact State.pixelWork_standing hw

theorem State.deadlineOf_standing (s : State) (v : Nat) : (s.deadlineOf v).standing = s.standing := by
  obtain ⟨p, w, u, b, ns, c, r, m, n, h, -⟩ := s.deadlineOf_eq v
  rw [h]
  rfl

theorem State.pipelineReset_standing (s : State) : s.pipelineReset.standing = s.standing := by
  rw [State.pipelineReset_eq, State.levelNotices_standing]
  rfl

/-! ### The engine's commands -/

/-- Serving a cell leaves what stands where the command does. -/
theorem State.serve_standing {s : State} {mine : Cell → Bool} {command : Cell → State → Answer}
    (hc : ∀ c t, (command c t).state.standing = t.standing) : Leaves (.next (s.serve mine command)) (·.standing = s.standing) :=
  State.serve_leaves (P := fun t => t.standing = s.standing) (fun _ _ h => h) (fun _ _ h => h) (fun c t h => (hc c t).trans h) rfl

theorem State.identifyCommand_standing (c : Cell) (s : State) : (s.identifyCommand c).state.standing = s.standing := by
  unfold State.identifyCommand
  split <;> rfl

theorem State.statusCommand_standing (c : Cell) (s : State) : (s.statusCommand c).state.standing = s.standing := by
  unfold State.statusCommand
  split <;> rfl

theorem State.getCommand_standing (c : Cell) (s : State) : (s.getCommand c).state.standing = s.standing := by
  unfold State.getCommand
  split <;> rfl

theorem State.clearCommand_standing (c : Cell) (s : State) : (s.clearCommand c).state.standing = s.standing := by
  unfold State.clearCommand
  split <;> rfl

theorem State.faultReadCommand_standing (c : Cell) (s : State) : (s.faultReadCommand c).state.standing = s.standing := by
  unfold State.faultReadCommand
  repeat' split
  all_goals rfl

theorem State.restartCommand_standing (c : Cell) (s : State) : (s.restartCommand c).state.standing = s.standing := by
  rcases s.restartCommand_cases c with he | ⟨k, m, he, -⟩
  · rw [he]
  · rw [he, State.movePort_standing]

theorem State.resetFullCommand_standing (c : Cell) (s : State) : (s.resetFullCommand c).state.standing = s.standing := by
  unfold State.resetFullCommand
  split <;> rfl

theorem State.resetPipelineCommand_standing (c : Cell) (s : State) : (s.resetPipelineCommand c).state.standing = s.standing := by
  rcases s.resetPipelineCommand_cases c with he | he
  · rw [he]
  · rw [he, State.pipelineReset_standing]

theorem State.openCommand_standing (c : Cell) (s : State) : (s.openCommand c).state.standing = s.standing := by
  unfold State.openCommand
  dsimp only
  repeat' split
  all_goals rfl

theorem State.writeCommand_standing (c : Cell) (s : State) : (s.writeCommand c).state.standing = s.standing := by
  unfold State.writeCommand
  dsimp only
  repeat' split
  all_goals rfl

theorem State.readCommand_standing (c : Cell) (s : State) : (s.readCommand c).state.standing = s.standing := by
  unfold State.readCommand
  dsimp only
  repeat' split
  all_goals simp

theorem State.sealCommand_standing (c : Cell) (s : State) : (s.sealCommand c).state.standing = s.standing := by
  unfold State.sealCommand
  repeat' split
  all_goals rfl

theorem State.dropCommand_standing (c : Cell) (s : State) : (s.dropCommand c).state.standing = s.standing := by
  unfold State.dropCommand State.dropStaged State.dropLive
  repeat' split
  all_goals rfl

theorem State.swapCommand_standing (c : Cell) (s : State) : (s.swapCommand c).state.standing = s.standing := by
  unfold State.swapCommand
  dsimp only
  repeat' split
  all_goals rfl

theorem State.listCommand_standing (c : Cell) (s : State) : (s.listCommand c).state.standing = s.standing := by
  unfold State.listCommand
  dsimp only
  repeat' split
  all_goals rfl

theorem State.storeCommand_standing (c : Cell) (s : State) : (s.storeCommand c).state.standing = s.standing := by
  unfold State.storeCommand
  repeat' split
  all_goals rfl

theorem State.loadCommand_standing (c : Cell) (s : State) : (s.loadCommand c).state.standing = s.standing := by
  unfold State.loadCommand
  dsimp only
  repeat' split
  all_goals simp

end Sys2Proof.Machine
end

section
/-! SUPPORT. The commands that leave the queue, the settings, the straps and the raster in force as they stand. -/

namespace Sys2Proof.Machine

/-! ### The image loader and the default fill -/

theorem execStartupHeaderReadDone_standing (s : State) : Leaves (execStartupHeaderReadDone s) (·.standing = s.standing) := by
  unfold execStartupHeaderReadDone State.endStartup
  repeat' split
  all_goals simp

theorem execStartupLoadDone_standing (s : State) : Leaves (execStartupLoadDone s) (·.standing = s.standing) := by
  unfold execStartupLoadDone
  split
  · obtain ⟨he, -⟩ := s.applyTables_frame
    rw [leaves_next, State.setLoader_standing, he, State.setDirectory_standing]
  · exact leaves_next.2 rfl

theorem execDefaultFillPageDone_standing (s : State) : Leaves (execDefaultFillPageDone s) (·.standing = s.standing) := by
  unfold execDefaultFillPageDone State.fillPageDone
  repeat' split
  all_goals exact leaves_next.2 rfl

theorem State.enqueueCompletion_standing (s : State) (c : Completion) : (s.enqueueCompletion c).1.standing = s.standing := by
  unfold State.enqueueCompletion
  repeat' split
  all_goals rfl

theorem execCompletionEnqueue_standing (op : OpRecord) (s : State) :
    Leaves (execCompletionEnqueue op s) (·.standing = s.standing) := by
  unfold execCompletionEnqueue
  split
  · split
    · exact leaves_next.2 rfl
    · rename_i c _
      show Leaves (.next (if (s.enqueueCompletion c).2 = true then _ else (s.enqueueCompletion c).1)) _
      rw [leaves_next, ← s.enqueueCompletion_standing c]
      split <;> rfl
  · split
    · exact leaves_next.2 rfl
    · rename_i c _
      show Leaves (.next (if (s.enqueueCompletion c).2 = true then _ else (s.enqueueCompletion c).1)) _
      rw [leaves_next, ← s.enqueueCompletion_standing c]
      split <;> rfl

theorem execStorePhaseDone_standing (us : List Upset) (s : State) : Leaves (execStorePhaseDone us s) (·.standing = s.standing) := by
  unfold execStorePhaseDone
  dsimp only
  repeat' split
  all_goals simp

theorem execFlashWriteFailed_standing (done : Nat) (s : State) :
    Leaves (execFlashWriteFailed done s) (·.standing = s.standing) := by
  unfold execFlashWriteFailed
  split <;> simp

theorem execLoadReadDone_standing (s : State) : Leaves (execLoadReadDone s) (·.standing = s.standing) := by
  unfold execLoadReadDone
  repeat' split
  all_goals simp

/-! ### Links and records -/

theorem execInputCarrierDetected_standing (k : Channel) (s : State) :
    Leaves (execInputCarrierDetected k s) (·.standing = s.standing) := by
  unfold execInputCarrierDetected
  split <;> exact leaves_next.2 rfl

theorem execInputTrainingDone_standing (k : Channel) (s : State) :
    Leaves (execInputTrainingDone k s) (·.standing = s.standing) := by
  unfold execInputTrainingDone
  split <;> exact leaves_next.2 rfl

theorem State.take_standing (s : State) (k : Channel) (r : Received) : (s.take k r).standing = s.standing :=
  State.raiseAll_standing _ _

theorem State.loseLink_standing (s : State) (k : Channel) : (s.loseLink k).standing = s.standing := by
  rw [State.loseLink, State.levelNotices_standing]
  exact s.take_standing k _

theorem execInputLinkLost_standing (k : Channel) (s : State) : Leaves (execInputLinkLost k s) (·.standing = s.standing) := by
  unfold execInputLinkLost
  split
  · exact leaves_next.2 rfl
  · exact leaves_next.2 (s.loseLink_standing k)
  · exact leaves_next.2 (s.loseLink_standing k)

theorem execFrameOpen_standing (k : Channel) (record : Bytes) (s : State) :
    Leaves (execFrameOpen k record s) (·.standing = s.standing) := by
  unfold execFrameOpen
  split
  · exact leaves_next.2 (s.take_standing k _)
  · exact leaves_next.2 rfl

theorem execLine_standing (k : Channel) (record : Bytes) (s : State) : Leaves (execLine k record s) (·.standing = s.standing) := by
  unfold execLine
  split <;> exact leaves_next.2 rfl

theorem execFrameClose_standing (k : Channel) (record : Bytes) (s : State) :
    Leaves (execFrameClose k record s) (·.standing = s.standing) := by
  unfold execFrameClose
  split
  · exact leaves_next.2 (s.take_standing k _)
  · exact leaves_next.2 rfl

theorem execCell_standing (k : Channel) (record : Bytes) (s : State) : Leaves (execCell k record s) (·.standing = s.standing) := by
  unfold execCell State.takeCell
  repeat' split
  · exact leaves_next.2 (s.raise_standing _)
  · exact leaves_next.2 rfl
  · exact leaves_next.2 (s.raise_standing _)
  · exact leaves_next.2 rfl

theorem execReverseLaneSend_standing (k : Channel) (s : State) : Leaves (execReverseLaneSend k s) (·.standing = s.standing) := by
  unfold execReverseLaneSend State.beginSending
  dsimp only
  repeat' split
  all_goals exact leaves_next.2 rfl

theorem execReverseSendEnd_standing (k : Channel) (s : State) : Leaves (execReverseSendEnd k s) (·.standing = s.standing) := by
  unfold execReverseSendEnd
  dsimp only
  split <;> exact leaves_next.2 rfl

/-! ### The raster timer and the Sky Ring -/

theorem execLineDeadline_standing (s : State) : Leaves (execLineDeadline s) (·.standing = s.standing) := by
  unfold execLineDeadline
  split
  · exact leaves_next.2 (s.deadlineOf_standing _)
  · exact leaves_next.2 rfl

theorem State.closeMasterRound_standing (s : State) (r : Round) (ready : Bool) (v : Vec32) :
    (s.closeMasterRound r ready v).standing = s.standing := by
  obtain ⟨x, h, -⟩ := s.closeMasterRound_spec r ready v
  rw [h]
  rfl

theorem execMusterHandle_standing (token : Bytes) (s : State) : Leaves (execMusterHandle token s) (·.standing = s.standing) := by
  unfold execMusterHandle
  split <;> exact leaves_next.2 rfl

theorem execMusterReturn_standing (token : Bytes) (s : State) : Leaves (execMusterReturn token s) (·.standing = s.standing) := by
  unfold execMusterReturn State.musterReturned
  repeat' split
  · exact leaves_next.2 rfl
  · exact leaves_next.2 rfl
  · exact leaves_next.2 (State.closeMasterRound_standing _ _ _ _)
  · rw [leaves_next, State.closeMasterRound_standing, State.recordFault_standing]
  · exact leaves_next.2 rfl

theorem execShowHandle_standing (token : Bytes) (s : State) : Leaves (execShowHandle token s) (·.standing = s.standing) := by
  unfold execShowHandle State.showHandled
  dsimp only
  repeat' split
  all_goals exact leaves_next.2 rfl

theorem execShowReturn_standing (token : Bytes) (s : State) : Leaves (execShowReturn token s) (·.standing = s.standing) := by
  unfold execShowReturn State.showReturned
  dsimp only
  repeat' split
  all_goals exact leaves_next.2 rfl

/-! ### The warp and light units -/

theorem execWarpLineBegin_standing (k : Channel) (s : State) : Leaves (execWarpLineBegin k s) (·.standing = s.standing) := by
  unfold execWarpLineBegin
  dsimp only
  repeat' split
  all_goals exact leaves_next.2 rfl

theorem execWarpPixel_standing (k : Channel) (us : List Upset) (s : State) :
    Leaves (execWarpPixel k us s) (·.standing = s.standing) := by
  unfold execWarpPixel
  dsimp only
  split
  · exact leaves_next.2 (s.upsets_standing us)
  · rw [leaves_next, State.warpPixel_standing, State.upsets_standing]

theorem execTileFillComplete_standing (k : Channel) (read : Nat) (us : List Upset) (s : State) :
    Leaves (execTileFillComplete k read us s) (·.standing = s.standing) := by
  unfold execTileFillComplete
  dsimp only
  split <;> simp

theorem execTileFillTimeout_standing (k : Channel) (read : Nat) (us : List Upset) (s : State) :
    Leaves (execTileFillTimeout k read us s) (·.standing = s.standing) := by
  unfold execTileFillTimeout State.fillTimeout
  dsimp only
  split <;> simp

theorem execLightPixelWrite_standing (k : Channel) (us : List Upset) (s : State) :
    Leaves (execLightPixelWrite k us s) (·.standing = s.standing) := by
  unfold execLightPixelWrite State.lightPixelWrite
  dsimp only
  split
  · rw [leaves_next, State.recordFaults_standing]
    exact s.upsets_standing us
  · exact leaves_next.2 (s.upsets_standing us)

end Sys2Proof.Machine

namespace Sys2Proof

open Machine

/-- The commands that change the settings, the straps or the raster in force: SET, the settings of an image, the frame starts
and the pin and FULL resets. -/
def Instr.governs : Instr → Bool
  | .set | .imageCheckReadDone => true
  | .frameStart _ | .syncPulse _ | .ownStart _ => true
  | .pinReset .. | .resetFullEffect _ => true
  | _ => false

/-- Every other command leaves the queue, the settings, the straps and the raster as they stand. -/
theorem exec_standing {i : Instr} (hi : i.governs = false) (s : State) : Leaves (exec i s) (·.standing = s.standing) := by
  have of_port : ∀ {o : Host.Outcome State Fault Refusal} {k : Channel}, Leaves o (s.portEvent k) →
      Leaves o (·.standing = s.standing) := fun ho t ht => State.portEvent_standing (ho t ht)
  cases i with
  | set | imageCheckReadDone | frameStart | syncPulse | ownStart | pinReset | resetFullEffect => cases hi
  | startupHeaderReadDone => exact execStartupHeaderReadDone_standing s
  | startupLoadDone => exact execStartupLoadDone_standing s
  | inputCarrierDetected k => exact execInputCarrierDetected_standing k s
  | inputTrainingDone k => exact execInputTrainingDone_standing k s
  | inputLinkLost k => exact execInputLinkLost_standing k s
  | frameOpen k record => exact execFrameOpen_standing k record s
  | line k record => exact execLine_standing k record s
  | frameClose k record => exact execFrameClose_standing k record s
  | recordUnknown k record => exact leaves_next.2 rfl
  | cell k record => exact execCell_standing k record s
  | identify => exact State.serve_standing State.identifyCommand_standing
  | status => exact State.serve_standing State.statusCommand_standing
  | get => exact State.serve_standing State.getCommand_standing
  | clear => exact State.serve_standing State.clearCommand_standing
  | faultRead => exact State.serve_standing State.faultReadCommand_standing
  | restartOutput => exact State.serve_standing State.restartCommand_standing
  | resetFull => exact State.serve_standing State.resetFullCommand_standing
  | resetPipeline => exact State.serve_standing State.resetPipelineCommand_standing
  | badCommand => exact State.serve_standing fun _ _ => rfl
  | tableOpen => exact State.serve_standing State.openCommand_standing
  | tableWrite => exact State.serve_standing State.writeCommand_standing
  | tableRead us =>
    rw [← s.upsets_standing us]
    exact State.serve_standing State.readCommand_standing
  | tableSeal => exact State.serve_standing State.sealCommand_standing
  | tableDropStaged => exact State.serve_standing State.dropCommand_standing
  | tableDropLive => exact State.serve_standing State.dropCommand_standing
  | tableSwap => exact State.serve_standing State.swapCommand_standing
  | tableList => exact State.serve_standing State.listCommand_standing
  | store => exact State.serve_standing State.storeCommand_standing
  | load => exact State.serve_standing State.loadCommand_standing
  | defaultFillPageDone => exact execDefaultFillPageDone_standing s
  | completionEnqueue op => exact execCompletionEnqueue_standing op s
  | storePhaseDone us => exact execStorePhaseDone_standing us s
  | flashWriteFailed done => exact execFlashWriteFailed_standing done s
  | loadReadDone => exact execLoadReadDone_standing s
  | reverseLaneSend k => exact execReverseLaneSend_standing k s
  | reverseSendEnd k => exact execReverseSendEnd_standing k s
  | lineDeadline => exact execLineDeadline_standing s
  | musterHandle token => exact execMusterHandle_standing token s
  | musterReturn token => exact execMusterReturn_standing token s
  | showHandle token => exact execShowHandle_standing token s
  | showReturn token => exact execShowReturn_standing token s
  | warpLineBegin k => exact execWarpLineBegin_standing k s
  | warpPixel k us => exact execWarpPixel_standing k us s
  | tileFillComplete k read us => exact execTileFillComplete_standing k read us s
  | tileFillTimeout k read us => exact execTileFillTimeout_standing k read us s
  | lightPixelWrite k us => exact execLightPixelWrite_standing k us s
  | statusReport k locked => exact of_port (execStatusReport_portEvent k locked s)
  | reverseCarrierLost k => exact of_port (execReverseCarrierLost_portEvent k s)
  | reportTimeout k => exact of_port (execReportTimeout_portEvent k s)
  | settleExpiry k => exact of_port (execSettleExpiry_portEvent k s)
  | relockExpiry k => exact of_port (execRelockExpiry_portEvent k s)

end Sys2Proof
end

section
/-! SUPPORT. The settings (R160, R125): what a legal value is, what is stored for a value sent, and that every command keeps the
settings legal and the raster in force a raster of the arrangement. -/

namespace Sys2Proof.Machine

/-! ### Legal settings -/

/-- Every setting of an arrangement at a legal value (R125, R160); the enables, policies, modes and codes are legal by their
types. -/
structure Settings.Legal (arr : Arrangement) (st : Settings) : Prop where
  raster : rasterLegal arr st.rasterWidth st.rasterHeight st.framePeriodUs = true
  musterOffset : within 16 (arr.maxHeight / 2) st.musterOffset = true
  ringLength : within 2 8 st.ringLength = true
  coherenceLimit : within 1 255 st.coherenceLimit = true
  ringLossLimit : within 1 255 st.ringLossLimit = true
  inputTimeout : within 1 255 st.inputTimeout = true
  damageLimit : within 0 255 st.damageLimit = true
  settleMs : within 0 10000 st.settleMs = true
  relockMs : within 0 10000 st.relockMs = true
  lossConfirm : within 1 120 st.lossConfirm = true
  returnConfirm : within 1 600 st.returnConfirm = true

theorem State.settingsSound_iff (s : State) : s.settingsSound = true ↔ s.settings.Legal s.straps.arrangement
    ∧ rasterLegal s.straps.arrangement s.timer.width s.timer.height s.timer.periodUs = true := by
  simp only [State.settingsSound, Bool.and_eq_true]
  constructor
  · rintro ⟨⟨⟨⟨⟨⟨⟨⟨⟨⟨⟨h1, h2⟩, h3⟩, h4⟩, h5⟩, h6⟩, h7⟩, h8⟩, h9⟩, h10⟩, h11⟩, h12⟩
    exact ⟨⟨h1, h3, h4, h5, h6, h7, h8, h9, h10, h11, h12⟩, h2⟩
  · rintro ⟨⟨h1, h3, h4, h5, h6, h7, h8, h9, h10, h11, h12⟩, h2⟩
    exact ⟨⟨⟨⟨⟨⟨⟨⟨⟨⟨⟨h1, h2⟩, h3⟩, h4⟩, h5⟩, h6⟩, h7⟩, h8⟩, h9⟩, h10⟩, h11⟩, h12⟩

theorem State.settingsSound_of_standing {s t : State} (h : t.standing = s.standing) (hs : s.settingsSound = true) :
    t.settingsSound = true := by
  simp only [State.standing, Prod.mk.injEq] at h
  obtain ⟨-, hsettings, hstraps, hw, hh, hp⟩ := h
  rw [State.settingsSound_iff] at hs ⊢
  rwa [hsettings, hstraps, hw, hh, hp]

@[simp] theorem within_iff {lo hi n : Nat} : within lo hi n = true ↔ lo ≤ n ∧ n ≤ hi := by
  simp [within]

theorem rasterLegal_iff {arr : Arrangement} {w h p : Nat} : rasterLegal arr w h p = true ↔
    ((640 ≤ w ∧ w ≤ arr.maxWidth) ∧ w % 16 = 0) ∧ ((480 ≤ h ∧ h ≤ arr.maxHeight) ∧ h % 8 = 0)
      ∧ arr.minPeriod ≤ p ∧ p ≤ 100000 := by
  simp only [rasterLegal, Bool.and_eq_true, decide_eq_true_eq, beq_iff_eq, and_assoc]

/-! ### The value stored for a value sent (R160, R161) -/

theorem clampNat_within {lo hi : Nat} (h : lo ≤ hi) (v : Nat) : within lo hi (clampNat lo hi v) = true := by
  simp only [within_iff, clampNat]
  omega

/-- The largest raster of an arrangement, and the shortest period, leave room above and below (00_scope). -/
theorem raster_room (arr : Arrangement) : 640 ≤ arr.maxWidth ∧ 480 ≤ arr.maxHeight ∧ arr.minPeriod ≤ 100000 := by
  cases arr <;> decide

/-- The value stored is one that the setting may hold. -/
theorem settingAdmits_legal {arr : Arrangement} {st : Settings} (h : st.Legal arr) (id : SettingId) (v : Nat) :
    settingAdmits arr st id (id.legal arr st v) = true := by
  obtain ⟨hw, hh, hp⟩ := raster_room arr
  cases id with
  | channelEnable => exact decide_eq_true (Nat.mod_lt v (by decide))
  | rasterWidth =>
    simp only [settingAdmits, SettingId.legal, Bool.and_eq_true, within_iff, beq_iff_eq, clampNat]
    omega
  | rasterHeight =>
    simp only [settingAdmits, SettingId.legal, Bool.and_eq_true, within_iff, beq_iff_eq, clampNat]
    omega
  | framePeriodUs => exact clampNat_within hp v
  | musterOffset =>
    obtain ⟨-, ⟨⟨hlo, -⟩, -⟩, -⟩ := rasterLegal_iff.1 h.raster
    exact clampNat_within (by omega) v
  | ringLength => exact clampNat_within (by decide) v
  | coherenceLimit | ringLossLimit | inputTimeout | damageLimit => exact clampNat_within (by decide) v
  | settleMs | relockMs | lossConfirm | returnConfirm => exact clampNat_within (by decide) v
  | inactivePolicy | dither | outputMode | noticeLink =>
    exact decide_eq_true (by simp only [SettingId.legal]; omega)
  | flatLevel =>
    simp only [settingAdmits, Bool.and_eq_true, decide_eq_true_eq]
    simp only [SettingId.legal, flatCode]
    omega
  | noticeEnable => exact decide_eq_true (Nat.mod_lt _ (by decide))

/-- A setting takes a value that it may hold, and every other setting keeps its own. -/
theorem Settings.Legal.store {arr : Arrangement} {st : Settings} (h : st.Legal arr) {id : SettingId} {v : Nat}
    (hv : settingAdmits arr st id v = true) (k : Channel) : (st.store id k v).Legal arr := by
  obtain ⟨hw, hh, hp⟩ := rasterLegal_iff.1 h.raster
  cases id with
  | channelEnable | inactivePolicy | dither | outputMode | flatLevel | noticeLink | noticeEnable => exact { h with }
  | rasterWidth =>
    simp only [settingAdmits, Bool.and_eq_true, within_iff, beq_iff_eq] at hv
    exact { h with raster := rasterLegal_iff.2 ⟨hv, hh, hp⟩ }
  | rasterHeight =>
    simp only [settingAdmits, Bool.and_eq_true, within_iff, beq_iff_eq] at hv
    exact { h with raster := rasterLegal_iff.2 ⟨hw, hv, hp⟩ }
  | framePeriodUs => exact { h with raster := rasterLegal_iff.2 ⟨hw, hh, within_iff.1 hv⟩ }
  | musterOffset =>
    obtain ⟨hlo, hhi⟩ := within_iff.1 hv
    exact { h with musterOffset := within_iff.2 ⟨hlo, hhi.trans (Nat.div_le_div_right hh.1.2)⟩ }
  | ringLength => exact { h with ringLength := hv }
  | coherenceLimit => exact { h with coherenceLimit := hv }
  | ringLossLimit => exact { h with ringLossLimit := hv }
  | inputTimeout => exact { h with inputTimeout := hv }
  | damageLimit => exact { h with damageLimit := hv }
  | settleMs => exact { h with settleMs := hv }
  | relockMs => exact { h with relockMs := hv }
  | lossConfirm => exact { h with lossConfirm := hv }
  | returnConfirm => exact { h with returnConfirm := hv }

theorem State.storeSetting_settingsSound {s : State} (id : SettingId) (k : Channel) (v : Nat) (h : s.settingsSound = true) :
    (s.storeSetting id k v).settingsSound = true := by
  obtain ⟨ns, he, -⟩ := s.storeSetting_spec id k v
  rw [State.settingsSound_iff] at h ⊢
  rw [he]
  exact ⟨h.1.store (settingAdmits_legal h.1 id v) k, h.2⟩

theorem State.storeSetting_pending (s : State) (id : SettingId) (k : Channel) (v : Nat) :
    (s.storeSetting id k v).pending = s.pending := by
  obtain ⟨ns, he, -⟩ := s.storeSetting_spec id k v
  rw [he]

/-! ### SET and the settings of an image (R161, R195) -/

theorem State.setCommand_cases (c : Cell) (s : State) :
    (s.setCommand c).state = s ∨ ∃ id k v, (s.setCommand c).state = s.storeSetting id k v := by
  unfold State.setCommand
  split
  · exact Or.inl rfl
  · exact Or.inr ⟨_, _, _, rfl⟩

theorem State.applyRecord_cases (s : State) (rec : Bytes) :
    s.applyRecord rec = s ∨ ∃ id k v, s.applyRecord rec = s.storeSetting id k v := by
  unfold State.applyRecord
  repeat' split
  · exact Or.inl rfl
  · exact Or.inr ⟨_, _, _, rfl⟩
  · exact Or.inl rfl
  · exact Or.inl rfl
  · exact Or.inr ⟨_, _, _, rfl⟩

/-- What the settings of an image keep: whatever a setting stored keeps. -/
theorem State.applySettings_keeps {P : State → Prop} (hP : ∀ s id k v, P s → P (s.storeSetting id k v)) {s : State} (h : P s) :
    P s.applySettings := by
  unfold State.applySettings
  induction settingsRecords s.flash generalizing s with
  | nil => exact h
  | cons rec rest ih =>
    refine ih ?_
    rcases s.applyRecord_cases rec with he | ⟨id, k, v, he⟩
    · rwa [he]
    · rw [he]
      exact hP s id k v h

/-- IMAGE_CHECK_READ_DONE keeps what a setting stored keeps, where the loader, the log and the notices have no part in it. -/
theorem execImageCheckReadDone_keeps {P : State → Prop} (hstanding : ∀ s t : State, t.standing = s.standing → P s → P t)
    (hP : ∀ s id k v, P s → P (s.storeSetting id k v)) {s : State} (h : P s) : Leaves (execImageCheckReadDone s) P := by
  unfold execImageCheckReadDone
  repeat' split
  · exact leaves_next.2 (State.applySettings_keeps hP (hstanding s _ rfl h))
  · exact leaves_next.2 (hstanding s _ (State.recordFault_standing _ _) h)
  · exact leaves_next.2 h

/-- SET keeps what a setting stored keeps, where the cell queue and the reply queues have no part in it. -/
theorem execSet_keeps {P : State → Prop} (hstanding : ∀ s t : State, t.standing = s.standing → P s → P t)
    (hP : ∀ s id k v, P s → P (s.storeSetting id k v)) {s : State} (h : P s) : Leaves (execSet s) P := by
  refine State.serve_leaves (P := P) (fun s _ => hstanding s _ rfl) (fun s _ => hstanding s _ rfl) (fun c t ht => ?_) h
  rcases t.setCommand_cases c with he | ⟨id, k, v, he⟩
  · rwa [he]
  · rw [he]
    exact hP t id k v ht

/-! ### Frame starts (R126) -/

/-- A frame start makes the stored raster the raster in force. -/
theorem State.frameStart_standing (s : State) (own : Bool) : (s.frameStart own).standing =
    (s.pending, s.settings, s.straps, s.settings.rasterWidth, s.settings.rasterHeight, s.settings.framePeriodUs) := by
  obtain ⟨hpending, -, hstraps, -, -, -, -, hsettings, -⟩ := s.frameStart_keeps own
  obtain ⟨-, htimer, -⟩ := s.frameStart_units own
  rw [State.standing, hpending, hsettings, hstraps, htimer]
  rfl

/-- What a command of the raster timer leaves standing: all as it was, or the stored raster in force. -/
theorem State.frameEvent_standing {s t : State} (h : s.frameEvent t) : t.standing = s.standing
    ∨ t.standing = (s.pending, s.settings, s.straps, s.settings.rasterWidth, s.settings.rasterHeight, s.settings.framePeriodUs) := by
  rcases h with rfl | ⟨n, rfl⟩ | ⟨n, own, rfl⟩
  · exact Or.inl rfl
  · exact Or.inr ((State.levelNotices_standing _ _).trans (State.frameStart_standing (s.advanceTo n) false))
  · exact Or.inr ((State.levelNotices_standing _ _).trans (State.frameStart_standing _ own))

theorem State.frameEvent_settingsSound {s t : State} (h : s.settingsSound = true) (ht : s.frameEvent t) :
    t.settingsSound = true := by
  rcases State.frameEvent_standing ht with he | he
  · exact State.settingsSound_of_standing he h
  · simp only [State.standing, Prod.mk.injEq] at he
    obtain ⟨-, hsettings, hstraps, hw, hh, hp⟩ := he
    rw [State.settingsSound_iff] at h ⊢
    rw [hsettings, hstraps, hw, hh, hp]
    exact ⟨h.1, h.1.raster⟩

theorem State.frameEvent_pending {s t : State} (h : s.frameEvent t) : t.pending = s.pending := by
  rcases State.frameEvent_standing h with he | he <;> exact congrArg Prod.fst he

/-! ### Resets (R160, R192) -/

/-- The reset values are legal in every arrangement. -/
theorem State.resetValues_settingsSound (s : State) (straps : StrapRecord) (fs : List FaultRecord) (o : Bool) :
    (s.resetValues straps fs o).settingsSound = true := by
  rw [State.settingsSound_iff]
  show Settings.reset.Legal straps.arrangement ∧ rasterLegal straps.arrangement 1920 1200 16667 = true
  cases straps.arrangement <;>
    exact ⟨⟨by decide, by decide, by decide, by decide, by decide, by decide, by decide, by decide, by decide, by decide,
      by decide⟩, by decide⟩

/-- The first frame start after a reset is one of the part's own, or none. -/
theorem State.firstFrame_frameEvent (s : State) : s.frameEvent s.firstFrame := by
  unfold State.firstFrame
  split
  · exact Or.inl rfl
  · exact Or.inr (Or.inl ⟨s.now, by rw [State.advanceTo_now_self]⟩)
  · exact Or.inr (Or.inl ⟨s.now, by rw [State.advanceTo_now_self]⟩)

theorem State.resetEvent_settingsSound {s t : State} (h : s.settingsSound = true) (ht : s.resetEvent t) :
    t.settingsSound = true := by
  rcases ht with rfl | ⟨u, straps, fs, o, rfl⟩
  · exact h
  · exact State.frameEvent_settingsSound (u.resetValues_settingsSound straps fs o) (State.firstFrame_frameEvent _)

/-! ### Every command -/

/-- Every command keeps the settings legal and the raster in force a raster of the arrangement. -/
theorem exec_settingsSound {s : State} (h : s.settingsSound = true) (i : Instr) : Leaves (exec i s) (·.settingsSound = true) := by
  by_cases hi : i.governs = false
  · exact fun t ht => State.settingsSound_of_standing (exec_standing hi s t ht) h
  have hu : ∀ us, (s.upsets us).settingsSound = true := fun us => State.settingsSound_of_standing (s.upsets_standing us) h
  cases i with
  | set =>
    exact execSet_keeps (P := (·.settingsSound = true)) (fun _ _ => State.settingsSound_of_standing)
      (fun _ id k v => State.storeSetting_settingsSound id k v) h
  | imageCheckReadDone =>
    exact execImageCheckReadDone_keeps (P := (·.settingsSound = true)) (fun _ _ => State.settingsSound_of_standing)
      (fun _ id k v => State.storeSetting_settingsSound id k v) h
  | frameStart us => exact fun t ht => State.frameEvent_settingsSound (hu us) (execFrameStart_frameEvent us s t ht)
  | syncPulse us => exact fun t ht => State.frameEvent_settingsSound (hu us) (execSyncPulse_frameEvent us s t ht)
  | ownStart us => exact fun t ht => State.frameEvent_settingsSound (hu us) (execOwnStart_frameEvent us s t ht)
  | pinReset arr role pos done =>
    exact fun t ht => State.resetEvent_settingsSound h (execPinReset_resetEvent arr role pos done s t ht)
  | resetFullEffect done => exact fun t ht => State.resetEvent_settingsSound h (execResetFullEffect_resetEvent done s t ht)
  | _ => exact absurd rfl hi

/-- Settles O10: a setting stored takes a legal value, a frame start puts the stored raster in force, and the reset values
are legal in every arrangement. -/
theorem settingsStayLegal : Obligations.SettingsStayLegal := fun _ t h ht =>
  step_leaves (P := fun s => s.settingsSound = true) (fun _ h => State.settingsSound_of_standing rfl h)
    (fun s q h => by rw [State.settingsSound_iff] at h ⊢; exact h) (fun _ => exec_settingsSound) h t ht

/-! ### The queue of commands -/

theorem State.resetValues_pending (s : State) (straps : StrapRecord) (fs : List FaultRecord) (o : Bool) :
    (s.resetValues straps fs o).firstFrame.pending = s.pending :=
  State.frameEvent_pending (s := s.resetValues straps fs o) (State.firstFrame_frameEvent _)

theorem State.pending_of_standing {s t : State} (h : t.standing = s.standing) : t.pending = s.pending := congrArg Prod.fst h

/-- No command touches the queue of commands. -/
theorem exec_pending (i : Instr) (s : State) : Leaves (exec i s) (·.pending = s.pending) := by
  by_cases hi : i.governs = false
  · exact fun t ht => State.pending_of_standing (exec_standing hi s t ht)
  have hu : ∀ us, (s.upsets us).pending = s.pending := fun us => State.pending_of_standing (s.upsets_standing us)
  cases i with
  | set =>
    exact execSet_keeps (P := (·.pending = s.pending)) (fun _ _ ht h => (State.pending_of_standing ht).trans h)
      (fun t id k v h => (t.storeSetting_pending id k v).trans h) rfl
  | imageCheckReadDone =>
    exact execImageCheckReadDone_keeps (P := (·.pending = s.pending)) (fun _ _ ht h => (State.pending_of_standing ht).trans h)
      (fun t id k v h => (t.storeSetting_pending id k v).trans h) rfl
  | frameStart us => exact fun t ht => (State.frameEvent_pending (execFrameStart_frameEvent us s t ht)).trans (hu us)
  | syncPulse us => exact fun t ht => (State.frameEvent_pending (execSyncPulse_frameEvent us s t ht)).trans (hu us)
  | ownStart us => exact fun t ht => (State.frameEvent_pending (execOwnStart_frameEvent us s t ht)).trans (hu us)
  | pinReset arr role pos done =>
    exact leaves_next.2 ((State.resetValues_pending _ _ _ _).trans (State.pending_of_standing (s.runStore_standing done)))
  | resetFullEffect done =>
    show Leaves (execResetFullEffect done s) _
    unfold execResetFullEffect
    repeat' split
    · exact leaves_next.2 ((State.resetValues_pending _ _ _ _).trans (State.pending_of_standing (s.runStore_standing done)))
    · exact leaves_next.2 rfl
    · exact leaves_next.2 rfl
  | _ => exact absurd rfl hi

/-- Every command has a next state: no arm of a meaning stops the part. -/
theorem exec_next (i : Instr) (s : State) : ∃ t, exec i s = .next t := by
  cases i with
  | pinReset | recordUnknown => exact ⟨_, rfl⟩
  | identify | status | set | get | clear | faultRead | restartOutput | resetFull | resetPipeline | badCommand => exact ⟨_, rfl⟩
  | tableOpen | tableWrite | tableRead | tableSeal | tableDropStaged | tableDropLive | tableSwap | tableList => exact ⟨_, rfl⟩
  | store | load => exact ⟨_, rfl⟩
  | startupHeaderReadDone => simp only [exec, execStartupHeaderReadDone]; (repeat' split) <;> exact ⟨_, rfl⟩
  | imageCheckReadDone => simp only [exec, execImageCheckReadDone]; (repeat' split) <;> exact ⟨_, rfl⟩
  | startupLoadDone => simp only [exec, execStartupLoadDone]; split <;> exact ⟨_, rfl⟩
  | storePhaseDone => simp only [exec, execStorePhaseDone]; (repeat' split) <;> exact ⟨_, rfl⟩
  | flashWriteFailed => simp only [exec, execFlashWriteFailed]; split <;> exact ⟨_, rfl⟩
  | loadReadDone => simp only [exec, execLoadReadDone]; (repeat' split) <;> exact ⟨_, rfl⟩
  | defaultFillPageDone => simp only [exec, execDefaultFillPageDone]; (repeat' split) <;> exact ⟨_, rfl⟩
  | completionEnqueue => simp only [exec, execCompletionEnqueue]; (repeat' split) <;> exact ⟨_, rfl⟩
  | inputCarrierDetected => simp only [exec, execInputCarrierDetected]; split <;> exact ⟨_, rfl⟩
  | inputTrainingDone => simp only [exec, execInputTrainingDone]; split <;> exact ⟨_, rfl⟩
  | inputLinkLost => simp only [exec, execInputLinkLost]; split <;> exact ⟨_, rfl⟩
  | frameOpen => simp only [exec, execFrameOpen]; split <;> exact ⟨_, rfl⟩
  | line => simp only [exec, execLine]; split <;> exact ⟨_, rfl⟩
  | frameClose => simp only [exec, execFrameClose]; split <;> exact ⟨_, rfl⟩
  | cell => simp only [exec, execCell]; split <;> exact ⟨_, rfl⟩
  | reverseLaneSend => simp only [exec, execReverseLaneSend]; split <;> exact ⟨_, rfl⟩
  | reverseSendEnd => simp only [exec, execReverseSendEnd]; split <;> exact ⟨_, rfl⟩
  | resetFullEffect => simp only [exec, execResetFullEffect]; (repeat' split) <;> exact ⟨_, rfl⟩
  | frameStart => simp only [exec, execFrameStart]; split <;> exact ⟨_, rfl⟩
  | syncPulse => simp only [exec, execSyncPulse]; split <;> exact ⟨_, rfl⟩
  | ownStart => simp only [exec, execOwnStart]; split <;> exact ⟨_, rfl⟩
  | lineDeadline => simp only [exec, execLineDeadline]; split <;> exact ⟨_, rfl⟩
  | musterHandle => simp only [exec, execMusterHandle]; split <;> exact ⟨_, rfl⟩
  | musterReturn => simp only [exec, execMusterReturn]; split <;> exact ⟨_, rfl⟩
  | showHandle => simp only [exec, execShowHandle]; split <;> exact ⟨_, rfl⟩
  | showReturn => simp only [exec, execShowReturn]; split <;> exact ⟨_, rfl⟩
  | warpLineBegin => simp only [exec, execWarpLineBegin]; (repeat' split) <;> exact ⟨_, rfl⟩
  | warpPixel => simp only [exec, execWarpPixel]; split <;> exact ⟨_, rfl⟩
  | tileFillComplete => simp only [exec, execTileFillComplete]; split <;> exact ⟨_, rfl⟩
  | tileFillTimeout => simp only [exec, execTileFillTimeout]; split <;> exact ⟨_, rfl⟩
  | lightPixelWrite => simp only [exec, execLightPixelWrite]; split <;> exact ⟨_, rfl⟩
  | statusReport => simp only [exec, execStatusReport]; split <;> exact ⟨_, rfl⟩
  | reverseCarrierLost => simp only [exec, execReverseCarrierLost]; split <;> exact ⟨_, rfl⟩
  | reportTimeout => simp only [exec, execReportTimeout]; split <;> exact ⟨_, rfl⟩
  | settleExpiry => simp only [exec, execSettleExpiry]; split <;> exact ⟨_, rfl⟩
  | relockExpiry => simp only [exec, execRelockExpiry]; split <;> exact ⟨_, rfl⟩

/-- Settles O2: every arm of every meaning is a next state, and none of the queue of commands. -/
theorem everyCommandCompletes : Obligations.EveryCommandCompletes := by
  intro i s
  obtain ⟨t, ht⟩ := exec_next i s
  exact ⟨t, ht, exec_pending i s t ht⟩

/-- Settles O1: the two arms of a step. -/
theorem stepRunsFrontCommand : Obligations.StepRunsFrontCommand := by
  refine ⟨fun c rest s h => ?_, fun s h => ?_⟩ <;> unfold step <;> split
  · simp_all
  · simp_all
  · rfl
  · simp_all

end Sys2Proof.Machine
end

section
/-! SUPPORT. The transitions of an output port (R128 to R132) as its commands carry them out. -/

namespace Sys2Proof.Machine

/-! ### A move with OUTPUT_CHANGE -/

/-- A move with OUTPUT_CHANGE: the port and the units of its channel moved, and then the condition raised. -/
theorem State.movePort_told (s : State) (k : Channel) (q : OutputPort) :
    s.movePort k (q, true) = ({ s with
      outputs := s.outputs.set k q
      warps := s.warps.set k (s.movedWarp k (q, true))
      lights := s.lights.set k (s.movedLight k (q, true)) } : State).raise (Cond.outputChange k) := by
  have hstop : (if s.leavesActive k (q, true) = true then (s.setOutput k q).stopChannel k else s.setOutput k q) =
      { s with outputs := s.outputs.set k q, warps := s.warps.set k (s.movedWarp k (q, true)),
               lights := s.lights.set k (s.movedLight k (q, true)) } := by
    unfold State.movedWarp State.movedLight
    split
    · rfl
    · rw [Quad.set_get, Quad.set_get]
      rfl
  exact congrArg (State.raise · (Cond.outputChange k)) hstop

/-- What OUTPUT_CHANGE's notice carries (R184). -/
theorem State.noticeOf_outputChange (s : State) (k : Channel) :
    s.noticeOf (Cond.outputChange k) = ⟨Cond.outputChange k, some k, s.coh.channelShown.get k⟩ := by
  simp [State.noticeOf, Cond.outputChange]

/-- What a move of a port, told or not, leaves in latches, notices and the units of its channel. -/
theorem State.movePort_leaves (s : State) (k : Channel) (q : OutputPort) (change : Bool) : ∃ ns : List Notice,
    s.movePort k (q, change) = { s with
      outputs := s.outputs.set k q
      latches := if change then s.latches ||| BitVec.twoPow 45 (Cond.outputChange k) else s.latches
      warps := s.warps.set k (s.movedWarp k (q, change))
      lights := s.lights.set k (s.movedLight k (q, change))
      notices := ns }
    ∧ if change then s.queuesNotice ⟨Cond.outputChange k, some k, s.coh.channelShown.get k⟩ ns else ns = s.notices := by
  cases change with
  | false => exact ⟨s.notices, s.movePort_quiet k q, rfl⟩
  | true =>
    rw [State.movePort_told]
    let moved : State := { s with
      outputs := s.outputs.set k q
      warps := s.warps.set k (s.movedWarp k (q, true))
      lights := s.lights.set k (s.movedLight k (q, true)) }
    obtain ⟨ns, h⟩ := moved.raise_spec (Cond.outputChange k)
    have hq := moved.raise_queuesNotice (Cond.outputChange k)
    rw [h, State.noticeOf_outputChange] at hq
    exact ⟨ns, h, hq⟩

/-! ### The transitions -/

/-- The command `i` moves the port of a channel to `q` at the moment `n`, and tells of it by OUTPUT_CHANGE where `change`. -/
def State.portMoves (s : State) (k : Channel) (i : Instr) (n : Nat) (q : OutputPort) (change : Bool) : Prop :=
  ∃ (w : Quad WarpUnit) (l : Quad LightUnit) (ns : List Notice),
    exec i s = .next
      { s with
        now := n
        outputs := s.outputs.set k q
        latches := if change then s.latches ||| BitVec.twoPow 45 (Cond.outputChange k) else s.latches
        warps := w
        lights := l
        notices := ns }
    ∧ (if change then s.queuesNotice ⟨Cond.outputChange k, some k, s.coh.channelShown.get k⟩ ns else ns = s.notices)
    ∧ ((s.outputs.get k).state ≠ .active → w = s.warps ∧ l = s.lights)
    ∧ ((s.outputs.get k).state = .active → q.state ≠ .active →
        (w.get k).walk = none ∧ (l.get k).form = .noLines ∧ (l.get k).held = [])
    ∧ ∀ j : Channel, j ≠ k → w.get j = s.warps.get j ∧ l.get j = s.lights.get j

theorem State.portMoves_of_exec {s : State} {k : Channel} {i : Instr} {n : Nat} {m : OutputPort × Bool} {q : OutputPort}
    {change : Bool} (h : exec i s = .next ((s.advanceTo n).movePort k m)) (hm : m = (q, change)) :
    s.portMoves k i (max s.now n) q change := by
  subst hm
  obtain ⟨ns, hm, hq⟩ := (s.advanceTo n).movePort_leaves k q change
  rw [hm] at h
  refine ⟨_, _, ns, h, hq, fun hna => ?_, fun ha hqa => ?_, fun j hj => ⟨Quad.get_set_other _ _ hj, Quad.get_set_other _ _ hj⟩⟩
  · obtain ⟨hw, hl⟩ := State.moved_of_inactive (s := s.advanceTo n) (m := (q, change)) hna
    rw [hw, hl]
    exact ⟨Quad.set_get _ _, Quad.set_get _ _⟩
  · rw [Quad.get_set_same, Quad.get_set_same]
    simp [State.movedWarp, State.movedLight, State.leavesActive, ha, hqa]

/-- A move at the present moment. -/
theorem State.portMoves_now {s : State} {k : Channel} {i : Instr} {m : OutputPort × Bool} {q : OutputPort} {change : Bool}
    (h : exec i s = .next (s.movePort k m)) (hm : m = (q, change)) : s.portMoves k i s.now q change := by
  have hmoves := State.portMoves_of_exec (n := s.now) (by rw [h, State.advanceTo_now_self]) hm
  rwa [Nat.max_self] at hmoves

theorem State.exec_statusReport {s : State} {k : Channel} (hk : s.hasChannel k = true) (locked : Bool) :
    exec (.statusReport k locked) s = .next (s.movePort k ((s.outputs.get k).report locked s.settings s.now)) := if_pos hk

theorem State.exec_reverseCarrierLost {s : State} {k : Channel} (hk : s.hasChannel k = true) :
    exec (.reverseCarrierLost k) s = .next (s.movePort k (s.outputs.get k).presenceLost) := if_pos hk

theorem State.exec_reportTimeout {s : State} {k : Channel} {r : Nat} (hk : s.hasChannel k = true)
    (hr : (s.outputs.get k).lastReport = some r) :
    exec (.reportTimeout k) s = .next ((s.advanceTo (r + 800000)).movePort k (s.outputs.get k).presenceLost) := by
  simp only [exec, execReportTimeout, State.hasOutput, hk, hr]
  rfl

theorem State.exec_settleExpiry {s : State} {k : Channel} {e : Nat} (hp : (s.outputs.get k).state = .settling)
    (he : (s.outputs.get k).expires = some e) : exec (.settleExpiry k) s =
      .next ((s.advanceTo e).movePort k ((s.outputs.get k).settleExpired s.settings (max s.now e))) := by
  simp only [exec, execSettleExpiry, hp, he]
  rfl

theorem State.exec_relockExpiry {s : State} {k : Channel} {e : Nat} (hp : (s.outputs.get k).state = .retrain)
    (he : (s.outputs.get k).expires = some e) : exec (.relockExpiry k) s =
      .next ((s.advanceTo e).movePort k (s.outputs.get k).relockExpired) := by
  simp only [exec, execRelockExpiry, hp, he]

/-- A countdown to relock that is not 0 is loaded and no condition raised (R131). -/
theorem OutputPort.enterRetrain_of_pos (p : OutputPort) (st : Settings) (now : Nat) (h : 0 < st.relockMs) :
    p.enterRetrain st now = ({ p with state := .retrain, expires := some (now + st.relockMs * 100000) }, false) :=
  if_neg h.ne'

/-! ### The port after an event (R129 to R131) -/

section
variable {p : OutputPort} {st : Settings}

theorem OutputPort.report_first (hs : p.state = .absent) (hl : p.lock = .none) (h : 0 < st.settleMs) (locked : Bool) (now : Nat) :
    p.report locked st now = ({ p with
      state := .settling, lock := if locked then .locked else .notLocked, expires := some (now + st.settleMs * 100000),
      lastReport := some now }, false) := by
  simp only [OutputPort.report, hs, hl, OutputPort.enterSettling_of_pos _ _ _ h]

theorem OutputPort.report_lost (hs : p.state = .active) (hl : p.lock = .locked) (h : 0 < st.relockMs) (now : Nat) :
    p.report false st now = ({ p with
      state := .retrain, lock := .notLocked, expires := some (now + st.relockMs * 100000), lastReport := some now }, false) := by
  simp only [OutputPort.report, hs, hl, OutputPort.enterRetrain_of_pos _ _ _ h]
  rfl

theorem OutputPort.report_regained (hs : p.state = .retrain) (hl : p.lock = .notLocked) (now : Nat) :
    p.report true st now = ({ p with state := .active, lock := .locked, expires := none, lastReport := some now }, false) := by
  simp only [OutputPort.report, hs, hl]
  rfl

theorem OutputPort.settleExpired_locked (hl : p.lock = .locked) (now : Nat) :
    p.settleExpired st now = ({ p with state := .active, expires := none }, true) :=
  if_neg (by rw [hl]; decide)

theorem OutputPort.settleExpired_notLocked (hl : p.lock = .notLocked) (h : 0 < st.relockMs) (now : Nat) :
    p.settleExpired st now = ({ p with state := .retrain, expires := some (now + st.relockMs * 100000) }, true) := by
  rw [OutputPort.settleExpired, if_pos hl, OutputPort.enterRetrain_of_pos _ _ _ h]

end

/-- Settles O54: each command moves the port as R129 to R132 give, and the move stops the channel or tells of it. -/
theorem outputPortTransitions : Obligations.OutputPortTransitions := by
  intro s k hk hsettle hrelock
  refine ⟨fun locked hs hl => ?first, fun hs hl => ?lost, fun hs hl => ?regained, fun e hs hl he => ?settled,
    fun e hs hl he => ?unlocked, fun e hs he => ?failed, ?carrier, fun r hr => ?timeout⟩
  case first =>
    exact State.portMoves_now (State.exec_statusReport hk locked) (OutputPort.report_first hs hl hsettle locked s.now)
  case lost =>
    exact State.portMoves_now (State.exec_statusReport hk false) (OutputPort.report_lost hs hl hrelock s.now)
  case regained =>
    exact State.portMoves_now (State.exec_statusReport hk true) (OutputPort.report_regained hs hl s.now)
  case settled =>
    exact State.portMoves_of_exec (State.exec_settleExpiry hs he) (OutputPort.settleExpired_locked hl _)
  case unlocked =>
    exact State.portMoves_of_exec (State.exec_settleExpiry hs he) (OutputPort.settleExpired_notLocked hl hrelock _)
  case failed => exact State.portMoves_of_exec (State.exec_relockExpiry hs he) rfl
  case carrier => exact State.portMoves_now (State.exec_reverseCarrierLost hk) rfl
  case timeout => exact State.portMoves_of_exec (State.exec_reportTimeout hk hr) rfl

end Sys2Proof.Machine
end

section
/-! SUPPORT. The deadlines of the lines and the muster point (R120 to R122) on a raster of an arrangement. -/

namespace Sys2Proof.Machine

/-- A line takes at least one period of REFCLK of the active time: seven periods cover eight times the height. -/
theorem RasterTimer.lines_fit {arr : Arrangement} {t : RasterTimer} (h : rasterLegal arr t.width t.height t.periodUs = true) :
    0 < t.height ∧ 8 * t.height ≤ 7 * t.period := by
  obtain ⟨-, ⟨⟨hlo, hhi⟩, -⟩, hp, -⟩ := rasterLegal_iff.1 h
  have hroom : 8 * arr.maxHeight ≤ 7 * (100 * arr.minPeriod) := by cases arr <;> decide
  rw [RasterTimer.period, Config.ticksPerUs]
  omega

/-- The deadlines rise where every line takes at least one period of REFCLK. -/
theorem RasterTimer.deadline_lt {t : RasterTimer} (hh : 0 < t.height) (hfit : 8 * t.height ≤ 7 * t.period) {v w : Nat}
    (hvw : v < w) : t.deadline v < t.deadline w := by
  have hd : 0 < 8 * t.height := by omega
  calc t.deadline v < t.deadline v + 1 := Nat.lt_succ_self _
    _ = (7 * t.period * (v + 1) + 8 * t.height) / (8 * t.height) := (Nat.add_div_right _ hd).symm
    _ ≤ (7 * t.period * (v + 1) + 7 * t.period) / (8 * t.height) := Nat.div_le_div_right (Nat.add_le_add_left hfit _)
    _ = 7 * t.period * (v + 1 + 1) / (8 * t.height) := by rw [← Nat.mul_succ]
    _ ≤ t.deadline w := Nat.div_le_div_right (Nat.mul_le_mul_left _ (Nat.succ_le_succ hvw))

/-- The last deadline is the frame end. -/
theorem RasterTimer.deadline_last {t : RasterTimer} (hh : 0 < t.height) : t.deadline (t.height - 1) = 7 * t.period / 8 := by
  rw [RasterTimer.deadline, Nat.sub_add_cancel hh, Nat.mul_div_mul_right _ _ hh]

/-- The muster line leaves 16 lines or more to the last, and lies in the lower half. -/
theorem musterLineOf_between {height : Nat} (h : 32 ≤ height) (offset : Nat) :
    musterLineOf height offset + 17 ≤ height ∧ height / 2 - 1 ≤ musterLineOf height offset := by
  have hc := within_iff.1 (clampNat_within (lo := 16) (hi := height / 2) (by omega) offset)
  rw [musterLineOf]
  omega

/-- Settles O59: a line's share of the active time is at least one period of REFCLK on every raster. -/
theorem deadlinesRise : Obligations.DeadlinesRise := by
  intro arr t h
  obtain ⟨hh, hfit⟩ := RasterTimer.lines_fit h
  obtain ⟨-, ⟨⟨hlo, -⟩, -⟩, -⟩ := rasterLegal_iff.1 h
  refine ⟨fun v w hvw _ => RasterTimer.deadline_lt hh hfit hvw, RasterTimer.deadline_last hh, ?_,
    musterLineOf_between (by omega)⟩
  rw [RasterTimer.deadline_last hh]
  omega

end Sys2Proof.Machine
end

section
/-! SUPPORT. SET and GET (R161): what a setting holds once a value is stored, what a change of the enables does to the notice
queue (R183), and what the two commands answer. -/

namespace Sys2Proof.Machine

/-! ### The value stored (R160, R125) -/

theorem clampNat_of_within {lo hi v : Nat} (h : within lo hi v = true) : clampNat lo hi v = v := by
  obtain ⟨hlo, hhi⟩ := within_iff.1 h
  simp only [clampNat]
  omega

/-- The nearer end of a range, where the value lies outside it. -/
theorem nearest_eq_clampNat {lo hi : Nat} (h : lo ≤ hi) (v : Nat) :
    (if v < lo then lo else if hi < v then hi else v) = clampNat lo hi v := by
  simp only [clampNat]
  split_ifs <;> omega

/-- The multiple below, taken away from a number or multiplied out. -/
theorem sub_mod_eq_div_mul (n m : Nat) : n - n % m = n / m * m := by
  rw [Nat.sub_eq_iff_eq_add (Nat.mod_le n m), Nat.div_add_mod' n m]

/-- A value that the setting admits is the value stored for it. -/
theorem SettingId.legal_of_admits {arr : Arrangement} {st : Settings} {id : SettingId} {v : Nat}
    (h : settingAdmits arr st id v = true) : id.legal arr st v = v := by
  cases id with
  | channelEnable | noticeEnable => exact Nat.mod_eq_of_lt (of_decide_eq_true h)
  | rasterWidth | rasterHeight =>
    simp only [settingAdmits, Bool.and_eq_true, beq_iff_eq] at h
    simp only [SettingId.legal, clampNat_of_within h.1, ← sub_mod_eq_div_mul, h.2, Nat.sub_zero]
  | framePeriodUs | musterOffset | ringLength | coherenceLimit | ringLossLimit | inputTimeout => exact clampNat_of_within h
  | damageLimit | settleMs | relockMs | lossConfirm | returnConfirm => exact clampNat_of_within h
  | inactivePolicy | dither => exact Nat.min_eq_left (Nat.le_of_lt_succ (of_decide_eq_true h))
  | outputMode | noticeLink => exact Nat.min_eq_left (Nat.le_of_lt_succ (of_decide_eq_true h))
  | flatLevel =>
    simp only [settingAdmits, Bool.and_eq_true, decide_eq_true_eq] at h
    simp only [SettingId.legal, flatCode]
    omega

/-- A setting holds the value stored in it. -/
theorem Settings.value_store_same {arr : Arrangement} {st : Settings} {id : SettingId} {v : Nat}
    (h : settingAdmits arr st id v = true) (k : Channel) : (st.store id k v).value id k = v := by
  cases id with
  | channelEnable | noticeEnable => exact Nat.mod_eq_of_lt (of_decide_eq_true h)
  | inactivePolicy | dither =>
    have hv : v < 2 := of_decide_eq_true h
    simp only [Settings.store, Settings.value, Quad.get_set_same]
    interval_cases v <;> rfl
  | outputMode =>
    have hv : v < 4 := of_decide_eq_true h
    simp only [Settings.store, Settings.value, Quad.get_set_same]
    interval_cases v <;> rfl
  | noticeLink =>
    have hv : v < 4 := of_decide_eq_true h
    simp only [Settings.store, Settings.value]
    interval_cases v <;> rfl
  | flatLevel =>
    simp only [settingAdmits, Bool.and_eq_true, decide_eq_true_eq] at h
    simp only [Settings.store, Settings.value, Quad.get_set_same, BitVec.toNat_ofNat]
    omega
  | _ => rfl

/-- Each setting has a place of its own. -/
theorem Settings.value_store_ne {id id' : SettingId} (h : id' ≠ id) (st : Settings) (k k' : Channel) (v : Nat) :
    (st.store id k v).value id' k' = st.value id' k' := by
  cases id <;> cases id' <;> solve | rfl | exact absurd rfl h

/-- A setting with a value per channel has a place of its own for each channel. -/
theorem Settings.value_store_channel {id : SettingId} (hp : id.perChannel = true) (st : Settings) {k k' : Channel} (hk : k' ≠ k)
    (v : Nat) : (st.store id k v).value id k' = st.value id k' := by
  cases id with
  | inactivePolicy | dither | outputMode | flatLevel => simp only [Settings.store, Settings.value, Quad.get_set_other _ _ hk]
  | _ => cases hp

/-! ### The enables and the notice queue (R183, R184) -/

theorem noticesRiseFrom_of_le {lo lo' : Nat} (hle : lo ≤ lo') {ns : List Notice} (h : noticesRiseFrom lo' ns = true) :
    noticesRiseFrom lo ns = true := by
  cases ns with
  | nil => rfl
  | cons n ns =>
    obtain ⟨hn, hns⟩ := noticesRiseFrom_cons.1 h
    exact noticesRiseFrom_cons.2 ⟨hle.trans hn, hns⟩

/-- Notices withdrawn leave the rest in order. -/
theorem noticesRiseFrom_filter {lo : Nat} {ns : List Notice} (h : noticesRiseFrom lo ns = true) (p : Notice → Bool) :
    noticesRiseFrom lo (ns.filter p) = true := by
  induction ns generalizing lo with
  | nil => rfl
  | cons n ns ih =>
    obtain ⟨hn, hns⟩ := noticesRiseFrom_cons.1 h
    rw [List.filter_cons]
    split
    · exact noticesRiseFrom_cons.2 ⟨hn, ih hns⟩
    · exact ih (noticesRiseFrom_of_le (Nat.le_succ_of_le hn) hns)

/-- A notice as it is fixed when it is queued (R184). -/
theorem State.eq_noticeOf_iff {s : State} {n : Notice} : n = s.noticeOf n.cond ↔ n.channel = Cond.channel n.cond
    ∧ n.frame = match n.channel with
      | none => s.coh.shown
      | some k => s.coh.channelShown.get k := by
  obtain ⟨c, k, f⟩ := n
  simp only [State.noticeOf, Notice.mk.injEq, true_and]
  exact and_congr_right fun hk => by subst hk; rfl

/-- The enables replaced, the notices that a removal withdraws gone and none queued yet. -/
def State.enablesReplaced (s : State) (new : BitVec 45) : State :=
  { s with settings := { s.settings with noticeEnable := new },
           notices := s.notices.filter fun n => new.getLsbD n.cond || !s.enabled n.cond }

/-- The pending conditions that the new enables grant. -/
def State.granted (s : State) (new : BitVec 45) (c : Cond) : Bool := new.getLsbD c && !s.enabled c && s.isPending c

theorem State.setEnables_eq (s : State) (new : BitVec 45) :
    s.setEnables new = (Cond.all.filter (s.granted new)).foldl State.queueNotice (s.enablesReplaced new) := by
  have hfold : ∀ (cs : List Cond) (ns : List Notice),
      cs.foldl (fun (t : State) (c : Cond) => if new.getLsbD c && !s.enabled c && t.isPending c then t.queueNotice c else t)
          { s.enablesReplaced new with notices := ns }
        = (cs.filter (s.granted new)).foldl State.queueNotice { s.enablesReplaced new with notices := ns } := by
    intro cs
    induction cs with
    | nil => exact fun _ => rfl
    | cons c cs ih =>
      intro ns
      have hg : (new.getLsbD c && !s.enabled c && ({ s.enablesReplaced new with notices := ns } : State).isPending c)
          = s.granted new c := rfl
      rw [List.foldl_cons, List.filter_cons, hg]
      split
      · rw [List.foldl_cons, State.queueNotice_eq]
        exact ih _
      · exact ih ns
  exact hfold _ (s.enablesReplaced new).notices

/-- A removal withdraws the notices of its conditions; a grant queues those of its pending conditions. -/
theorem State.setEnables_noticesFollow (s : State) (new : BitVec 45) : s.noticesFollow (s.setEnables new)
    (fun n => s.enabled n = true ∧ new.getLsbD n = false)
    (fun n => s.enabled n = false ∧ new.getLsbD n = true ∧ s.isPending n = true) := by
  intro hrise
  obtain ⟨ns, hns⟩ := s.setEnables_spec new
  have hcoh : (s.setEnables new).coh = (s.enablesReplaced new).coh := by
    rw [hns]
    rfl
  rw [hcoh, State.setEnables_eq]
  refine ⟨State.queueNotices_rises _ (noticesRiseFrom_filter hrise _), fun n => ?_⟩
  have hkept : ∀ m, m ∈ (s.enablesReplaced new).notices ↔
      m ∈ s.notices ∧ ¬(s.enabled m.cond = true ∧ new.getLsbD m.cond = false) := by
    intro m
    simp only [State.enablesReplaced, List.mem_filter]
    refine and_congr_right fun _ => ?_
    cases s.enabled m.cond <;> cases new.getLsbD m.cond <;> decide
  have hgranted : n.cond ∈ Cond.all.filter (s.granted new) ↔
      s.enabled n.cond = false ∧ new.getLsbD n.cond = true ∧ s.isPending n.cond = true := by
    simp [Cond.all, State.granted]
    tauto
  rw [State.mem_queueNotices, hkept, hgranted, State.eq_noticeOf_iff]
  refine or_congr_right (and_congr_right fun ⟨hoff, _⟩ => and_congr_left fun _ => ?_)
  constructor
  · exact fun h m hm he => h m ((hkept m).2 ⟨hm, by rw [he, hoff]; exact by simp⟩) he
  · exact fun h m hm => h m ((hkept m).1 hm).1

/-! ### The commands (R158, R161, R175) -/

theorem settingOf_code (id : SettingId) : settingOf id.code = some id := by
  cases id <;> rfl

theorem SettingId.code_lt (id : SettingId) : id.code < 256 := by
  cases id <;> decide

/-- A payload that begins with a setting and a channel names them, where the arrangement has the channel. -/
theorem State.namedSetting_of_payload (s : State) {payload b : Bytes} {id : SettingId} {k : Channel} {n : Nat}
    (hp : payload = oneByte id.code ++ oneByte k ++ b) (hn : n = b.length + 2) :
    s.namedSetting payload n = if id.perChannel && !s.hasChannel k then .error .unavailable else .ok (id, k) := by
  have hid : byteAt payload 0 = id.code := by
    rw [hp, List.append_assoc]
    exact byteAt_oneByte [] _ rfl id.code_lt
  have hk : byteAt payload 1 = k := by
    rw [hp]
    exact byteAt_oneByte _ _ (by simp) (by omega)
  have hlen : payload.length = n := by
    rw [hp, hn]
    simp
    omega
  have hchannel : channelOf k.val = some k := dif_pos k.isLt
  rw [State.namedSetting, if_neg (by simp [hlen]), hid, hk, settingOf_code, hchannel]

/-- A notice_enable stored withdraws and queues by the bits of its legal value. -/
theorem State.storeSetting_notices (s : State) (k : Channel) (v : Nat) :
    s.noticesFollow (s.storeSetting .noticeEnable k v)
      (fun n => s.enabled n = true ∧ (v % 2 ^ 45).testBit n = false)
      (fun n => s.enabled n = false ∧ (v % 2 ^ 45).testBit n = true ∧ s.isPending n = true) := by
  have hbit : ∀ n : Cond, (BitVec.ofNat 45 (v % 2 ^ 45)).getLsbD n = (v % 2 ^ 45).testBit n := by
    intro n
    rw [BitVec.getLsbD_ofNat, decide_eq_true n.isLt, Bool.true_and]
  have h := s.setEnables_noticesFollow (BitVec.ofNat 45 (v % 2 ^ 45))
  simp only [hbit] at h
  exact h

/-- A channel that the arrangement has, or a setting without a value per channel. -/
theorem State.namedSetting_there {s : State} {payload b : Bytes} {id : SettingId} {k : Channel} {n : Nat}
    (hp : payload = oneByte id.code ++ oneByte k ++ b) (hn : n = b.length + 2)
    (hk : id.perChannel = true → s.hasChannel k = true) : s.namedSetting payload n = .ok (id, k) := by
  rw [s.namedSetting_of_payload hp hn]
  refine if_neg fun h => ?_
  obtain ⟨hc, hno⟩ := (Bool.and_eq_true _ _).mp h
  simp [hk hc] at hno

/-- A channel that the arrangement lacks is refused UNAVAILABLE. -/
theorem State.namedSetting_lacking {s : State} {payload b : Bytes} {id : SettingId} {k : Channel} {n : Nat}
    (hp : payload = oneByte id.code ++ oneByte k ++ b) (hn : n = b.length + 2)
    (hk : ¬(id.perChannel = true → s.hasChannel k = true)) : s.namedSetting payload n = .error .unavailable := by
  obtain ⟨hc, hno⟩ := Classical.not_imp.1 hk
  rw [s.namedSetting_of_payload hp hn]
  exact if_pos (by simp [hc, hno])

/-- SET stores the value and answers with the legal one (R161). -/
theorem State.setCommand_answer {s : State} {c : Cell} {id : SettingId} {k : Channel} {v : Nat} (h : s.settingsSound = true)
    (hv : v < 2 ^ 64) (hp : c.payload = oneByte id.code ++ oneByte k ++ toLe 8 v)
    (hk : id.perChannel = true → s.hasChannel k = true) :
    s.setCommand c = ⟨s.storeSetting id k v, if id.legal s.straps.arrangement s.settings v = v then .ok else .clamped,
      oneByte id.code ++ oneByte k ++ toLe 8 (id.legal s.straps.arrangement s.settings v), false⟩ := by
  have hfield : field c.payload 2 8 = v := by
    rw [hp]
    exact (field_toLe_last _ v (by simp)).trans (Nat.mod_eq_of_lt hv)
  have hvalue : (s.storeSetting id k v).settings.value id k = id.legal s.straps.arrangement s.settings v := by
    obtain ⟨ns, hs, -⟩ := s.storeSetting_spec id k v
    rw [hs]
    exact Settings.value_store_same (settingAdmits_legal (s.settingsSound_iff.1 h).1 id v) k
  rw [State.setCommand, State.namedSetting_there hp (by simp) hk]
  simp only [hfield, State.settingReply, hvalue]

/-- GET answers with the value stored (R161). -/
theorem State.getCommand_answer {s : State} {c : Cell} {id : SettingId} {k : Channel}
    (hp : c.payload = oneByte id.code ++ oneByte k) (hk : id.perChannel = true → s.hasChannel k = true) :
    s.getCommand c = ⟨s, .ok, oneByte id.code ++ oneByte k ++ toLe 8 (s.settings.value id k), false⟩ := by
  rw [State.getCommand, State.namedSetting_there (n := 2) (hp.trans (List.append_nil _).symm) rfl hk]
  rfl

theorem State.setCommand_lacking {s : State} {c : Cell} {id : SettingId} {k : Channel} {v : Nat}
    (hp : c.payload = oneByte id.code ++ oneByte k ++ toLe 8 v) (hk : ¬(id.perChannel = true → s.hasChannel k = true)) :
    s.setCommand c = .refuse s .unavailable := by
  rw [State.setCommand, State.namedSetting_lacking hp (by simp) hk]

theorem State.getCommand_lacking {s : State} {c : Cell} {id : SettingId} {k : Channel}
    (hp : c.payload = oneByte id.code ++ oneByte k) (hk : ¬(id.perChannel = true → s.hasChannel k = true)) :
    s.getCommand c = .refuse s .unavailable := by
  rw [State.getCommand, State.namedSetting_lacking (n := 2) (hp.trans (List.append_nil _).symm) rfl hk]

/-- Settles O28: the value stored is the legal one, which is the value sent where the setting admits it; each setting has a
place of its own; the notices follow the enables. -/
theorem setStoresAndGetReturns : Obligations.SetStoresAndGetReturns := by
  intro s c rest id k v hserved hv hsound name arr nearest flat want there
  have hlegal := (s.settingsSound_iff.1 hsound).1
  have hwant : want = id.legal arr s.settings v := by
    obtain ⟨hw, hh, hp⟩ := raster_room arr
    cases id with
    | channelEnable | noticeEnable => rfl
    | rasterWidth => exact (sub_mod_eq_div_mul _ _).trans (congrArg (· / 16 * 16) (nearest_eq_clampNat hw v))
    | rasterHeight => exact (sub_mod_eq_div_mul _ _).trans (congrArg (· / 8 * 8) (nearest_eq_clampNat hh v))
    | framePeriodUs => exact nearest_eq_clampNat hp v
    | musterOffset =>
      obtain ⟨-, ⟨⟨hheight, -⟩, -⟩, -⟩ := rasterLegal_iff.1 hlegal.raster
      exact nearest_eq_clampNat (by omega) v
    | ringLength | coherenceLimit | ringLossLimit | inputTimeout => exact nearest_eq_clampNat (by decide) v
    | damageLimit | settleMs | relockMs | lossConfirm | returnConfirm => exact nearest_eq_clampNat (by decide) v
    | inactivePolicy | dither =>
      simp only [want, SettingId.legal]
      split <;> omega
    | outputMode | noticeLink => exact (Nat.min_def).symm
    | flatLevel =>
      simp only [want, flat, SettingId.legal, flatCode, Nat.min_def]
      norm_num
  clear_value want
  subst hwant
  refine ⟨fun hk hc hp => ?_, fun hk hc hp => ?_, fun hk => ⟨fun hc hp => ?_, fun hc hp => ?_⟩⟩
  · let u : State := { s with cells := rest }
    obtain ⟨ns, hs, hquiet⟩ := u.storeSetting_spec id k v
    have ha := State.setCommand_answer (s := u) hsound hv hp hk
    rw [hs] at ha
    refine ⟨s.settings.store id k (id.legal arr s.settings v), ns, congrArg Host.Outcome.next (State.serve_answered hserved hc ha),
      Settings.value_store_same (settingAdmits_legal hlegal id v) k, settingAdmits_legal hlegal id v,
      SettingId.legal_of_admits, fun id' k' hne => ?_, hquiet, ?_⟩
    · by_cases hid : id' = id
      · subst hid
        obtain ⟨hper, hk'⟩ := hne.resolve_left (not_not_intro rfl)
        exact Settings.value_store_channel hper _ hk' _
      · exact Settings.value_store_ne hid _ _ _ _
    · rintro rfl
      have hfollow := u.storeSetting_notices k v
      rw [hs] at hfollow
      exact hfollow
  · exact congrArg Host.Outcome.next (State.serve_replied hserved _ _ hc (State.getCommand_answer hp hk))
  · exact congrArg Host.Outcome.next (State.serve_refused hserved hc (State.setCommand_lacking hp hk))
  · exact congrArg Host.Outcome.next (State.serve_refused hserved hc (State.getCommand_lacking hp hk))

end Sys2Proof.Machine
end

section
/-! SUPPORT. STATUS group by group (R162, R179): where each group of the status record stands, and the fields of each. -/

namespace Sys2Proof.Machine

/-! ### Groups of a record -/

/-- A piece of a group, in the record that holds the group. -/
theorem slice_in_group {p g : Bytes} {a m o n : Nat} (hg : slice p a m = g) (h : o + n ≤ m) : slice p (a + o) n = slice g o n := by
  rw [← hg, slice_slice p h]

theorem field_in_group {p g : Bytes} {a m o n : Nat} (hg : slice p a m = g) (h : o + n ≤ m) : field p (a + o) n = field g o n :=
  congrArg leNat (slice_in_group hg h)

theorem byteAt_in_group {p g : Bytes} {a m o : Nat} (hg : slice p a m = g) (h : o < m) : byteAt p (a + o) = byteAt g o :=
  field_in_group hg h

/-- The share of a channel, where a group gives every channel the same room. -/
theorem slice_channel {p : Bytes} {f : Channel → Bytes} {a n : Nat} (hf : ∀ k, (f k).length = n)
    (hg : slice p a (4 * n) = channels.flatMap f) (k : Channel) : slice p (a + n * k) n = f k := by
  have hk : channels[k.val]? = some k := by
    revert k
    decide
  have hroom : n * k + n ≤ 4 * n := by
    rw [← Nat.mul_succ, Nat.mul_comm]
    exact Nat.mul_le_mul_right n k.isLt
  rw [slice_in_group hg hroom, Nat.mul_comm]
  exact slice_flatMap channels f hf hk

theorem field_of_slice {b : Bytes} {off n v : Nat} (h : slice b off n = toLe n v) : field b off n = v % 256 ^ n :=
  (congrArg leNat h).trans (leNat_toLe n v)

theorem byteAt_of_slice {b : Bytes} {off v : Nat} (h : slice b off 1 = oneByte v) : byteAt b off = v % 256 := field_of_slice h

/-- A 16-bit number in its two bytes. -/
theorem field_bitVec {b : Bytes} {off : Nat} {x : BitVec 16} (h : slice b off 2 = toLe 2 x.toNat) : field b off 2 = x.toNat :=
  (field_of_slice h).trans (Nat.mod_eq_of_lt x.isLt)

/-- A frame number or 0 in its two bytes. -/
theorem field_frame {b : Bytes} {off : Nat} {f : Option FrameNo} : slice b off 2 = frameField f →
    field b off 2 = match f with
      | some x => x.toNat
      | none => 0 := by
  cases f with
  | none => exact field_of_slice
  | some x => exact field_bitVec

/-- The byte of a channel, where a group gives every channel one. -/
theorem byteAt_channel {p : Bytes} {v : Channel → Nat} {a : Nat} (hg : slice p a 4 = channels.flatMap fun k => oneByte (v k))
    (k : Channel) : byteAt p (a + k) = v k % 256 := by
  have h := slice_channel (n := 1) (f := fun k => oneByte (v k)) (fun _ => rfl) hg k
  rw [Nat.one_mul] at h
  exact byteAt_of_slice h

/-! ### Marks -/

theorem flag_mod (b : Bool) : flag b % 256 = if b then 1 else 0 := by
  cases b <;> rfl

theorem flag_lt (b : Bool) : flag b < 2 := by
  cases b <;> decide

theorem marks_lt (f : Channel → Bool) : marks f < 16 := by
  have h0 := flag_lt (f 0)
  have h1 := flag_lt (f 1)
  have h2 := flag_lt (f 2)
  have h3 := flag_lt (f 3)
  unfold marks
  omega

/-- Bit k of four marks is the mark of channel k. -/
theorem marks_testBit (f : Channel → Bool) (k : Channel) : (marks f).testBit k = f k := by
  have hbits : ∀ (b : Quad Bool) (k : Channel), (marks b.get).testBit k = b.get k := by
    rintro ⟨a, b, c, d⟩
    revert a b c d
    decide
  have h := hbits (Quad.of f) k
  rwa [Quad.get_of, show (Quad.of f).get = f from funext (Quad.get_of f)] at h

/-- Four marks in a byte of their own. -/
theorem byteAt_marks {b : Bytes} {off : Nat} {f : Channel → Bool} (h : slice b off 1 = oneByte (marks f)) :
    byteAt b off < 16 ∧ ∀ k : Channel, (byteAt b off).testBit k = f k := by
  have hlt := marks_lt f
  rw [byteAt_of_slice h, Nat.mod_eq_of_lt (by omega)]
  exact ⟨hlt, marks_testBit f⟩

/-! ### The groups (R179) -/

@[simp] theorem State.slotStatus_length (s : State) (k : Channel) : (s.slotStatus k).length = 14 := rfl

@[simp] theorem State.outputStatus_length (s : State) (k : Channel) : (s.outputStatus k).length = 4 := rfl

/-- The slot group of a channel: four bytes for each slot, then the quiet count and whether the input is active. -/
theorem State.slotStatus_fields (s : State) (k : Channel) :
    (∀ i : SlotNo, let x := (s.rings.get k).slots.get i
      slice (s.slotStatus k) (4 * i) 2 = [x.state.code, if x.reserved then 1 else 0]
      ∧ field (s.slotStatus k) (4 * i + 2) 2 = x.frame.toNat)
    ∧ byteAt (s.slotStatus k) 12 = (s.rings.get k).quiet % 256
    ∧ byteAt (s.slotStatus k) 13 = (if s.active k then 1 else 0) := by
  have hslot : ∀ i : SlotNo, let x := (s.rings.get k).slots.get i
      slice (s.slotStatus k) (4 * i) 2 = [x.state.code] ++ oneByte (flag x.reserved)
      ∧ slice (s.slotStatus k) (4 * i + 2) 2 = toLe 2 x.frame.toNat := by
    intro i
    fin_cases i <;> exact ⟨rfl, rfl⟩
  refine ⟨fun i => ?_, byteAt_of_slice rfl, (byteAt_of_slice rfl).trans (flag_mod _)⟩
  obtain ⟨hmarks, hframe⟩ := hslot i
  refine ⟨hmarks.trans ?_, field_bitVec hframe⟩
  cases ((s.rings.get k).slots.get i).reserved <;> rfl

/-- The flags of the coherence group (R179). -/
def Coherence.flagByte (c : Coherence) : Nat :=
  flag c.ringLost + 2 * flag c.syncLost + 4 * flag c.shown.isSome + 8 * marks fun k => (c.channelShown.get k).isSome

/-- Three flags in the low bits of a byte. -/
theorem threeFlags_bits : ∀ a b c : Bool, let m := flag a + 2 * flag b + 4 * flag c
    m < 2 ^ 3 ∧ m.testBit 0 = a ∧ m.testBit 1 = b ∧ m.testBit 2 = c := by
  decide

/-- Three marks of the part, then one of each channel. -/
theorem flagByte_bits (a b c : Bool) (f : Channel → Bool) : let m := flag a + 2 * flag b + 4 * flag c + 8 * marks f
    m < 128 ∧ m.testBit 0 = a ∧ m.testBit 1 = b ∧ m.testBit 2 = c ∧ ∀ k : Channel, m.testBit (3 + k) = f k := by
  obtain ⟨hlt, h0, h1, h2⟩ := threeFlags_bits a b c
  have hmarks := marks_lt f
  intro m
  have hm : m = 2 ^ 3 * marks f + (flag a + 2 * flag b + 4 * flag c) := Nat.add_comm _ _
  have hbit : ∀ j, m.testBit j = if j < 3 then (flag a + 2 * flag b + 4 * flag c).testBit j else (marks f).testBit (j - 3) := by
    intro j
    rw [hm, Nat.testBit_two_pow_mul_add _ hlt]
  refine ⟨by omega, (hbit 0).trans h0, (hbit 1).trans h1, (hbit 2).trans h2, fun k => ?_⟩
  rw [hbit, if_neg (by omega), Nat.add_sub_cancel_left, marks_testBit]

/-- The coherence group: the modes, the flags, the frame numbers shown, and the counts that the role holds. -/
theorem State.cohStatus_fields (s : State) :
    slice s.cohStatus 0 2 = [roleCode s.straps.role, s.coh.mode.code] ∧ byteAt s.cohStatus 2 = s.coh.flagByte
    ∧ slice s.cohStatus 3 2 = frameField s.coh.shown
    ∧ slice s.cohStatus 5 8 = channels.flatMap (fun k => frameField (s.coh.channelShown.get k))
    ∧ byteAt s.cohStatus 13 = (if s.straps.role = .follower then 0 else s.coh.repeatCount % 256)
    ∧ byteAt s.cohStatus 14 = (if s.straps.role = .master then s.coh.seq.toNat else 0)
    ∧ byteAt s.cohStatus 15 = (if s.straps.role = .follower then s.coh.missCount % 256 else 0)
    ∧ byteAt s.cohStatus 16 = (if s.straps.role = .follower then s.coh.ownStarts % 256 else 0) := by
  have hflags : s.coh.flagByte < 256 := (flagByte_bits _ _ _ _).1.trans (by decide)
  have hseq : s.coh.seq.toNat % 256 = s.coh.seq.toNat := Nat.mod_eq_of_lt s.coh.seq.isLt
  refine ⟨rfl, (byteAt_of_slice rfl).trans (Nat.mod_eq_of_lt hflags), rfl, rfl, (byteAt_of_slice rfl).trans ?_,
    (byteAt_of_slice rfl).trans ?_, (byteAt_of_slice rfl).trans ?_, (byteAt_of_slice rfl).trans ?_⟩
  · split <;> rfl
  · split
    · exact hseq
    · rfl
  · split <;> rfl
  · split <;> rfl

/-- The output port group of a port: its state, its lock, and the milliseconds left, FFFFh for none. -/
theorem State.outputStatus_fields (s : State) (k : Channel) :
    slice (s.outputStatus k) 0 2 = [(s.outputs.get k).state.code, (s.outputs.get k).lock.code]
    ∧ field (s.outputStatus k) 2 2 = match (s.outputs.get k).expires with
      | some e => ((e - s.now + 99999) / 100000) % 65536
      | none => 65535 := by
  refine ⟨rfl, (field_of_slice rfl).trans ?_⟩
  rw [OutputPort.remainingMs]
  cases (s.outputs.get k).expires <;> rfl

/-- The loss selector group. -/
theorem State.lossStatus_fields (s : State) :
    slice s.lossStatus 0 1 = oneByte (marks s.loss.confirmed.get) ∧ field s.lossStatus 1 4 = s.loss.applied.toNat
    ∧ slice s.lossStatus 5 4 = channels.flatMap (fun k => oneByte (s.loss.chosen.get k))
    ∧ slice s.lossStatus 9 4 = channels.flatMap (fun k => oneByte (s.loss.selected.get k))
    ∧ slice s.lossStatus 13 1 = oneByte (marks s.loss.setMissing.get) :=
  ⟨rfl, (field_of_slice rfl).trans (Nat.mod_eq_of_lt s.loss.applied.isLt), rfl, rfl, rfl⟩

/-- The management group. -/
theorem State.managementStatus_fields (s : State) :
    byteAt s.managementStatus 0 = s.cells.length % 256
    ∧ slice s.managementStatus 1 4 = channels.flatMap (fun k => oneByte (s.lanes.get k).replies.length)
    ∧ byteAt s.managementStatus 5 = s.faults.length % 256
    ∧ byteAt s.managementStatus 6 = (if s.overflow then 1 else 0)
    ∧ slice s.managementStatus 7 1 = oneByte (marks s.summary) :=
  ⟨byteAt_of_slice rfl, rfl, byteAt_of_slice rfl, (byteAt_of_slice rfl).trans (flag_mod _), rfl⟩

/-- The pending swap's part of the record: all zero and no key where none is pending. -/
theorem swapBytes_group (sw : Option PendingSwap) (h : (keysOf sw).length ≤ 25) :
    (sw = none → byteAt (swapBytes sw) 0 = 0 ∧ field (swapBytes sw) 1 2 = 0 ∧ byteAt (swapBytes sw) 3 = 0)
    ∧ (∀ w, sw = some w → byteAt (swapBytes sw) 0 = flag true + 2 * flag w.target.isSome + 4 * flag w.deferred
        ∧ field (swapBytes sw) 1 2 = (match w.target with | some f => f.toNat | none => 0)
        ∧ byteAt (swapBytes sw) 3 = w.keys.length)
    ∧ (∀ i key, (keysOf sw)[i]? = some key → slice (swapBytes sw) (4 + 3 * i) 3 = key.bytes)
    ∧ ∀ i, 3 * (keysOf sw).length ≤ i → i < 75 → byteAt (swapBytes sw) (4 + i) = 255 := by
  cases sw with
  | none =>
    refine ⟨fun _ => by decide, fun w hw => (nomatch hw), fun i key hi => (nomatch hi), fun i _ hi => ?_⟩
    revert i
    decide
  | some w =>
    obtain ⟨hflags, htarget, hcount, hkeys, hrest⟩ := swapBytes_fields (w := w) h
    refine ⟨fun hn => (nomatch hn), fun w' hw => ?_, hkeys, hrest⟩
    cases hw
    refine ⟨hflags.trans ?_, (field_bitVec htarget).trans ?_, hcount⟩
    · cases w.target.isSome <;> cases w.deferred <;> rfl
    · cases w.target <;> rfl

/-- The pending swap in the record that holds its part. -/
theorem swap_in_record {p : Bytes} {a : Nat} {sw : Option PendingSwap} (hg : slice p a 79 = swapBytes sw)
    (h : (keysOf sw).length ≤ 25) : (sw = none → byteAt p a = 0 ∧ field p (a + 1) 2 = 0 ∧ byteAt p (a + 3) = 0)
    ∧ (∀ w, sw = some w → (byteAt p a).testBit 0 = true ∧ (byteAt p a).testBit 1 = w.target.isSome
        ∧ (byteAt p a).testBit 2 = w.deferred ∧ byteAt p a < 8
        ∧ field p (a + 1) 2 = (match w.target with | some f => f.toNat | none => 0) ∧ byteAt p (a + 3) = w.keys.length)
    ∧ (∀ i key, (keysOf sw)[i]? = some key → slice p (a + 4 + 3 * i) 3 = key.bytes)
    ∧ ∀ b, a + 4 + 3 * (keysOf sw).length ≤ b → b < a + 79 → byteAt p b = 255 := by
  obtain ⟨hnone, hsome, hkey, hrest⟩ := swapBytes_group sw h
  have hflags : byteAt p a = byteAt (swapBytes sw) 0 := byteAt_in_group (o := 0) hg (by decide)
  have htarget : field p (a + 1) 2 = field (swapBytes sw) 1 2 := field_in_group hg (by decide)
  have hcount : byteAt p (a + 3) = byteAt (swapBytes sw) 3 := byteAt_in_group hg (by decide)
  rw [hflags, htarget, hcount]
  refine ⟨hnone, fun w hw => ?_, fun i key hi => ?_, fun b hlo hhi => ?_⟩
  · obtain ⟨h0, h1, h3⟩ := hsome w hw
    obtain ⟨hlt, hpending, hnamed, hdeferred⟩ := threeFlags_bits true w.target.isSome w.deferred
    rw [h0]
    exact ⟨hpending, hnamed, hdeferred, hlt, h1, h3⟩
  · have hlt := (List.getElem?_eq_some_iff.1 hi).1
    rw [Nat.add_assoc]
    exact (slice_in_group hg (by omega)).trans (hkey i key hi)
  · rw [show b = a + (4 + (b - a - 4)) by omega]
    exact (byteAt_in_group hg (by omega)).trans (hrest _ (by omega) (by omega))

/-! ### The record -/

/-- The groups of the status record. -/
def State.statusGroups (s : State) : List Bytes :=
  [channels.flatMap s.portStatus, channels.flatMap s.slotStatus, s.cohStatus, channels.flatMap s.outputStatus, s.lossStatus,
    s.tables.fillingKey, swapBytes s.tables.swap, oneByte (marks s.tables.unfit.get), [s.loader.code], s.managementStatus]

theorem State.statusRecord_eq (s : State) : s.statusRecord = s.statusGroups.flatten := by
  simp [State.statusRecord, State.statusGroups]

/-- Each group in its place. -/
theorem State.statusRecord_groups (s : State) (h : (keysOf s.tables.swap).length ≤ 25) : let p := s.statusRecord
    p.length = 207 ∧ slice p 0 12 = channels.flatMap s.portStatus ∧ slice p 12 56 = channels.flatMap s.slotStatus
    ∧ slice p 68 17 = s.cohStatus ∧ slice p 85 16 = channels.flatMap s.outputStatus ∧ slice p 101 14 = s.lossStatus
    ∧ slice p 115 3 = s.tables.fillingKey ∧ slice p 118 79 = swapBytes s.tables.swap
    ∧ slice p 197 1 = oneByte (marks s.tables.unfit.get) ∧ slice p 198 1 = [s.loader.code]
    ∧ slice p 199 8 = s.managementStatus := by
  have hfilling := s.tables.fillingKey_length
  have hswap := swapBytes_length h
  have hport : (channels.flatMap s.portStatus).length = 12 := rfl
  have hslot : (channels.flatMap s.slotStatus).length = 56 := rfl
  have hcoh : s.cohStatus.length = 17 := rfl
  have houtput : (channels.flatMap s.outputStatus).length = 16 := rfl
  have hloss : s.lossStatus.length = 14 := rfl
  have hmanagement : s.managementStatus.length = 8 := rfl
  intro p
  have hp : p = s.statusGroups.flatten := s.statusRecord_eq
  have hgroup : ∀ (i : Nat) {x : Bytes} {off n : Nat}, s.statusGroups[i]? = some x →
      off = ((s.statusGroups.take i).map List.length).sum → n = x.length → slice p off n = x := fun i _ _ _ hi ho hn => by
    rw [hp]
    exact slice_part _ i hi ho hn
  have hsum : s.statusGroups.map List.length = [12, 56, 17, 16, 14, 3, 79, 1, 1, 8] := by
    simp only [State.statusGroups, List.map_cons, List.map_nil, hport, hslot, hcoh, houtput, hloss, hfilling, hswap, hmanagement]
    rfl
  simp only [List.map_take, hsum] at hgroup
  refine ⟨?_, hgroup 0 rfl rfl rfl, hgroup 1 rfl rfl rfl, hgroup 2 rfl rfl rfl, hgroup 3 rfl rfl rfl, hgroup 4 rfl rfl rfl,
    hgroup 5 rfl rfl hfilling.symm, hgroup 6 rfl rfl hswap.symm, hgroup 7 rfl rfl rfl, hgroup 8 rfl rfl rfl, hgroup 9 rfl rfl rfl⟩
  rw [hp, List.length_flatten, hsum]
  rfl

theorem TableStore.fillingKey_eq (t : TableStore) : t.fillingKey = match t.fill with
    | none => [0xFF, 0xFF, 0xFF]
    | some f => match Assoc.find t.directory f.record with
      | some r => r.key.bytes
      | none => [0xFF, 0xFF, 0xFF] := by
  unfold TableStore.fillingKey
  cases t.fill <;> rfl

/-- STATUS without a payload answers with the status record and changes nothing. -/
theorem State.statusCommand_answer {c : Cell} (h : c.payload = []) (s : State) :
    s.statusCommand c = ⟨s, .ok, s.statusRecord, false⟩ := by
  rw [State.statusCommand, h]
  rfl

/-- Settles O27: the record is its groups in their places, and each group its fields. -/
theorem statusReplyLayout : Obligations.StatusReplyLayout := by
  intro s c rest hserved hcarries hpayload hkeys follower
  rw [s.swapKeys_eq] at hkeys ⊢
  let u : State := { s with cells := rest }
  refine ⟨u.statusRecord,
    congrArg Host.Outcome.next (State.serve_replied hserved _ _ hcarries (u.statusCommand_answer hpayload)), ?_⟩
  obtain ⟨hlength, hports, hslots, hcoh, houtputs, hloss, hfilling, hswap, hunfit, hloader, hmanagement⟩ :=
    u.statusRecord_groups hkeys
  generalize u.statusRecord = p at *
  obtain ⟨hroles, hflags, hshown, hchannels, hrepeat, hseq, hmiss, hown⟩ := u.cohStatus_fields
  obtain ⟨hconfirmed, happlied, hchosen, hselected, hmissing⟩ := u.lossStatus_fields
  obtain ⟨hcells, hreplies, hfaults, hoverflow, hsummary⟩ := u.managementStatus_fields
  obtain ⟨hnone, hsome, hkey, hrest⟩ := swap_in_record hswap hkeys
  obtain ⟨hflagsLt, hringLost, hsyncLost, hshownFlag, hchannelFlag⟩ :=
    flagByte_bits u.coh.ringLost u.coh.syncLost u.coh.shown.isSome fun k => (u.coh.channelShown.get k).isSome
  have hflagByte : byteAt p 70 = u.coh.flagByte := (byteAt_in_group (o := 2) hcoh (by decide)).trans hflags
  obtain ⟨hconfirmedLt, hconfirmedBit⟩ := byteAt_marks ((slice_in_group (o := 0) hloss (by decide)).trans hconfirmed)
  obtain ⟨hmissingLt, hmissingBit⟩ := byteAt_marks ((slice_in_group (o := 13) hloss (by decide)).trans hmissing)
  obtain ⟨hunfitLt, hunfitBit⟩ := byteAt_marks hunfit
  obtain ⟨hsummaryLt, hsummaryBit⟩ := byteAt_marks ((slice_in_group (o := 7) hmanagement (by decide)).trans hsummary)
  refine ⟨hlength, fun k => ?_, ?_⟩
  · have hslot := slice_channel (a := 12) (State.slotStatus_length u) hslots k
    have houtput := slice_channel (a := 85) (State.outputStatus_length u) houtputs k
    obtain ⟨hslotFields, hquiet, hactive⟩ := u.slotStatus_fields k
    obtain ⟨hstate, hexpires⟩ := u.outputStatus_fields k
    have hshownAt := slice_channel (a := 73) (n := 2) (f := fun k => frameField (u.coh.channelShown.get k)) (fun _ => rfl)
      ((slice_in_group (o := 5) hcoh (by decide)).trans hchannels) k
    have hchosenAt := byteAt_channel (a := 106) ((slice_in_group (o := 5) hloss (by decide)).trans hchosen) k
    have hselectedAt := byteAt_channel (a := 110) ((slice_in_group (o := 9) hloss (by decide)).trans hselected) k
    have hrepliesAt := byteAt_channel (a := 200) ((slice_in_group (o := 1) hmanagement (by decide)).trans hreplies) k
    have hportAt := slice_channel (a := 0) (n := 3) (f := u.portStatus) (fun _ => rfl) hports k
    rw [Nat.zero_add] at hportAt
    refine ⟨hportAt, fun i => ?_, (byteAt_in_group hslot (by decide)).trans hquiet,
      (byteAt_in_group hslot (by decide)).trans hactive,
      (by rw [hflagByte]; exact hchannelFlag k), field_frame hshownAt, (slice_in_group (o := 0) houtput (by decide)).trans hstate,
      (field_in_group houtput (by decide)).trans hexpires, hconfirmedBit k,
      hchosenAt.trans (Nat.mod_eq_of_lt (by omega)),
      hselectedAt.trans (Nat.mod_eq_of_lt (by omega)), hmissingBit k, hunfitBit k, hrepliesAt,
      hsummaryBit k⟩
    obtain ⟨hmarks, hframe⟩ := hslotFields i
    refine ⟨(slice_in_group hslot (by omega)).trans hmarks, ?_⟩
    rw [Nat.add_assoc]
    exact (field_in_group hslot (by omega)).trans hframe
  · rw [hflagByte]
    exact ⟨(slice_in_group (o := 0) hcoh (by decide)).trans hroles, hringLost, hsyncLost, hshownFlag, hflagsLt,
      field_frame ((slice_in_group (o := 3) hcoh (by decide)).trans hshown),
      (byteAt_in_group (o := 13) hcoh (by decide)).trans hrepeat, (byteAt_in_group (o := 14) hcoh (by decide)).trans hseq,
      (byteAt_in_group (o := 15) hcoh (by decide)).trans hmiss, (byteAt_in_group (o := 16) hcoh (by decide)).trans hown,
      hconfirmedLt, (field_in_group (o := 1) hloss (by decide)).trans happlied, hmissingLt,
      hfilling.trans u.tables.fillingKey_eq, hnone, hsome, hkey, hrest, hunfitLt, congrArg leNat hloader,
      (byteAt_in_group (o := 0) hmanagement (by decide)).trans hcells,
      (byteAt_in_group (o := 5) hmanagement (by decide)).trans hfaults,
      (byteAt_in_group (o := 6) hmanagement (by decide)).trans hoverflow, hsummaryLt⟩

end Sys2Proof.Machine
end

section
/-! SUPPORT. The choice of a blend set (R145, R146): which rules match, the search for the first of them, and the set it
gives. -/

namespace Sys2Proof.Machine

/-! ### The rules that match -/

theorem maskMatches_iff {mask vector : Vec32} : maskMatches mask vector = true ↔ mask ≠ 0 ∧ mask &&& vector = 0 := by
  rw [maskMatches, Bool.and_eq_true, bne_iff_ne, beq_iff_eq]

theorem maskMatches_eq_false_iff {mask vector : Vec32} :
    maskMatches mask vector = false ↔ mask = 0 ∨ mask &&& vector ≠ 0 := by
  rw [← Bool.not_eq_true, maskMatches_iff, not_and_or, not_ne_iff]

/-! ### The first rule that matches -/

/-- The search for a rule is the library's search of the rules in order. -/
theorem firstMatch_eq_find? (m : TableRecord) (v : Vec32) (n i : Nat) :
    firstMatch m v n i = (List.range' i n).find? fun j => maskMatches (m.read j).ruleMask v := by
  induction n generalizing i with
  | zero => rfl
  | succ n ih =>
    rw [firstMatch, List.range'_succ, List.find?_cons, ih]
    cases maskMatches (m.read i).ruleMask v <;> rfl

theorem firstMatch_eq_some_iff {m : TableRecord} {v : Vec32} {n i : Nat} :
    firstMatch m v n 0 = some i ↔ i < n ∧ maskMatches (m.read i).ruleMask v = true
      ∧ ∀ j < i, maskMatches (m.read j).ruleMask v = false := by
  rw [firstMatch_eq_find?, ← List.range_eq_range', List.find?_range_eq_some]
  simp only [List.mem_range, Bool.not_eq_true']
  exact and_left_comm

theorem firstMatch_eq_none_iff {m : TableRecord} {v : Vec32} {n : Nat} :
    firstMatch m v n 0 = none ↔ ∀ j < n, maskMatches (m.read j).ruleMask v = false := by
  rw [firstMatch_eq_find?, ← List.range_eq_range', List.find?_range_eq_none]
  simp only [Bool.not_eq_true']

/-! ### The set chosen -/

@[simp] theorem chooseSet_allOnes (m : Option TableRecord) (k : Channel) : chooseSet m (BitVec.allOnes 32) k = 0 := if_pos rfl

@[simp] theorem chooseSet_none (v : Vec32) (k : Channel) : chooseSet none v k = 0 := ite_self 0

section
variable {m : TableRecord} {v : Vec32} (hv : v ≠ BitVec.allOnes 32)
include hv

theorem chooseSet_of_firstMatch_eq_some {i : Nat} (h : firstMatch m v 16 0 = some i) (k : Channel) :
    chooseSet (some m) v k = (m.read i).ruleSet k := by
  simp only [chooseSet, if_neg hv, h]

theorem chooseSet_of_firstMatch_eq_none (h : firstMatch m v 16 0 = none) (k : Channel) : chooseSet (some m) v k = 0 := by
  simp only [chooseSet, if_neg hv, h]

end

/-- Settles O60: the search ends at the rule that the statement names, or at none. -/
theorem firstMatchingRuleChooses : Obligations.FirstMatchingRuleChooses := by
  intro m v k hv
  refine ⟨fun i hi hmask habsent hbefore => ?_, fun hnone => ?_, chooseSet_allOnes _ k, chooseSet_none v k⟩
  · have hfirst : firstMatch m v 16 0 = some i :=
      firstMatch_eq_some_iff.2 ⟨hi, maskMatches_iff.2 ⟨hmask, habsent⟩,
        fun j hj => maskMatches_eq_false_iff.2 (hbefore j hj)⟩
    exact chooseSet_of_firstMatch_eq_some hv hfirst k
  · have hnoMatch : firstMatch m v 16 0 = none :=
      firstMatch_eq_none_iff.2 fun j hj => maskMatches_eq_false_iff.2 (hnone j hj)
    exact chooseSet_of_firstMatch_eq_none hv hnoMatch k

end Sys2Proof.Machine
end

section
/-! SUPPORT. The cell queue, the reply queues and the fault log (R153, R155, R188): the operations that leave the queues alone
and record faults within the capacity of the log. -/

namespace Sys2Proof.Machine

/-- From `s` to `t` no cell and no reply comes or goes, and a fault log within its 8 records stays within them. -/
structure QueuesKept (s t : State) : Prop where
  cells : t.cells = s.cells
  lanes : t.lanes = s.lanes
  log : s.faults.length ≤ 8 → t.faults.length ≤ 8

theorem QueuesKept.of_eq {s t : State} (hc : t.cells = s.cells) (hl : t.lanes = s.lanes) (hf : t.faults = s.faults) :
    QueuesKept s t := ⟨hc, hl, fun h => hf ▸ h⟩

theorem QueuesKept.refl (s : State) : QueuesKept s s := .of_eq rfl rfl rfl

theorem QueuesKept.trans {s t u : State} (h : QueuesKept s t) (g : QueuesKept t u) : QueuesKept s u :=
  ⟨g.cells.trans h.cells, g.lanes.trans h.lanes, fun hs => g.log (h.log hs)⟩

/-- What a state keeps, a state keeps that differs from it in other fields. -/
theorem QueuesKept.after {s t u : State} (h : QueuesKept t u) (hc : t.cells = s.cells) (hl : t.lanes = s.lanes)
    (hf : t.faults = s.faults) : QueuesKept s u := (QueuesKept.of_eq hc hl hf).trans h

theorem QueuesKept.foldl {α : Type} {f : State → α → State} (hf : ∀ s a, QueuesKept s (f s a)) (xs : List α) (s : State) :
    QueuesKept s (xs.foldl f s) := by
  induction xs generalizing s with
  | nil => exact .refl s
  | cons x xs ih => exact (hf s x).trans (ih _)

/-! ### Conditions, faults, storage and settings -/

theorem State.raise_queuesKept (s : State) (c : Cond) : QueuesKept s (s.raise c) := by
  obtain ⟨ns, h⟩ := s.raise_spec c
  rw [h]
  exact .of_eq rfl rfl rfl

theorem State.raiseAll_queuesKept (s : State) (cs : List Cond) : QueuesKept s (s.raiseAll cs) :=
  .foldl State.raise_queuesKept cs s

theorem State.levelNotices_queuesKept (s before : State) : QueuesKept s (s.levelNotices before) := by
  obtain ⟨ns, h⟩ := s.levelNotices_spec before
  rw [h]
  exact .of_eq rfl rfl rfl

/-- A fault joins the log while it holds fewer than 8 records. -/
theorem State.recordFault_queuesKept (s : State) (f : FaultRecord) : QueuesKept s (s.recordFault f) := by
  obtain ⟨fs, o, l, ns, h⟩ := s.recordFault_spec f
  exact ⟨by rw [h], by rw [h], s.recordFault_bounded f⟩

theorem State.recordFaults_queuesKept (s : State) (fs : List FaultRecord) : QueuesKept s (s.recordFaults fs) :=
  .foldl State.recordFault_queuesKept fs s

theorem State.upsets_queuesKept (s : State) (us : List Upset) : QueuesKept s (s.upsets us) := by
  obtain ⟨dir, w, h⟩ := s.upsets_spec us
  rw [h]
  exact .of_eq rfl rfl rfl

theorem State.storeSetting_queuesKept (s : State) (id : SettingId) (k : Channel) (v : Nat) :
    QueuesKept s (s.storeSetting id k v) := by
  obtain ⟨ns, h, -⟩ := s.storeSetting_spec id k v
  rw [h]
  exact .of_eq rfl rfl rfl

theorem State.runStore_queuesKept (s : State) (n : Nat) : QueuesKept s (s.runStore n) :=
  (State.recordFaults_queuesKept { s with flash := runJobs s.storeJobs n s.flash } _).after rfl rfl rfl

theorem State.movePort_queuesKept (s : State) (k : Channel) (m : OutputPort × Bool) : QueuesKept s (s.movePort k m) := by
  obtain ⟨w, l, b, ns, h⟩ := s.movePort_spec k m
  rw [h]
  exact .of_eq rfl rfl rfl

theorem State.portEvent_queuesKept {s t : State} {k : Channel} (h : s.portEvent k t) : QueuesKept s t := by
  rcases h with rfl | ⟨n, m, rfl, -⟩
  · exact .refl _
  · exact (State.movePort_queuesKept _ k m).after rfl rfl rfl

theorem State.pipelineReset_queuesKept (s : State) : QueuesKept s s.pipelineReset := by
  rw [State.pipelineReset_eq]
  exact (State.levelNotices_queuesKept _ s).after rfl rfl rfl

theorem State.take_queuesKept (s : State) (k : Channel) (r : Received) : QueuesKept s (s.take k r) :=
  (State.raiseAll_queuesKept ((s.setInput k r.port).setRing k r.ring) _).after rfl rfl rfl

theorem State.closeMasterRound_queuesKept (s : State) (r : Round) (ready : Bool) (v : Vec32) :
    QueuesKept s (s.closeMasterRound r ready v) := by
  obtain ⟨x, h, -⟩ := s.closeMasterRound_spec r ready v
  rw [h]
  exact .of_eq rfl rfl rfl

theorem State.deadlineOf_queuesKept (s : State) (v : Nat) : QueuesKept s (s.deadlineOf v) := by
  obtain ⟨p, w, u, b, ns, c, r, m, n, h, -⟩ := s.deadlineOf_eq v
  rw [h]
  exact .of_eq rfl rfl rfl

/-! ### Work on a pixel (R9 to R21) -/

theorem State.setWarp_queuesKept (s : State) (k : Channel) (w : WarpUnit) : QueuesKept s (s.setWarp k w) := .of_eq rfl rfl rfl

theorem State.handPixel_queuesKept (s : State) (k : Channel) (walk : Walk) (how : Handed) :
    QueuesKept s (s.handPixel k walk how) := .of_eq rfl rfl rfl

theorem State.lookUp_queuesKept (s : State) (k : Channel) (ts : List Tag) : QueuesKept s (s.lookUp k ts).1 := by
  unfold State.lookUp
  split
  · exact .refl s
  · exact (s.setWarp_queuesKept k _).trans (State.recordFaults_queuesKept _ _)

theorem State.allocateAnew_queuesKept (s : State) (k : Channel) (ts : List Tag) : QueuesKept s (s.allocateAnew k ts).1 := by
  unfold State.allocateAnew
  repeat' split
  · exact .refl s
  · exact (s.setWarp_queuesKept k _).trans (State.lookUp_queuesKept _ k _)
  · exact .refl s

theorem State.refetch_queuesKept (k : Channel) (s : State) (t : Tag) : QueuesKept s (s.refetch k t) :=
  (s.setWarp_queuesKept k _).trans (State.recordFault_queuesKept _ _)

theorem State.readTiles_queuesKept (s : State) (k : Channel) (walk : Walk) (slot : SlotNo) (x : Slot) (p : WaitingPixel) :
    QueuesKept s (s.readTiles k walk slot x p) := by
  unfold State.readTiles State.samplePixel
  dsimp only
  repeat' split
  · exact (s.recordFaults_queuesKept _).trans (State.handPixel_queuesKept _ k walk _)
  · exact .refl s
  · exact (QueuesKept.foldl (State.refetch_queuesKept k) _ s).trans (State.setWarp_queuesKept _ k _)

theorem State.settlePixel_queuesKept (s : State) (k : Channel) (walk : Walk) (slot : SlotNo) (x : Slot) (p : WaitingPixel)
    (todo : List Tag) : QueuesKept s (s.settlePixel k walk slot x p todo) := by
  unfold State.settlePixel
  dsimp only
  repeat' split
  · exact s.setWarp_queuesKept k _
  · exact s.setWarp_queuesKept k _
  · exact s.readTiles_queuesKept k walk slot x p
  · exact (s.lookUp_queuesKept k _).trans (State.setWarp_queuesKept _ k _)

theorem State.seekPixel_queuesKept {s : State} {k : Channel} {look : List Tag → State × List Tag}
    (h : ∀ ts, QueuesKept s (look ts).1) (walk : Walk) (p : WaitingPixel) : QueuesKept s (s.seekPixel k walk p look) := by
  unfold State.seekPixel
  dsimp only
  repeat' split
  · exact s.setWarp_queuesKept k _
  · exact s.handPixel_queuesKept k walk _
  · exact (h _).trans (State.settlePixel_queuesKept _ k walk _ _ p _)

theorem State.resumePixel_queuesKept (s : State) (k : Channel) : QueuesKept s (s.resumePixel k) := by
  unfold State.resumePixel
  repeat' split
  · exact .refl s
  · exact .refl s
  · exact State.seekPixel_queuesKept (fun _ => s.allocateAnew_queuesKept k _) _ _
  · exact .refl s

theorem State.placePixel_queuesKept (s : State) (k : Channel) (walk : Walk) (m : TableRecord) (x : Slot) :
    QueuesKept s (s.placePixel k walk m x) := by
  have hseek : ∀ (t : State) (p : WaitingPixel), QueuesKept t (t.seekPixel k walk p (t.lookUp k)) :=
    fun t p => State.seekPixel_queuesKept (t.lookUp_queuesKept k) walk p
  unfold State.placePixel
  dsimp only
  split
  · exact ((s.setWarp_queuesKept k _).trans (State.raise_queuesKept _ _)).trans (hseek _ _)
  · exact hseek _ _

theorem State.newPixel_queuesKept (s : State) (k : Channel) (walk : Walk) (m : TableRecord) (params : FrameParameters) :
    QueuesKept s (s.newPixel k walk m params) := by
  unfold State.newPixel
  dsimp only
  refine (s.recordFaults_queuesKept (m.parityFaults (s.shownFrame k) (m.cornerReads walk.col walk.line))).trans ?_
  repeat' split
  · exact State.handPixel_queuesKept _ k walk _
  · exact State.handPixel_queuesKept _ k walk _
  · exact .refl _
  · exact State.placePixel_queuesKept _ k walk m _

theorem State.warpPixel_queuesKept (s : State) (k : Channel) (walk : Walk) : QueuesKept s (s.warpPixel k walk) := by
  unfold State.warpPixel
  repeat' split
  · exact .refl s
  · exact s.newPixel_queuesKept k walk _ _
  · exact .refl s
  · exact .refl s

/-! ### A frame start, block by block (R111, R149) -/

theorem State.showFrame_queuesKept (s : State) : QueuesKept s s.showFrame := by
  unfold State.showFrame
  dsimp only
  have hdecided : QueuesKept s ((s.setCoh s.cohAtFrameStart).decideSlots s.coh.outcome).recordShown := .of_eq rfl rfl rfl
  exact (hdecided.trans (State.recordFaults_queuesKept _ _)).trans (State.raiseAll_queuesKept _ _)

theorem State.tablesAtFrameStart_queuesKept (s : State) : QueuesKept s s.tablesAtFrameStart := by
  obtain ⟨dir, sw, l, ns, h⟩ := s.tablesAtFrameStart_spec
  rw [h]
  exact .of_eq rfl rfl rfl

theorem State.rasterChange_queuesKept (s : State) : QueuesKept s s.rasterChange := by
  obtain ⟨p, w, u, l, ns, h⟩ := s.rasterChange_spec
  rw [h]
  exact .of_eq rfl rfl rfl

theorem State.applyVector_queuesKept (s : State) (v : Option Vec32) : QueuesKept s (s.applyVector v) := by
  unfold State.applyVector
  dsimp only
  split
  · exact .of_eq rfl rfl rfl
  · exact (State.raise_queuesKept _ _).after rfl rfl rfl

theorem State.chooseSets_queuesKept (s : State) : QueuesKept s s.chooseSets := by
  unfold State.chooseSets
  dsimp only
  repeat' split
  · exact .of_eq rfl rfl rfl
  · exact .of_eq rfl rfl rfl
  · exact (State.recordFaults_queuesKept _ _).after rfl rfl rfl

theorem State.lossAtFrameStart_queuesKept (s : State) (up : Quad Bool) (v : Option Vec32) :
    QueuesKept s (s.lossAtFrameStart up v) := by
  have hfilter : QueuesKept s (s.filterOutputs up) := .of_eq rfl rfl rfl
  have hselect : ∀ t : State, QueuesKept t t.selectSets := fun _ => .of_eq rfl rfl rfl
  exact ((hfilter.trans (State.applyVector_queuesKept _ v)).trans (State.chooseSets_queuesKept _)).trans (hselect _)

theorem State.channelStart_queuesKept (s : State) (k : Channel) : QueuesKept s (s.channelStart k) := by
  unfold State.channelStart
  split
  · exact (State.recordFaults_queuesKept _ _).after rfl rfl rfl
  · exact .refl s

theorem State.beginFrame_queuesKept (s : State) (own : Bool) : QueuesKept s (s.beginFrame own) := by
  obtain ⟨p, h⟩ := s.beginFrame_spec own
  rw [h]
  exact .of_eq rfl rfl rfl

theorem State.frameStart_queuesKept (s : State) (own : Bool) : QueuesKept s (s.frameStart own) := by
  have hmodes : ∀ t : State, QueuesKept t t.takeModes := fun _ => .of_eq rfl rfl rfl
  have hfit : ∀ t : State, QueuesKept t t.fitTest := fun _ => .of_eq rfl rfl rfl
  unfold State.frameStart
  dsimp only
  refine .trans ?_ (State.beginFrame_queuesKept _ own)
  refine .trans ?_ (QueuesKept.foldl State.channelStart_queuesKept channels _)
  refine .trans ?_ (hfit _)
  refine .trans ?_ (State.lossAtFrameStart_queuesKept _ _ _)
  refine .trans ?_ (hmodes _)
  refine .trans ?_ (State.rasterChange_queuesKept _)
  exact s.showFrame_queuesKept.trans (State.tablesAtFrameStart_queuesKept _)

theorem State.frameEvent_queuesKept {s t : State} (h : s.frameEvent t) : QueuesKept s t := by
  rcases h with rfl | ⟨n, rfl⟩ | ⟨n, own, rfl⟩
  · exact .refl _
  · exact ((State.frameStart_queuesKept _ false).trans (State.levelNotices_queuesKept _ _)).after rfl rfl rfl
  · exact ((State.frameStart_queuesKept _ own).trans (State.levelNotices_queuesKept _ _)).after rfl rfl rfl

end Sys2Proof.Machine
end

section
/-! SUPPORT. The rows by which the engine serves a cell (R154, R155): what each row carries out, and that no command of the
engine touches the queues. -/

namespace Sys2Proof.Machine

/-! ### The engine's commands -/

theorem State.identifyCommand_queuesKept (c : Cell) (s : State) : QueuesKept s (s.identifyCommand c).state := by
  unfold State.identifyCommand
  split <;> exact .refl s

theorem State.statusCommand_queuesKept (c : Cell) (s : State) : QueuesKept s (s.statusCommand c).state := by
  unfold State.statusCommand
  split <;> exact .refl s

theorem State.setCommand_queuesKept (c : Cell) (s : State) : QueuesKept s (s.setCommand c).state := by
  rcases s.setCommand_cases c with he | ⟨id, k, v, he⟩
  · rw [he]
    exact .refl s
  · rw [he]
    exact s.storeSetting_queuesKept id k v

theorem State.getCommand_queuesKept (c : Cell) (s : State) : QueuesKept s (s.getCommand c).state := by
  unfold State.getCommand
  split <;> exact .refl s

theorem State.clearCommand_queuesKept (c : Cell) (s : State) : QueuesKept s (s.clearCommand c).state := by
  unfold State.clearCommand
  split <;> exact .of_eq rfl rfl rfl

/-- FAULT READ takes a record out of the log. -/
theorem State.faultReadCommand_queuesKept (c : Cell) (s : State) : QueuesKept s (s.faultReadCommand c).state := by
  unfold State.faultReadCommand
  split
  · exact .refl s
  split
  · exact .refl s
  · rename_i f rest hlog
    refine ⟨rfl, rfl, fun h => ?_⟩
    rw [hlog] at h
    exact (Nat.le_succ rest.length).trans h

theorem State.restartCommand_queuesKept (c : Cell) (s : State) : QueuesKept s (s.restartCommand c).state := by
  rcases s.restartCommand_cases c with he | ⟨k, m, he, -⟩
  · rw [he]
    exact .refl s
  · rw [he]
    exact s.movePort_queuesKept k m

theorem State.resetFullCommand_queuesKept (c : Cell) (s : State) : QueuesKept s (s.resetFullCommand c).state := by
  unfold State.resetFullCommand
  split <;> exact .of_eq rfl rfl rfl

theorem State.resetPipelineCommand_queuesKept (c : Cell) (s : State) : QueuesKept s (s.resetPipelineCommand c).state := by
  rcases s.resetPipelineCommand_cases c with he | he
  · rw [he]
    exact .refl s
  · rw [he]
    exact s.pipelineReset_queuesKept

theorem State.openCommand_queuesKept (c : Cell) (s : State) : QueuesKept s (s.openCommand c).state := by
  unfold State.openCommand
  dsimp only
  repeat' split
  all_goals exact .of_eq rfl rfl rfl

theorem State.writeCommand_queuesKept (c : Cell) (s : State) : QueuesKept s (s.writeCommand c).state := by
  unfold State.writeCommand
  dsimp only
  repeat' split
  all_goals exact .of_eq rfl rfl rfl

theorem State.readCommand_queuesKept (c : Cell) (s : State) : QueuesKept s (s.readCommand c).state := by
  unfold State.readCommand
  dsimp only
  repeat' split
  case h_2.isFalse => exact s.recordFaults_queuesKept _
  all_goals exact .refl s

theorem State.sealCommand_queuesKept (c : Cell) (s : State) : QueuesKept s (s.sealCommand c).state := by
  unfold State.sealCommand
  repeat' split
  all_goals exact .of_eq rfl rfl rfl

theorem State.dropCommand_queuesKept (c : Cell) (s : State) : QueuesKept s (s.dropCommand c).state := by
  unfold State.dropCommand State.dropStaged State.dropLive
  repeat' split
  all_goals exact .of_eq rfl rfl rfl

theorem State.swapCommand_queuesKept (c : Cell) (s : State) : QueuesKept s (s.swapCommand c).state := by
  unfold State.swapCommand
  dsimp only
  repeat' split
  all_goals exact .of_eq rfl rfl rfl

theorem State.listCommand_queuesKept (c : Cell) (s : State) : QueuesKept s (s.listCommand c).state := by
  unfold State.listCommand
  dsimp only
  repeat' split
  all_goals exact .of_eq rfl rfl rfl

theorem State.storeCommand_queuesKept (c : Cell) (s : State) : QueuesKept s (s.storeCommand c).state := by
  unfold State.storeCommand
  repeat' split
  all_goals exact .of_eq rfl rfl rfl

theorem State.loadCommand_queuesKept (c : Cell) (s : State) : QueuesKept s (s.loadCommand c).state := by
  unfold State.loadCommand
  dsimp only
  split
  · exact .refl s
  split
  · exact .refl s
  split
  · exact .refl s
  split
  · exact s.recordFault_queuesKept _
  split
  · exact (State.recordFault_queuesKept _ _).after rfl rfl rfl
  repeat' split
  all_goals exact .of_eq rfl rfl rfl

end Sys2Proof.Machine

/-! ### The rows -/

namespace Sys2Proof

open Machine

/-- The rows by which the engine serves the oldest cell. -/
def Instr.serves : Instr → Bool
  | .identify | .status | .set | .get | .clear | .faultRead | .restartOutput => true
  | .resetFull | .resetPipeline | .badCommand => true
  | .tableOpen | .tableWrite | .tableRead _ | .tableSeal | .tableDropStaged | .tableDropLive | .tableSwap | .tableList => true
  | .store | .load => true
  | _ => false

theorem Instr.serves_of_servesCell {i : Instr} {c : Cell} (h : servesCell i c = true) : i.serves = true := by
  cases i with
  | identify | status | set | get | clear | faultRead | restartOutput | resetFull | resetPipeline | badCommand => rfl
  | tableOpen | tableWrite | tableRead | tableSeal | tableDropStaged | tableDropLive | tableSwap | tableList => rfl
  | store | load => rfl
  | _ => cases h

/-- A serving row spoils the storage that it names and serves the oldest cell with a command that leaves the queues alone. -/
theorem exec_serves {i : Instr} (hi : i.serves = true) : ∃ command : Cell → State → Answer,
    (∀ s, exec i s = .next ((s.upsets (upsetsOf i)).serve (servesCell i) command))
      ∧ ∀ c s, QueuesKept s (command c s).state := by
  cases i with
  | identify => exact ⟨_, fun _ => rfl, State.identifyCommand_queuesKept⟩
  | status => exact ⟨_, fun _ => rfl, State.statusCommand_queuesKept⟩
  | set => exact ⟨_, fun _ => rfl, State.setCommand_queuesKept⟩
  | get => exact ⟨_, fun _ => rfl, State.getCommand_queuesKept⟩
  | clear => exact ⟨_, fun _ => rfl, State.clearCommand_queuesKept⟩
  | faultRead => exact ⟨_, fun _ => rfl, State.faultReadCommand_queuesKept⟩
  | restartOutput => exact ⟨_, fun _ => rfl, State.restartCommand_queuesKept⟩
  | resetFull => exact ⟨_, fun _ => rfl, State.resetFullCommand_queuesKept⟩
  | resetPipeline => exact ⟨_, fun _ => rfl, State.resetPipelineCommand_queuesKept⟩
  | badCommand => exact ⟨_, fun _ => rfl, fun _ => QueuesKept.refl⟩
  | tableOpen => exact ⟨_, fun _ => rfl, State.openCommand_queuesKept⟩
  | tableWrite => exact ⟨_, fun _ => rfl, State.writeCommand_queuesKept⟩
  | tableRead us => exact ⟨_, fun _ => rfl, State.readCommand_queuesKept⟩
  | tableSeal => exact ⟨_, fun _ => rfl, State.sealCommand_queuesKept⟩
  | tableDropStaged => exact ⟨_, fun _ => rfl, State.dropCommand_queuesKept⟩
  | tableDropLive => exact ⟨_, fun _ => rfl, State.dropCommand_queuesKept⟩
  | tableSwap => exact ⟨_, fun _ => rfl, State.swapCommand_queuesKept⟩
  | tableList => exact ⟨_, fun _ => rfl, State.listCommand_queuesKept⟩
  | store => exact ⟨_, fun _ => rfl, State.storeCommand_queuesKept⟩
  | load => exact ⟨_, fun _ => rfl, State.loadCommand_queuesKept⟩
  | _ => cases hi

end Sys2Proof
end

section
/-! PROOF. A waiting completion takes a free entry of its link's reply queue, or is discarded on a DOWN link (R155). -/

namespace Sys2Proof.Machine

/-- The state with the completion as the last entry of its link's reply queue. -/
def State.placeCompletion (s : State) (d : Completion) : State :=
  s.setLane d.link ((s.lanes.get d.link).place (.completion d.tag d.status))

/-- A completion on a DOWN link is freed and discarded, one that finds room is freed and placed, and any other waits on. -/
theorem State.enqueueCompletion_eq (s : State) (d : Completion) : s.enqueueCompletion d =
    if (s.inputs.get d.link).link = .down then (s, true)
    else if (s.lanes.get d.link).replies.length < 16 then (s.placeCompletion d, true)
    else (s, false) := by
  simp only [State.enqueueCompletion, ReverseLane.hasRoom, decide_eq_true_eq]
  rfl

theorem execCompletionEnqueue_fill {s : State} {n : Nat} {d : Completion} (hn : s.tables.fillDue[n]? = some d) :
    execCompletionEnqueue (.fill n) s = .next (
      let others : TableStore := { s.tables with fillDue := s.tables.fillDue.eraseIdx n }
      if (s.inputs.get d.link).link = .down then s.setTables others
      else if (s.lanes.get d.link).replies.length < 16 then (s.placeCompletion d).setTables others
      else s) := by
  unfold execCompletionEnqueue
  dsimp only
  rw [hn]
  dsimp only
  rw [s.enqueueCompletion_eq d]
  split
  · rfl
  · split <;> rfl

theorem execCompletionEnqueue_image {s : State} {d : Completion} (hdue : s.loader.due = some d) :
    execCompletionEnqueue .image s = .next (
      let free : ImageLoader := { s.loader with due := none }
      if (s.inputs.get d.link).link = .down then s.setLoader free
      else if (s.lanes.get d.link).replies.length < 16 then (s.placeCompletion d).setLoader free
      else s) := by
  unfold execCompletionEnqueue
  dsimp only
  rw [hdue]
  dsimp only
  rw [s.enqueueCompletion_eq d]
  split
  · rfl
  · split <;> rfl

/-- Settles O39, by the two places where a completion waits: the list of ended fills and the image loader's record. -/
theorem completionTakesFreeEntry : Obligations.CompletionTakesFreeEntry := by
  intro s d l down placed
  refine ⟨fun n hn => ?_, fun hdue => execCompletionEnqueue_image hdue⟩
  rw [← List.eraseIdx_eq_take_drop_succ]
  exact execCompletionEnqueue_fill hn

end Sys2Proof.Machine
end

section
/-! SUPPORT. Every command keeps the cell queue, the reply queues and the fault log within their capacities (R153, R155,
R188). -/

namespace Sys2Proof.Machine

/-! ### The capacities -/

theorem State.queuesBounded_iff (s : State) : s.queuesBounded = true ↔
    s.cells.length ≤ 32 ∧ (∀ k, (s.lanes.get k).replies.length ≤ 16) ∧ s.faults.length ≤ 8 := by
  simp only [State.queuesBounded, Bool.and_eq_true, channels_all, decide_eq_true_eq, and_assoc]
  rfl

theorem QueuesKept.bounded {s t : State} (h : QueuesKept s t) (hs : s.queuesBounded = true) : t.queuesBounded = true := by
  obtain ⟨hcells, hlanes, hlog⟩ := s.queuesBounded_iff.1 hs
  rw [State.queuesBounded_iff, h.cells, h.lanes]
  exact ⟨hcells, hlanes, h.log hlog⟩

theorem State.setLane_queuesBounded {s : State} (h : s.queuesBounded = true) (k : Channel) {l : ReverseLane}
    (hl : l.replies.length ≤ 16) : (s.setLane k l).queuesBounded = true := by
  obtain ⟨hcells, hlanes, hlog⟩ := s.queuesBounded_iff.1 h
  refine (State.queuesBounded_iff _).2 ⟨hcells, fun j => ?_, hlog⟩
  rw [State.setLane_lanes, Quad.get_set]
  split
  · exact hl
  · exact hlanes j

/-- An entry placed where the reply queue has room. -/
theorem State.place_queuesBounded {s : State} (h : s.queuesBounded = true) {k : Channel}
    (hroom : (s.lanes.get k).replies.length < 16) (e : QueueEntry) :
    (s.setLane k ((s.lanes.get k).place e)).queuesBounded = true :=
  State.setLane_queuesBounded h k (by simp [ReverseLane.place]; omega)

/-! ### The commands on the queues -/

/-- Serving a cell takes it out of the queue, and its reply finds room or is discarded. -/
theorem State.serve_queuesBounded {s : State} {command : Cell → State → Answer} (hc : ∀ c t, QueuesKept t (command c t).state)
    (mine : Cell → Bool) (h : s.queuesBounded = true) : (s.serve mine command).queuesBounded = true := by
  rcases s.serve_cases mine command with he | ⟨c, rest, -, hcells, -, hroom, he⟩
  · rwa [he]
  · have hkept := hc c { s with cells := rest }
    have hrest : ({ s with cells := rest } : State).queuesBounded = true := by
      rw [State.queuesBounded_iff, hcells] at h
      exact (State.queuesBounded_iff _).2 ⟨(Nat.le_succ rest.length).trans h.1, h.2⟩
    rw [he, State.reply]
    split
    · exact hkept.bounded hrest
    · rename_i hdiscard
      refine State.place_queuesBounded (hkept.bounded hrest) ?_ _
      rw [hkept.lanes]
      exact hroom.resolve_left hdiscard

theorem execCell_queuesBounded (k : Channel) (record : Bytes) {s : State} (h : s.queuesBounded = true) :
    Leaves (execCell k record s) (·.queuesBounded = true) := by
  unfold execCell State.takeCell
  repeat' split
  · exact leaves_next.2 ((s.raise_queuesKept _).bounded h)
  · rename_i hroom
    obtain ⟨-, hlanes, hlog⟩ := s.queuesBounded_iff.1 h
    exact leaves_next.2 ((State.queuesBounded_iff _).2 ⟨(List.length_append ..).le.trans hroom, hlanes, hlog⟩)
  · exact leaves_next.2 ((s.raise_queuesKept _).bounded h)
  · exact leaves_next.2 h

/-- The loss of a link empties its reply queue and leaves every cell its place. -/
theorem State.loseReplies_queuesBounded {s : State} (h : s.queuesBounded = true) (k : Channel) :
    (s.loseReplies k).queuesBounded = true := by
  obtain ⟨hcells, hlanes, hlog⟩ := s.queuesBounded_iff.1 h
  refine (State.queuesBounded_iff _).2 ⟨?_, fun j => ?_, hlog⟩
  · rw [State.loseReplies, List.length_map]
    exact hcells
  · rw [State.loseReplies, Quad.get_set]
    split
    · exact Nat.zero_le 16
    · exact hlanes j

theorem State.loseLink_queuesBounded {s : State} (h : s.queuesBounded = true) (k : Channel) :
    (s.loseLink k).queuesBounded = true :=
  (State.levelNotices_queuesKept _ s).bounded (State.loseReplies_queuesBounded ((s.take_queuesKept k _).bounded h) k)

theorem execInputLinkLost_queuesBounded (k : Channel) {s : State} (h : s.queuesBounded = true) :
    Leaves (execInputLinkLost k s) (·.queuesBounded = true) := by
  unfold execInputLinkLost
  split
  · exact leaves_next.2 h
  · exact leaves_next.2 (State.loseLink_queuesBounded h k)
  · exact leaves_next.2 (State.loseLink_queuesBounded h k)

theorem execCompletionEnqueue_queuesBounded (op : OpRecord) {s : State} (h : s.queuesBounded = true) :
    Leaves (execCompletionEnqueue op s) (·.queuesBounded = true) := by
  cases op with
  | fill n =>
    cases hn : s.tables.fillDue[n]? with
    | none =>
      simp only [execCompletionEnqueue, hn]
      exact leaves_next.2 h
    | some d =>
      rw [execCompletionEnqueue_fill hn, leaves_next]
      dsimp only
      split_ifs with hdown hroom
      · exact (QueuesKept.of_eq rfl rfl rfl).bounded h
      · exact (QueuesKept.of_eq rfl rfl rfl).bounded (State.place_queuesBounded h hroom _)
      · exact h
  | image =>
    cases hdue : s.loader.due with
    | none =>
      simp only [execCompletionEnqueue, hdue]
      exact leaves_next.2 h
    | some d =>
      rw [execCompletionEnqueue_image hdue, leaves_next]
      dsimp only
      split_ifs with hdown hroom
      · exact (QueuesKept.of_eq rfl rfl rfl).bounded h
      · exact (QueuesKept.of_eq rfl rfl rfl).bounded (State.place_queuesBounded h hroom _)
      · exact h

/-- A message begun leaves its reply queue as it is, or takes the oldest entry out of it. -/
theorem State.beginSending_queuesBounded {s : State} (h : s.queuesBounded = true) (k : Channel) :
    (s.beginSending k).queuesBounded = true := by
  have hlane := (s.queuesBounded_iff.1 h).2.1 k
  unfold State.beginSending
  dsimp only
  split
  · exact State.setLane_queuesBounded ((QueuesKept.of_eq rfl rfl rfl).bounded h) k hlane
  · rename_i e rest hreplies _
    rw [hreplies] at hlane
    exact State.setLane_queuesBounded h k ((Nat.le_succ rest.length).trans hlane)
  · exact h

theorem execReverseLaneSend_queuesBounded (k : Channel) {s : State} (h : s.queuesBounded = true) :
    Leaves (execReverseLaneSend k s) (·.queuesBounded = true) := by
  unfold execReverseLaneSend
  split
  · exact leaves_next.2 (State.beginSending_queuesBounded h k)
  · exact leaves_next.2 h

theorem execReverseSendEnd_queuesBounded (k : Channel) {s : State} (h : s.queuesBounded = true) :
    Leaves (execReverseSendEnd k s) (·.queuesBounded = true) := by
  unfold execReverseSendEnd
  dsimp only
  split
  · exact leaves_next.2 h
  · exact leaves_next.2 (State.setLane_queuesBounded ((QueuesKept.of_eq rfl rfl rfl).bounded h) k ((s.queuesBounded_iff.1 h).2.1 k))

/-! ### Resets (R164, R192) -/

/-- A reset empties the queues; the log that it keeps or empties is within its capacity. -/
theorem State.resetValues_queuesBounded (s : State) (straps : StrapRecord) {fs : List FaultRecord} (hfs : fs.length ≤ 8)
    (o : Bool) : (s.resetValues straps fs o).firstFrame.queuesBounded = true := by
  refine (State.frameEvent_queuesKept (State.firstFrame_frameEvent _)).bounded
    ((State.queuesBounded_iff _).2 ⟨Nat.zero_le 32, fun k => ?_, hfs⟩)
  rw [State.resetValues, Quad.get_of]
  exact Nat.zero_le 16

theorem execResetFullEffect_queuesBounded (done : Nat) {s : State} (h : s.queuesBounded = true) :
    Leaves (execResetFullEffect done s) (·.queuesBounded = true) := by
  have hrun := (State.queuesBounded_iff _).1 ((s.runStore_queuesKept done).bounded h)
  unfold execResetFullEffect
  repeat' split
  · exact leaves_next.2 (State.resetValues_queuesBounded _ _ hrun.2.2 _)
  · exact leaves_next.2 h
  · exact leaves_next.2 h

/-! ### The commands that leave the queues alone -/

theorem execStartupHeaderReadDone_queuesKept (s : State) : Leaves (execStartupHeaderReadDone s) (QueuesKept s) := by
  unfold execStartupHeaderReadDone
  repeat' split
  all_goals exact leaves_next.2 (.of_eq rfl rfl rfl)

theorem execImageCheckReadDone_queuesKept (s : State) : Leaves (execImageCheckReadDone s) (QueuesKept s) := by
  unfold execImageCheckReadDone
  repeat' split
  · refine leaves_next.2 (State.applySettings_keeps (P := QueuesKept s) (fun t id k v ht => ?_) (.of_eq rfl rfl rfl))
    exact ht.trans (t.storeSetting_queuesKept id k v)
  · exact leaves_next.2 ((State.recordFault_queuesKept _ _).after rfl rfl rfl)
  · exact leaves_next.2 (.refl s)

theorem execStartupLoadDone_queuesKept (s : State) : Leaves (execStartupLoadDone s) (QueuesKept s) := by
  unfold execStartupLoadDone
  split
  · obtain ⟨he, -⟩ := s.applyTables_frame
    rw [leaves_next, he]
    exact .of_eq rfl rfl rfl
  · exact leaves_next.2 (.refl s)

theorem execInputCarrierDetected_queuesKept (k : Channel) (s : State) : Leaves (execInputCarrierDetected k s) (QueuesKept s) := by
  unfold execInputCarrierDetected
  split <;> exact leaves_next.2 (.of_eq rfl rfl rfl)

theorem execInputTrainingDone_queuesKept (k : Channel) (s : State) : Leaves (execInputTrainingDone k s) (QueuesKept s) := by
  unfold execInputTrainingDone
  split <;> exact leaves_next.2 (.of_eq rfl rfl rfl)

theorem execFrameOpen_queuesKept (k : Channel) (record : Bytes) (s : State) : Leaves (execFrameOpen k record s) (QueuesKept s) := by
  unfold execFrameOpen
  split
  · exact leaves_next.2 ((s.take_queuesKept k _).trans (.of_eq rfl rfl rfl))
  · exact leaves_next.2 (.refl s)

theorem execLine_queuesKept (k : Channel) (record : Bytes) (s : State) : Leaves (execLine k record s) (QueuesKept s) := by
  unfold execLine
  split <;> exact leaves_next.2 (.of_eq rfl rfl rfl)

theorem execFrameClose_queuesKept (k : Channel) (record : Bytes) (s : State) :
    Leaves (execFrameClose k record s) (QueuesKept s) := by
  unfold execFrameClose
  split
  · exact leaves_next.2 (s.take_queuesKept k _)
  · exact leaves_next.2 (.refl s)

theorem execDefaultFillPageDone_queuesKept (s : State) : Leaves (execDefaultFillPageDone s) (QueuesKept s) := by
  unfold execDefaultFillPageDone State.fillPageDone
  repeat' split
  all_goals exact leaves_next.2 (.of_eq rfl rfl rfl)

theorem execStorePhaseDone_queuesKept (us : List Upset) (s : State) : Leaves (execStorePhaseDone us s) (QueuesKept s) := by
  have hrun : ∀ (n : Nat) (x : ImageLoader), QueuesKept s (((s.upsets us).runStore n).setLoader x) := fun n x =>
    ((s.upsets_queuesKept us).trans (State.runStore_queuesKept _ n)).trans (.of_eq rfl rfl rfl)
  unfold execStorePhaseDone
  dsimp only
  repeat' split
  · exact leaves_next.2 (hrun _ _)
  · exact leaves_next.2 (hrun _ _)
  · exact leaves_next.2 (s.upsets_queuesKept us)

theorem execFlashWriteFailed_queuesKept (done : Nat) (s : State) : Leaves (execFlashWriteFailed done s) (QueuesKept s) := by
  unfold execFlashWriteFailed
  split
  · exact leaves_next.2
      (((s.runStore_queuesKept done).trans (State.recordFault_queuesKept _ flashWriteFault)).trans (.of_eq rfl rfl rfl))
  · exact leaves_next.2 (.refl s)

theorem execLoadReadDone_queuesKept (s : State) : Leaves (execLoadReadDone s) (QueuesKept s) := by
  unfold execLoadReadDone
  repeat' split
  · exact leaves_next.2 (.of_eq rfl rfl rfl)
  · exact leaves_next.2 ((State.recordFault_queuesKept _ _).after rfl rfl rfl)
  · exact leaves_next.2 (.refl s)

theorem execLineDeadline_queuesKept (s : State) : Leaves (execLineDeadline s) (QueuesKept s) := by
  unfold execLineDeadline
  split
  · exact leaves_next.2 (s.deadlineOf_queuesKept _)
  · exact leaves_next.2 (.refl s)

theorem execMusterHandle_queuesKept (token : Bytes) (s : State) : Leaves (execMusterHandle token s) (QueuesKept s) := by
  unfold execMusterHandle
  split <;> exact leaves_next.2 (.of_eq rfl rfl rfl)

theorem execMusterReturn_queuesKept (token : Bytes) (s : State) : Leaves (execMusterReturn token s) (QueuesKept s) := by
  unfold execMusterReturn State.musterReturned
  repeat' split
  · exact leaves_next.2 (.refl s)
  · exact leaves_next.2 (.refl s)
  · exact leaves_next.2 ((State.closeMasterRound_queuesKept _ _ _ _).after rfl rfl rfl)
  · exact leaves_next.2 ((s.recordFault_queuesKept _).trans (State.closeMasterRound_queuesKept _ _ _ _))
  · exact leaves_next.2 (.refl s)

theorem execShowHandle_queuesKept (token : Bytes) (s : State) : Leaves (execShowHandle token s) (QueuesKept s) := by
  unfold execShowHandle State.showHandled
  dsimp only
  repeat' split
  all_goals exact leaves_next.2 (.of_eq rfl rfl rfl)

theorem execShowReturn_queuesKept (token : Bytes) (s : State) : Leaves (execShowReturn token s) (QueuesKept s) := by
  unfold execShowReturn State.showReturned
  dsimp only
  repeat' split
  all_goals exact leaves_next.2 (.of_eq rfl rfl rfl)

theorem execWarpLineBegin_queuesKept (k : Channel) (s : State) : Leaves (execWarpLineBegin k s) (QueuesKept s) := by
  unfold execWarpLineBegin
  dsimp only
  repeat' split
  all_goals exact leaves_next.2 (.of_eq rfl rfl rfl)

theorem execWarpPixel_queuesKept (k : Channel) (us : List Upset) (s : State) : Leaves (execWarpPixel k us s) (QueuesKept s) := by
  unfold execWarpPixel
  dsimp only
  split
  · exact leaves_next.2 (s.upsets_queuesKept us)
  · exact leaves_next.2 ((s.upsets_queuesKept us).trans (State.warpPixel_queuesKept _ k _))

theorem execTileFillComplete_queuesKept (k : Channel) (read : Nat) (us : List Upset) (s : State) :
    Leaves (execTileFillComplete k read us s) (QueuesKept s) := by
  unfold execTileFillComplete
  dsimp only
  split
  · exact leaves_next.2 (s.upsets_queuesKept us)
  · exact leaves_next.2
      (((s.setWarp_queuesKept k _).trans (State.upsets_queuesKept _ us)).trans (State.resumePixel_queuesKept _ k))

theorem execTileFillTimeout_queuesKept (k : Channel) (read : Nat) (us : List Upset) (s : State) :
    Leaves (execTileFillTimeout k read us s) (QueuesKept s) := by
  have htimeout : ∀ (t : State) (n : Nat) (tag : Tag) (c : Bool), QueuesKept t ((t.advanceTo n).fillTimeout k read tag c) :=
    fun t n tag c => (State.recordFault_queuesKept _ _).after rfl rfl rfl
  unfold execTileFillTimeout
  dsimp only
  split
  · exact leaves_next.2
      (((s.upsets_queuesKept us).trans (htimeout _ _ _ _)).trans (State.resumePixel_queuesKept _ k))
  · exact leaves_next.2 (s.upsets_queuesKept us)
  · exact leaves_next.2 (s.upsets_queuesKept us)

theorem execLightPixelWrite_queuesKept (k : Channel) (us : List Upset) (s : State) :
    Leaves (execLightPixelWrite k us s) (QueuesKept s) := by
  unfold execLightPixelWrite State.lightPixelWrite
  dsimp only
  split
  · exact leaves_next.2
      ((s.upsets_queuesKept us).trans ((State.recordFaults_queuesKept _ _).after rfl rfl rfl))
  · exact leaves_next.2 (s.upsets_queuesKept us)

/-! ### Every command -/

/-- Every command keeps the queues and the log within their capacities. -/
theorem exec_queuesBounded {s : State} (h : s.queuesBounded = true) (i : Instr) : Leaves (exec i s) (·.queuesBounded = true) := by
  have of_kept : ∀ {o : Host.Outcome State Fault Refusal}, Leaves o (QueuesKept s) → Leaves o (·.queuesBounded = true) :=
    fun ho t ht => (ho t ht).bounded h
  have of_port : ∀ {o : Host.Outcome State Fault Refusal} {k : Channel}, Leaves o (s.portEvent k) →
      Leaves o (·.queuesBounded = true) := fun ho => of_kept fun t ht => State.portEvent_queuesKept (ho t ht)
  have of_frame : ∀ {o : Host.Outcome State Fault Refusal} {us : List Upset}, Leaves o (s.upsets us).frameEvent →
      Leaves o (·.queuesBounded = true) := fun {_ us} ho =>
    of_kept fun t ht => (s.upsets_queuesKept us).trans (State.frameEvent_queuesKept (ho t ht))
  by_cases hi : i.serves = true
  · obtain ⟨command, hexec, hcommand⟩ := exec_serves hi
    rw [hexec, leaves_next]
    exact State.serve_queuesBounded hcommand _ ((s.upsets_queuesKept _).bounded h)
  cases i with
  | pinReset arr role pos done => exact leaves_next.2 (State.resetValues_queuesBounded _ _ (fs := []) (Nat.zero_le 8) _)
  | resetFullEffect done => exact execResetFullEffect_queuesBounded done h
  | inputLinkLost k => exact execInputLinkLost_queuesBounded k h
  | cell k record => exact execCell_queuesBounded k record h
  | completionEnqueue op => exact execCompletionEnqueue_queuesBounded op h
  | reverseLaneSend k => exact execReverseLaneSend_queuesBounded k h
  | reverseSendEnd k => exact execReverseSendEnd_queuesBounded k h
  | startupHeaderReadDone => exact of_kept (execStartupHeaderReadDone_queuesKept s)
  | imageCheckReadDone => exact of_kept (execImageCheckReadDone_queuesKept s)
  | startupLoadDone => exact of_kept (execStartupLoadDone_queuesKept s)
  | inputCarrierDetected k => exact of_kept (execInputCarrierDetected_queuesKept k s)
  | inputTrainingDone k => exact of_kept (execInputTrainingDone_queuesKept k s)
  | frameOpen k record => exact of_kept (execFrameOpen_queuesKept k record s)
  | line k record => exact of_kept (execLine_queuesKept k record s)
  | frameClose k record => exact of_kept (execFrameClose_queuesKept k record s)
  | recordUnknown k record => exact leaves_next.2 h
  | defaultFillPageDone => exact of_kept (execDefaultFillPageDone_queuesKept s)
  | storePhaseDone us => exact of_kept (execStorePhaseDone_queuesKept us s)
  | flashWriteFailed done => exact of_kept (execFlashWriteFailed_queuesKept done s)
  | loadReadDone => exact of_kept (execLoadReadDone_queuesKept s)
  | frameStart us => exact of_frame (execFrameStart_frameEvent us s)
  | syncPulse us => exact of_frame (execSyncPulse_frameEvent us s)
  | ownStart us => exact of_frame (execOwnStart_frameEvent us s)
  | lineDeadline => exact of_kept (execLineDeadline_queuesKept s)
  | musterHandle token => exact of_kept (execMusterHandle_queuesKept token s)
  | musterReturn token => exact of_kept (execMusterReturn_queuesKept token s)
  | showHandle token => exact of_kept (execShowHandle_queuesKept token s)
  | showReturn token => exact of_kept (execShowReturn_queuesKept token s)
  | warpLineBegin k => exact of_kept (execWarpLineBegin_queuesKept k s)
  | warpPixel k us => exact of_kept (execWarpPixel_queuesKept k us s)
  | tileFillComplete k read us => exact of_kept (execTileFillComplete_queuesKept k read us s)
  | tileFillTimeout k read us => exact of_kept (execTileFillTimeout_queuesKept k read us s)
  | lightPixelWrite k us => exact of_kept (execLightPixelWrite_queuesKept k us s)
  | statusReport k locked => exact of_port (execStatusReport_portEvent k locked s)
  | reverseCarrierLost k => exact of_port (execReverseCarrierLost_portEvent k s)
  | reportTimeout k => exact of_port (execReportTimeout_portEvent k s)
  | settleExpiry k => exact of_port (execSettleExpiry_portEvent k s)
  | relockExpiry k => exact of_port (execRelockExpiry_portEvent k s)
  | _ => exact absurd rfl hi

/-- Settles O4: an entry joins a queue only where there is room, and every other command leaves the queues or empties them. -/
theorem queuesStayBounded : Obligations.QueuesStayBounded := fun _ t h ht =>
  step_leaves (P := fun s => s.queuesBounded = true) (fun _ => (QueuesKept.of_eq rfl rfl rfl).bounded)
    (fun _ _ => (QueuesKept.of_eq rfl rfl rfl).bounded) (fun _ => exec_queuesBounded) h t ht

end Sys2Proof.Machine
end

section
/-! PROOF. The serving of the oldest cell: exactly one reply, or a halt (R154, R155, R157, R164). -/

namespace Sys2Proof.Machine

theorem State.upsets_resetWait (s : State) (us : List Upset) : (s.upsets us).resetWait = s.resetWait := by
  obtain ⟨dir, w, h⟩ := s.upsets_spec us
  rw [h]

theorem State.reply_of_discard (s : State) {c : Cell} (h : c.discard = true) (e : QueueEntry) : s.reply c e = s := if_pos h

theorem State.reply_of_not_discard (s : State) {c : Cell} (h : c.discard = false) (e : QueueEntry) :
    s.reply c e = s.setLane c.link ((s.lanes.get c.link).place e) := if_neg (by simp [h])

/-- Serving the oldest cell takes it out of the queue; its one reply, which carries its tag, is the last entry of its link's
reply queue, or is discarded with the discard mark. -/
theorem State.serve_oldest {s : State} {c : Cell} {rest : List Cell} {mine : Cell → Bool} {command : Cell → State → Answer}
    (hc : ∀ c t, QueuesKept t (command c t).state) (hw : s.resetWait = none) (hcells : s.cells = c :: rest) (hm : mine c = true)
    (hr : c.discard = true ∨ (s.lanes.get c.link).replies.length < 16) :
    (s.serve mine command).cells = rest
    ∧ (c.discard = true → (s.serve mine command).lanes = s.lanes)
    ∧ (c.discard = false → ∃ (st : Status) (payload : Bytes) (resets : Bool), (s.serve mine command).lanes =
        s.lanes.set c.link ((s.lanes.get c.link).place (.reply c.tag st payload resets))) := by
  have hkept := hc c { s with cells := rest }
  rw [s.serve_eq mine command c rest hw hcells hm hr]
  generalize command c { s with cells := rest } = a at hkept ⊢
  cases hd : c.discard with
  | true =>
    rw [State.reply_of_discard _ hd]
    exact ⟨hkept.cells, fun _ => hkept.lanes, fun h => absurd h (by simp)⟩
  | false =>
    rw [State.reply_of_not_discard _ hd]
    refine ⟨hkept.cells, fun h => absurd h (by simp), fun _ => ⟨a.status, a.payload, a.resets, ?_⟩⟩
    rw [State.setLane_lanes, hkept.lanes]

/-- Nothing is served while a RESET FULL waits or the oldest cell's reply has no room. -/
theorem State.serve_halted {s : State} {c : Cell} {rest : List Cell} (hcells : s.cells = c :: rest)
    (halted : s.resetWait ≠ none ∨ (c.discard = false ∧ 16 ≤ (s.lanes.get c.link).replies.length))
    (mine : Cell → Bool) (command : Cell → State → Answer) : s.serve mine command = s := by
  rcases s.serve_cases mine command with he | ⟨c', rest', hw, hcells', -, hroom, -⟩
  · exact he
  · obtain ⟨rfl, -⟩ := List.cons.inj (hcells.symm.trans hcells')
    rcases halted with hwaits | ⟨hd, hfull⟩
    · exact absurd hw hwaits
    · rcases hroom with hdiscard | hroom
      · exact absurd (hd.symm.trans hdiscard) (by decide)
      · exact absurd hroom (Nat.not_lt.2 hfull)

end Sys2Proof.Machine

namespace Sys2Proof
open Machine

/-- Settles O24: each engine command is an answer that leaves cells and lanes alone, and its serving places the reply. -/
theorem servedCellGivesOneReply : Obligations.ServedCellGivesOneReply := by
  intro i s c rest hw hcells hmine
  obtain ⟨command, hexec, hcommand⟩ := exec_serves (Instr.serves_of_servesCell hmine)
  have hu := s.upsets_queuesKept (upsetsOf i)
  have hserve := State.serve_oldest hcommand ((s.upsets_resetWait _).trans hw) (hu.cells.trans hcells) hmine
  rw [hu.lanes] at hserve
  refine ⟨fun hd hroom => ?_, fun hd => ?_, ?_⟩
  · obtain ⟨hrest, -, hplaced⟩ := hserve (.inr hroom)
    obtain ⟨st, payload, resets, hlanes⟩ := hplaced hd
    exact ⟨_, st, payload, resets, hexec s, hrest, hlanes⟩
  · obtain ⟨hrest, hlanes, -⟩ := hserve (.inl hd)
    exact ⟨_, hexec s, hrest, hlanes hd⟩
  · rintro rfl hd hroom
    exact congrArg Host.Outcome.next (State.serve_replied ⟨hw, hcells, hd, hroom⟩ _ _ hmine rfl)

/-- Settles O25: upsets leave the queues and the wait of a RESET FULL as they are, and nothing is served after them. -/
theorem fullReplyQueueHaltsServing : Obligations.FullReplyQueueHaltsServing := by
  intro i s c d rest hcells hmine halted
  obtain ⟨command, hexec, -⟩ := exec_serves (Instr.serves_of_servesCell hmine)
  have hu := s.upsets_queuesKept (upsetsOf i)
  rw [← hu.lanes, ← s.upsets_resetWait (upsetsOf i)] at halted
  rw [hexec, State.serve_halted (hu.cells.trans hcells) halted]

end Sys2Proof
end

section
/-! PROOF. The forward lane's cells (R153) and the reverse lane's messages (R156, R164, R185). -/

namespace Sys2Proof.Machine

/-! ### The forward lane: CELL -/

theorem execCell_of_locked {s : State} {k : Channel} {record : Bytes} (hcell : isCellRecord record = true)
    (hlink : (s.inputs.get k).link = .locked) : execCell k record s = .next (s.takeCell k record) := by
  rw [execCell, hcell, hlink]
  rfl

theorem State.takeCell_room {s : State} {record : Bytes} {r : CellRecord} (hparse : parseCell record = some r)
    (hroom : s.cells.length < 32) (k : Channel) : s.takeCell k record =
      { s with cells := s.cells ++ [⟨k, r.tag, r.command, r.payload, false⟩] } := by
  simp only [State.takeCell, hparse]
  exact if_pos hroom

theorem State.takeCell_full {s : State} {record : Bytes} {r : CellRecord} (hparse : parseCell record = some r)
    (hfull : 32 ≤ s.cells.length) (k : Channel) : s.takeCell k record = s.raise Cond.cellDrop := by
  simp only [State.takeCell, hparse]
  exact if_neg (Nat.not_lt.2 hfull)

theorem State.takeCell_bad (s : State) {record : Bytes} (hparse : parseCell record = none) (k : Channel) :
    s.takeCell k record = s.raise Cond.cellDrop := by
  simp only [State.takeCell, hparse]

/-- CELL_DROP raised: its latch set, its notice queued under the rule of R183, and nothing else changed. -/
theorem State.raise_cellDrop (s : State) : ∃ ns : List Notice,
    s.raise Cond.cellDrop = { s with latches := s.latches ||| BitVec.twoPow 45 Cond.cellDrop, notices := ns }
    ∧ s.queuesNotice ⟨Cond.cellDrop, none, s.coh.shown⟩ ns := by
  obtain ⟨ns, hraise⟩ := s.raise_spec Cond.cellDrop
  have hnotice := s.raise_queuesNotice Cond.cellDrop
  rw [hraise] at hnotice
  exact ⟨ns, hraise, hnotice⟩

/-- Settles O23, by the form and check of the record and the room in the queue. -/
theorem cellJoinsQueueOrDrops : Obligations.CellJoinsQueueOrDrops := by
  refine ⟨fun s k tag command payload hlink hlen => ?_, fun s k body hlink hparse => ?_⟩
  · have hparse := parseCell_bytes ⟨tag, command, payload⟩ hlen
    have hexec := execCell_of_locked (isCellRecord_bytes ⟨tag, command, payload⟩) hlink
    refine ⟨fun hroom => ?_, fun hfull => ?_⟩
    · exact hexec.trans (congrArg _ (State.takeCell_room hparse hroom k))
    · obtain ⟨ns, hraise, hnotice⟩ := s.raise_cellDrop
      exact ⟨ns, hexec.trans (congrArg _ ((State.takeCell_full hparse hfull k).trans hraise)), hnotice⟩
  · obtain ⟨ns, hraise, hnotice⟩ := s.raise_cellDrop
    exact ⟨ns, (execCell_of_locked rfl hlink).trans (congrArg _ ((s.takeCell_bad hparse k).trans hraise)), hnotice⟩

/-! ### The reverse lane -/

theorem execReverseLaneSend_of_free {s : State} {k : Channel} (hlink : (s.inputs.get k).link = .locked)
    (hfree : (s.lanes.get k).sending = none) : execReverseLaneSend k s = .next (s.beginSending k) := by
  rw [execReverseLaneSend, hlink, hfree]
  rfl

/-- On the notice link the lowest-numbered notice goes first. -/
theorem State.beginSending_notice {s : State} {k : Channel} {n : Notice} {ns : List Notice} (hlink : s.settings.noticeLink = k)
    (hnotices : s.notices = n :: ns) : s.beginSending k =
      { s with notices := ns, lanes := s.lanes.set k { s.lanes.get k with sending := some ⟨n.message, false⟩ } } := by
  simp only [State.beginSending, hlink, hnotices, beq_self_eq_true]
  rfl

/-- A lane with no notice to send sends its oldest reply or completion. -/
theorem State.beginSending_reply {s : State} {k : Channel} {e : QueueEntry} {es : List QueueEntry}
    (hno : s.settings.noticeLink ≠ k ∨ s.notices = []) (hreplies : (s.lanes.get k).replies = e :: es) : s.beginSending k =
      { s with lanes := s.lanes.set k { s.lanes.get k with replies := es, sending := some ⟨e.message, e.isReset⟩ } } := by
  unfold State.beginSending
  dsimp only
  split
  · rename_i hlink hnotices
    rcases hno with hother | hnone
    · exact absurd (eq_of_beq hlink) hother
    · exact absurd (hnotices.symm.trans hnone) (List.cons_ne_nil _ _)
  · rename_i e' rest hqueue _
    obtain ⟨rfl, rfl⟩ := List.cons.inj (hreplies.symm.trans hqueue)
    rfl
  · rename_i hqueue _
    exact absurd (hreplies.symm.trans hqueue) (List.cons_ne_nil _ _)

theorem ResetWait.map_afterSending (w : Option ResetWait) (m : Sending) : w.map (·.afterSending m) =
    if m.resets then w.map fun w => { w with answered := true } else w := by
  cases hm : m.resets <;> cases w <;> simp [ResetWait.afterSending, hm]

theorem execReverseSendEnd_of_sending {s : State} {k : Channel} {m : Sending} (hm : (s.lanes.get k).sending = some m) :
    execReverseSendEnd k s = .next { s with
      lanes := s.lanes.set k { s.lanes.get k with sending := none, sent := (s.lanes.get k).sent ++ [m.message] }
      resetWait := s.resetWait.map (·.afterSending m) } := by
  simp only [execReverseSendEnd, hm]
  rfl

/-- Settles O44, by what waits on the lane. -/
theorem reverseLaneSendsInOrder : Obligations.ReverseLaneSendsInOrder := by
  intro s k l
  refine ⟨fun hlink hfree => ⟨fun n ns hnoticeLink hnotices => ?_, fun e es hno hreplies => ?_⟩, fun m hm => ?_⟩
  · exact (execReverseLaneSend_of_free hlink hfree).trans (congrArg _ (State.beginSending_notice hnoticeLink hnotices))
  · exact (execReverseLaneSend_of_free hlink hfree).trans (congrArg _ (State.beginSending_reply hno hreplies))
  · rw [← ResetWait.map_afterSending]
    exact execReverseSendEnd_of_sending hm

end Sys2Proof.Machine
end

section
/-! PROOF. The identity record (R176) and the end of a LOAD (R200). -/

namespace Sys2Proof.Machine

/-! ### IDENTIFY -/

theorem State.identifyCommand_answer {c : Cell} (h : c.payload = []) (s : State) :
    s.identifyCommand c = ⟨s, .ok, s.straps.identity, false⟩ := by
  rw [State.identifyCommand, h]
  rfl

theorem byteAt_bitVec {b : Bytes} {off n : Nat} {x : BitVec n} (hn : n ≤ 8) (h : slice b off 1 = oneByte x.toNat) :
    byteAt b off = x.toNat :=
  (byteAt_of_slice h).trans (Nat.mod_eq_of_lt (x.isLt.trans_le (Nat.pow_le_pow_right Nat.two_pos hn)))

theorem linePages_tablePages (arr : Arrangement) :
    arr.linePages = (if arr = .c then 128 else 64) ∧ arr.tablePages = if arr = .c then 384 else 448 := by
  cases arr <;> exact ⟨rfl, rfl⟩

/-- Settles O26: each field of the record stands at its offset. -/
theorem identifyReply : Obligations.IdentifyReply := by
  intro s c rest hserved hcarries hpayload
  obtain ⟨hline, htable⟩ := linePages_tablePages s.straps.arrangement
  refine ⟨s.straps.identity, congrArg Host.Outcome.next (State.serve_replied hserved _ _ hcarries
      (State.identifyCommand_answer hpayload _)), rfl, rfl, rfl, rfl, byteAt_bitVec (by decide) rfl,
    byteAt_bitVec (by decide) rfl, byteAt_bitVec (by decide) rfl, ?_, ?_, byteAt_bitVec (by decide) rfl,
    (byteAt_of_slice rfl).trans (flag_mod _), rfl, ?_, ?_⟩
  · show (arrangementCode s.straps.arrangement).toNat = _
    cases s.straps.arrangement <;> rfl
  · show (roleCode s.straps.role).toNat = _
    cases s.straps.role <;> rfl
  · rw [← hline]
    exact (field_of_slice rfl).trans (Nat.mod_eq_of_lt (by rw [hline]; split <;> decide))
  · rw [← htable]
    exact (field_of_slice rfl).trans (Nat.mod_eq_of_lt (by rw [htable]; split <;> decide))

/-! ### LOAD_READ_DONE -/

/-- What the image body at `off` makes of a table of a LOAD: SEALED, with the entries of the image in the run it had. -/
structure LoadedFrom (m : Assoc Byte) (off : Nat) (r r' : TableRecord) : Prop where
  state : r'.state = .sealed
  key : r'.key = r.key
  dims : r'.dims = r.dims
  firstPage : r'.firstPage = r.firstPage
  pageCount : r'.pageCount = r.pageCount
  entries : ∀ i, i < r.entryCount → r'.read i =
    (r.key.entryOfBytes i (Memory.readBytes m (14 + off + i * r.key.entryBytes) r.key.entryBytes)).1

theorem TableRecord.writeImage_loadedFrom (r : TableRecord) (m : Assoc Byte) (off : Nat) :
    LoadedFrom m off r { r.writeImage m off with state := .sealed } := by
  obtain ⟨hframe, -⟩ := r.writeImage_frame m off
  exact ⟨rfl, (congrArg TableRecord.key hframe :), (congrArg TableRecord.dims hframe :), (congrArg TableRecord.firstPage hframe :),
    (congrArg TableRecord.pageCount hframe :), fun i hi => r.read_writeImage m off hi⟩

theorem sealLoaded_cons (m : Assoc Byte) (dir : Assoc TableRecord) (n off : Nat) (loads : List (Nat × Nat)) :
    sealLoaded m dir ((n, off) :: loads) =
      sealLoaded m (Assoc.modify dir n fun r => { r.writeImage m off with state := .sealed }) loads := rfl

theorem find_sealLoaded_other (m : Assoc Byte) (dir : Assoc TableRecord) {loads : List (Nat × Nat)} {n : Nat}
    (hn : n ∉ loads.map (·.1)) : Assoc.find (sealLoaded m dir loads) n = Assoc.find dir n := by
  induction loads generalizing dir with
  | nil => rfl
  | cons e loads ih =>
    obtain ⟨hne, hrest⟩ := List.ne_and_not_mem_of_not_mem_cons hn
    rw [sealLoaded_cons, ih _ hrest, Assoc.find_modify, if_neg hne]

theorem find_sealLoaded_mem (m : Assoc Byte) {dir : Assoc TableRecord} {loads : List (Nat × Nat)} {n off : Nat} {r : TableRecord}
    (hnodup : (loads.map (·.1)).Nodup) (hmem : (n, off) ∈ loads) (hr : Assoc.find dir n = some r) :
    Assoc.find (sealLoaded m dir loads) n = some { r.writeImage m off with state := .sealed } := by
  induction loads generalizing dir with
  | nil => cases hmem
  | cons e loads ih =>
    obtain ⟨j, o⟩ := e
    obtain ⟨hfirst, hrest⟩ := List.nodup_cons.1 hnodup
    rw [sealLoaded_cons]
    rcases List.mem_cons.1 hmem with heq | hlater
    · obtain ⟨rfl, rfl⟩ := Prod.mk.inj heq
      rw [find_sealLoaded_other _ _ hfirst, Assoc.find_modify, if_pos rfl, hr]
      rfl
    · have hne : n ≠ j := fun h => hfirst (List.mem_map.2 ⟨_, hlater, h⟩)
      exact ih hrest hlater (by rw [Assoc.find_modify, if_neg hne, hr])

theorem find_dropLoaded (dir : Assoc TableRecord) (loads : List (Nat × Nat)) (n : Nat) :
    Assoc.find (dropLoaded dir loads) n = if n ∈ loads.map (·.1) then none else Assoc.find dir n := by
  induction loads generalizing dir with
  | nil => rfl
  | cons e loads ih =>
    show Assoc.find (dropLoaded (Assoc.erase dir e.1) loads) n = _
    rw [ih, List.map_cons]
    by_cases hn : n = e.1
    · rw [hn, Assoc.find_erase_same, ite_self, if_pos List.mem_cons_self]
    · rw [Assoc.find_erase_other _ hn]
      exact if_congr (List.mem_cons.trans (or_iff_right hn)).symm rfl rfl

theorem execLoadReadDone_good {s : State} {link : Channel} {tag : Byte} {loads : List (Nat × Nat)}
    (hop : s.loader.op = some (.load link tag loads)) (hcrc : crcCorrect s.flash = true) : execLoadReadDone s =
      .next ((s.setDirectory (sealLoaded s.flash s.tables.directory loads)).setLoader
        ⟨none, s.dueCompletion link tag .ok, s.loader.image⟩) := by
  simp only [execLoadReadDone, hop, hcrc, if_true]

theorem execLoadReadDone_bad {s : State} {link : Channel} {tag : Byte} {loads : List (Nat × Nat)}
    (hop : s.loader.op = some (.load link tag loads)) (hcrc : crcCorrect s.flash = false) : execLoadReadDone s =
      .next (((s.setDirectory (dropLoaded s.tables.directory loads)).setLoader
        ⟨none, s.dueCompletion link tag .failed, .bad⟩).recordFault imageCheckFault) := by
  simp only [execLoadReadDone, hop, hcrc, Bool.false_eq_true, if_false]

/-- Settles O43, by induction on the instances of the LOAD: each is sealed, or removed, by itself. -/
theorem loadReadSealsOrRemoves : Obligations.LoadReadSealsOrRemoves := by
  intro s link tag loads hop hnodup due
  refine ⟨fun hcrc => ⟨_, execLoadReadDone_good hop hcrc, fun n => find_sealLoaded_other _ _, fun n off r hmem hr => ?_⟩,
    fun hcrc => ⟨_, execLoadReadDone_bad hop hcrc, find_dropLoaded _ loads⟩⟩
  obtain ⟨hstate, hkey, hdims, hfirst, hcount, hentries⟩ := r.writeImage_loadedFrom s.flash off
  exact ⟨_, find_sealLoaded_mem _ hnodup hmem hr, hstate, hkey, hdims, hfirst, hcount, hentries⟩

end Sys2Proof.Machine
end

section
/-! PROOF. CLEAR (R186) and FAULT READ (R189) as the engine serves them. -/

namespace Sys2Proof.Machine

/-! ### CLEAR -/

/-- The event conditions that the payload of a CLEAR names. -/
def Cell.clears (c : Cell) (d : Cond) : Bool := (field c.payload 0 6).testBit d && !Cond.isLevel d

theorem Cell.namedEvents_bit (c : Cell) (d : Cond) :
    (conditionSet c.payload &&& condSet fun d => !Cond.isLevel d).getLsbD d = c.clears d := by
  rw [BitVec.getLsbD_and, condSet_bit, conditionSet, BitVec.getLsbD_ofNat, decide_eq_true d.isLt, Bool.true_and]
  rfl

/-- CLEAR withdraws the notices of the event conditions it names. -/
theorem State.clearConditions_eq (s : State) (c : Cell) : s.clearConditions (conditionSet c.payload) =
    { s with latches := (s.clearConditions (conditionSet c.payload)).latches,
             notices := s.notices.filter fun n => !c.clears n.cond } := by
  unfold State.clearConditions
  simp only [c.namedEvents_bit]

theorem State.clearConditions_latch (s : State) (c : Cell) (d : Cond) :
    (s.clearConditions (conditionSet c.payload)).latches.getLsbD d = (s.latches.getLsbD d && !c.clears d) := by
  unfold State.clearConditions
  rw [BitVec.getLsbD_and, BitVec.getLsbD_not, decide_eq_true d.isLt, Bool.true_and, c.namedEvents_bit]

theorem State.clearCommand_answer {c : Cell} (h : c.payload.length = 6) (s : State) :
    s.clearCommand c = ⟨s.clearConditions (conditionSet c.payload), .ok, toLe 6 s.pendingSet.toNat, false⟩ :=
  if_neg (not_not.2 h)

/-- The six bytes of a CLEAR's reply carry the pending set whole. -/
theorem State.field_pendingSet (s : State) : field (toLe 6 s.pendingSet.toNat) 0 6 = s.pendingSet.toNat :=
  (field_toLe_last [] _ rfl).trans (Nat.mod_eq_of_lt (s.pendingSet.isLt.trans (by decide)))

/-- Settles O29: the payload's conditions, less the level conditions, leave the latches and the notice queue bit by bit. -/
theorem clearClearsNamedEvents : Obligations.ClearClearsNamedEvents := by
  intro s c rest hserved hcarries hlen named
  refine ⟨toLe 6 s.pendingSet.toNat, (s.clearConditions (conditionSet c.payload)).latches, ?_, toLe_length 6 _, fun d => ?_, ?_,
    s.clearConditions_latch c⟩
  · refine congrArg Host.Outcome.next ((State.serve_served hserved _ _ hcarries).trans ?_)
    simp only [State.clearCommand_answer hlen]
    rw [State.clearConditions_eq _ c]
    rfl
  · rw [s.field_pendingSet]
    exact condSet_bit _ d
  · rw [s.field_pendingSet]
    exact s.pendingSet.isLt

/-! ### FAULT READ -/

theorem State.faultReadCommand_empty {c : Cell} (h : c.payload = []) {s : State} (hlog : s.faults = []) :
    s.faultReadCommand c = ⟨s, .ok, oneByte (flag s.overflow) ++ [0], false⟩ := by
  simp only [State.faultReadCommand, h, hlog, List.length_nil, ne_eq, not_true, if_false]

/-- The oldest record goes, and the overflow flag with the last of them. -/
theorem State.faultReadCommand_oldest {c : Cell} (h : c.payload = []) {s : State} {f : FaultRecord} {fs : List FaultRecord}
    (hlog : s.faults = f :: fs) : s.faultReadCommand c =
      ⟨{ s with faults := fs, overflow := if fs.isEmpty then false else s.overflow }, .ok,
        oneByte (flag s.overflow) ++ [1] ++ f.bytes, false⟩ := by
  simp only [State.faultReadCommand, h, hlog, List.length_nil, ne_eq, not_true, if_false]

theorem oneByte_flag (b : Bool) : oneByte (flag b) = [if b then 1 else 0] := by
  cases b <;> rfl

/-- Settles O30, by the records in the log: none, one, or more. -/
theorem faultReadRemovesOldest : Obligations.FaultReadRemovesOldest := by
  intro s c rest hserved hcarries hpayload o
  have hexec : exec .faultRead s = .next _ :=
    congrArg Host.Outcome.next (State.serve_served hserved _ State.faultReadCommand hcarries)
  refine ⟨fun hlog => ?_, fun f hlog => ?_, fun f g fs hlog => ?_⟩
  · rw [hexec, State.faultReadCommand_empty (s := { s with cells := rest }) hpayload hlog, oneByte_flag]
    rfl
  · rw [hexec, State.faultReadCommand_oldest (s := { s with cells := rest }) hpayload hlog, oneByte_flag]
    rfl
  · rw [hexec, State.faultReadCommand_oldest (s := { s with cells := rest }) hpayload hlog, oneByte_flag]
    rfl

end Sys2Proof.Machine
end

section
/-! SUPPORT. What a step makes of the notice queue, the latches and the enables (R181 to R186): event conditions raised and
level conditions that rise are all that most commands do to them, and that keeps the notices sound. -/

namespace Sys2Proof.Machine

/-! ### Sound notices -/

/-- What the soundness of the notices reads of the state. -/
def State.signals (s : State) : List Notice × BitVec 45 × BitVec 45 := (s.notices, s.latches, s.settings.noticeEnable)

theorem State.noticesSound_of_signals {s t : State} (h : t.signals = s.signals) (hs : s.noticesSound = true) :
    t.noticesSound = true := by
  simp only [State.signals, Prod.mk.injEq] at h
  obtain ⟨hnotices, hlatches, henables⟩ := h
  have hsound : t.noticeSound = s.noticeSound := by
    funext n
    rw [State.noticeSound, State.enabled, hlatches, henables]
    rfl
  rw [State.noticesSound, hnotices, hsound]
  exact hs

/-- A condition that may have a notice waiting: it is enabled, and an event condition is latched. -/
def State.mayWait (s : State) (c : Cond) : Prop := s.enabled c = true ∧ (Cond.isLevel c = true ∨ s.latches.getLsbD c = true)

theorem State.noticesSound_iff (s : State) : s.noticesSound = true ↔ noticesRiseFrom 0 s.notices = true
    ∧ ∀ n ∈ s.notices, s.mayWait n.cond ∧ n.channel = Cond.channel n.cond := by
  simp only [State.noticesSound, State.noticeSound, State.mayWait, Bool.and_eq_true, Bool.or_eq_true, List.all_eq_true,
    beq_iff_eq]

/-- Notices withdrawn, while the conditions of the others may wait as before. -/
theorem State.noticesSound_filter {s t : State} (h : s.noticesSound = true) (p : Notice → Bool)
    (hn : t.notices = s.notices.filter p) (hw : ∀ n, p n = true → s.mayWait n.cond → t.mayWait n.cond) :
    t.noticesSound = true := by
  rw [State.noticesSound_iff] at h ⊢
  obtain ⟨hrise, hall⟩ := h
  rw [hn]
  refine ⟨noticesRiseFrom_filter hrise p, fun n hmem => ?_⟩
  obtain ⟨hmem, hp⟩ := List.mem_filter.1 hmem
  obtain ⟨hwait, hchannel⟩ := hall n hmem
  exact ⟨hw n hp hwait, hchannel⟩

/-- Conditions that may wait, queued in turn. -/
theorem State.queueNotices_sound {s : State} (h : s.noticesSound = true) {cs : List Cond} (hcs : ∀ c ∈ cs, s.mayWait c) :
    (cs.foldl State.queueNotice s).noticesSound = true := by
  have hwait : (cs.foldl State.queueNotice s).mayWait = s.mayWait := by
    obtain ⟨ns, hns⟩ := foldl_notices State.queueNotice (fun t c => ⟨_, t.queueNotice_eq c⟩) cs s
    rw [hns]
    rfl
  rw [State.noticesSound_iff] at h ⊢
  obtain ⟨hrise, hall⟩ := h
  rw [hwait]
  refine ⟨State.queueNotices_rises cs hrise, fun n hn => ?_⟩
  rcases State.mem_queueNotices.1 hn with hn | ⟨hc, -, hof⟩
  · exact hall n hn
  · exact ⟨hcs _ hc, congrArg Notice.channel hof⟩

/-! ### Conditions raised, enabled and cleared -/

theorem State.raise_sound {s : State} (h : s.noticesSound = true) (c : Cond) : (s.raise c).noticesSound = true := by
  have hbit : ∀ d : Cond, (s.latches ||| BitVec.twoPow 45 c).getLsbD d = true ↔ s.latches.getLsbD d = true ∨ d = c := by
    intro d
    simp [Fin.ext_iff]
  have hset : ({ s with latches := s.latches ||| BitVec.twoPow 45 c } : State).noticesSound = true := by
    refine State.noticesSound_filter h (fun _ => true) (List.filter_eq_self.2 fun _ _ => rfl).symm fun n _ hwait => ?_
    exact ⟨hwait.1, hwait.2.imp_right fun hl => (hbit _).2 (.inl hl)⟩
  unfold State.raise
  dsimp only
  split
  · exact h
  split
  next henabled =>
    refine State.queueNotices_sound (cs := [c]) hset fun d hd => ?_
    obtain rfl := List.mem_singleton.1 hd
    exact ⟨henabled, .inr ((hbit _).2 (.inr rfl))⟩
  next => exact hset

theorem State.levelNotices_sound {s : State} (h : s.noticesSound = true) (before : State) :
    (s.levelNotices before).noticesSound = true := by
  rw [State.levelNotices_eq]
  refine State.queueNotices_sound h fun c hc => ?_
  obtain ⟨hlevels, hrisen⟩ := List.mem_filter.1 hc
  simp only [State.risen, Bool.and_eq_true] at hrisen
  exact ⟨hrisen.1.1, .inl (List.mem_filter.1 hlevels).2⟩

/-- A removal withdraws the notices of its conditions, and a grant queues none but of pending ones. -/
theorem State.setEnables_sound {s : State} (h : s.noticesSound = true) (new : BitVec 45) :
    (s.setEnables new).noticesSound = true := by
  rw [State.setEnables_eq]
  have hreplaced : (s.enablesReplaced new).noticesSound = true := by
    refine State.noticesSound_filter h _ rfl fun n hp hwait => ⟨?_, hwait.2⟩
    rwa [hwait.1, Bool.not_true, Bool.or_false] at hp
  refine State.queueNotices_sound hreplaced fun c hc => ?_
  have hgranted := (List.mem_filter.1 hc).2
  simp only [State.granted, Bool.and_eq_true] at hgranted
  obtain ⟨⟨hnew, -⟩, hpending⟩ := hgranted
  refine ⟨hnew, ?_⟩
  unfold State.isPending at hpending
  split at hpending
  next hlevel => exact .inl hlevel
  next => exact .inr hpending

theorem State.storeSetting_sound {s : State} (h : s.noticesSound = true) (id : SettingId) (k : Channel) (v : Nat) :
    (s.storeSetting id k v).noticesSound = true := by
  cases id
  case noticeEnable => exact State.setEnables_sound h _
  all_goals exact State.noticesSound_of_signals rfl h

/-- CLEAR withdraws the notice of every latch that it clears. -/
theorem State.clearCommand_sound (c : Cell) {s : State} (h : s.noticesSound = true) :
    (s.clearCommand c).state.noticesSound = true := by
  unfold State.clearCommand
  split
  · exact h
  · refine State.noticesSound_filter h (fun n => !c.clears n.cond) ?_ fun n hp hwait =>
      ⟨hwait.1, hwait.2.imp_right fun hl => ?_⟩
    · rw [s.clearConditions_eq c]
    · exact (s.clearConditions_latch c n.cond).trans (by rw [hl, hp]; rfl)

/-- A notice sent is the first of the queue. -/
theorem State.beginSending_sound {s : State} (h : s.noticesSound = true) (k : Channel) :
    (s.beginSending k).noticesSound = true := by
  unfold State.beginSending
  dsimp only
  split
  next n rest _ hqueue =>
    rw [State.noticesSound_iff, hqueue] at h
    obtain ⟨hrise, hall⟩ := h
    have hrest := noticesRiseFrom_of_le (Nat.zero_le _) (noticesRiseFrom_cons.1 hrise).2
    exact (State.noticesSound_iff _).2 ⟨hrest, fun m hm => hall m (List.mem_cons_of_mem _ hm)⟩
  · exact State.noticesSound_of_signals rfl h
  · exact h

/-! ### Signals -/

/-- From `s` the notice queue, the latches and the enables change by event conditions raised and level conditions that rise
alone. -/
inductive Signals (s : State) : State → Prop
  | refl : Signals s s
  | same {t u : State} (h : Signals s t) (hu : u.signals = t.signals) : Signals s u
  | raise {t : State} {c : Cond} (h : Signals s t) : Signals s (t.raise c)
  | levels {t : State} {before : State} (h : Signals s t) : Signals s (t.levelNotices before)

theorem Signals.sound {s t : State} (h : Signals s t) (hs : s.noticesSound = true) : t.noticesSound = true := by
  induction h with
  | refl => exact hs
  | same _ hu ih => exact State.noticesSound_of_signals hu ih
  | raise _ ih => exact State.raise_sound ih _
  | levels _ ih => exact State.levelNotices_sound ih _

theorem Signals.of_eq {s t : State} (h : t.signals = s.signals) : Signals s t := .same .refl h

theorem Signals.trans {s t u : State} (h : Signals s t) (g : Signals t u) : Signals s u := by
  induction g with
  | refl => exact h
  | same _ hu ih => exact ih.same hu
  | raise _ ih => exact ih.raise
  | levels _ ih => exact ih.levels

theorem Signals.foldl {α : Type} {f : State → α → State} (hf : ∀ s a, Signals s (f s a)) {s t : State} {xs : List α}
    (h : Signals s t) : Signals s (xs.foldl f t) := by
  induction xs generalizing t with
  | nil => exact h
  | cons x xs ih => exact ih (h.trans (hf t x))

section
variable {s t : State}

theorem Signals.raiseAll {cs : List Cond} (h : Signals s t) : Signals s (t.raiseAll cs) := h.foldl fun _ _ => .raise .refl

/-- A fault found raises FAULT_LOGGED where the log takes it. -/
theorem Signals.fault {f : FaultRecord} (h : Signals s t) : Signals s (t.recordFault f) := by
  unfold State.recordFault
  split
  · exact .raise (h.same rfl)
  · exact h.same rfl

theorem Signals.faults {fs : List FaultRecord} (h : Signals s t) : Signals s (t.recordFaults fs) :=
  h.foldl fun _ _ => .fault .refl

theorem Signals.upsets {us : List Upset} (h : Signals s t) : Signals s (t.upsets us) := by
  obtain ⟨dir, w, he⟩ := t.upsets_spec us
  rw [he]
  exact h.same rfl

theorem Signals.runStore {n : Nat} (h : Signals s t) : Signals s (t.runStore n) :=
  (h.same (u := { t with flash := runJobs t.storeJobs n t.flash }) rfl).faults

/-- A port's move raises OUTPUT_CHANGE where the transition says so. -/
theorem Signals.movePort {k : Channel} {m : OutputPort × Bool} (h : Signals s t) : Signals s (t.movePort k m) := by
  unfold State.movePort
  dsimp only
  have hstop : ∀ b : Bool, Signals s (if b = true then (t.setOutput k m.1).stopChannel k else t.setOutput k m.1) := by
    rintro (_ | _)
    · exact h.same rfl
    · exact h.same rfl
  split
  · exact .raise (hstop _)
  · exact hstop _

theorem Signals.take {k : Channel} {r : Received} (h : Signals s t) : Signals s (t.take k r) :=
  (h.same (u := (t.setInput k r.port).setRing k r.ring) rfl).raiseAll

theorem Signals.closeMasterRound {r : Round} {ready : Bool} {v : Vec32} (h : Signals s t) :
    Signals s (t.closeMasterRound r ready v) := by
  obtain ⟨x, he, -⟩ := t.closeMasterRound_spec r ready v
  rw [he]
  exact h.same rfl

end

end Sys2Proof.Machine
end

section
/-! SUPPORT. Frame starts, line deadlines and the work on pixels do no more to the notice queue, the latches and the enables than
raise event conditions and queue the level conditions that rise. -/

namespace Sys2Proof.Machine

/-! ### A frame start, block by block (R111, R149) -/

section
variable {s t : State}

theorem Signals.showFrame (h : Signals s t) : Signals s t.showFrame :=
  (h.same (u := ((t.setCoh t.cohAtFrameStart).decideSlots t.coh.outcome).recordShown) rfl).faults.raiseAll

theorem Signals.tablesAtFrameStart (h : Signals s t) : Signals s t.tablesAtFrameStart := by
  unfold State.tablesAtFrameStart
  dsimp only
  repeat' split
  · exact h
  · exact h.same rfl
  · exact h.same rfl
  · exact .raise (.raise (h.same rfl))
  · exact h.same rfl
  · exact .raise (.raise (h.same rfl))
  · exact .raise (h.same rfl)
  · exact h.same rfl

theorem Signals.rasterChange (h : Signals s t) : Signals s t.rasterChange := by
  unfold State.rasterChange
  split
  · refine .foldl (fun u k => ?_) (h.same rfl)
    split
    · exact .movePort .refl
    · exact .refl
  · exact h

theorem Signals.filterOutputs {up : Quad Bool} (h : Signals s t) : Signals s (t.filterOutputs up) := h.same rfl

theorem Signals.applyVector {v : Option Vec32} (h : Signals s t) : Signals s (t.applyVector v) := by
  unfold State.applyVector
  dsimp only
  split
  · exact h.same rfl
  · exact .raise (h.same rfl)

theorem Signals.chooseSets (h : Signals s t) : Signals s t.chooseSets := by
  unfold State.chooseSets
  dsimp only
  repeat' split
  · exact h.same rfl
  · exact h.same rfl
  · exact .faults (h.same rfl)

theorem Signals.selectSets (h : Signals s t) : Signals s t.selectSets := h.same rfl

theorem Signals.takeModes (h : Signals s t) : Signals s t.takeModes := h.same rfl

theorem Signals.fitTest (h : Signals s t) : Signals s t.fitTest := h.same rfl

theorem Signals.channelStart {k : Channel} (h : Signals s t) : Signals s (t.channelStart k) := by
  unfold State.channelStart
  dsimp only
  split
  · exact .faults (h.same rfl)
  · exact h

theorem Signals.beginFrame {own : Bool} (h : Signals s t) : Signals s (t.beginFrame own) := by
  obtain ⟨p, he⟩ := t.beginFrame_spec own
  rw [he]
  exact h.same rfl

theorem Signals.frameStart {own : Bool} (h : Signals s t) : Signals s (t.frameStart own) := by
  unfold State.frameStart State.lossAtFrameStart
  dsimp only
  refine .beginFrame (.foldl (fun _ _ => .channelStart .refl) (.fitTest ?_))
  exact h.showFrame.tablesAtFrameStart.rasterChange.takeModes.filterOutputs.applyVector.chooseSets.selectSets

end

theorem State.frameEvent_signals {s t : State} (h : s.frameEvent t) : Signals s t := by
  rcases h with rfl | ⟨n, rfl⟩ | ⟨n, own, rfl⟩
  · exact .refl
  · unfold State.ownerFrame
    exact .levels (.frameStart (.of_eq rfl))
  · unfold State.followerFrame
    exact .levels (.frameStart (.of_eq rfl))

/-! ### Line deadlines (R23, R24) -/

/-- A late line raises SOURCE_LATE. -/
theorem State.channelDeadline_signals (s : State) (v : Nat) (k : Channel) : Signals s (s.channelDeadline v k) := by
  unfold State.channelDeadline
  simp only [State.sendItem_eq]
  split
  · exact .of_eq rfl
  split
  · exact .raise (.of_eq rfl)
  · exact .of_eq rfl

theorem State.deadlineOf_signals (s : State) (v : Nat) : Signals s (s.deadlineOf v) := by
  have hlines : Signals s (s.lined v) := .foldl (fun t k => t.channelDeadline_signals v k) (.of_eq rfl)
  obtain ⟨c, r, m, n, hmuster⟩ := (s.pastLine v).musterAt_spec v
  have hpast : Signals s ((s.pastLine v).musterAt v) := by
    rw [hmuster]
    exact hlines.same rfl
  rw [State.deadlineOf_eq_rounds]
  split
  · obtain ⟨c', m', n', hend⟩ := State.frameEndRound_spec ((s.pastLine v).musterAt v)
    rw [hend]
    exact hpast.same rfl
  · exact hpast

/-! ### Work on a pixel (R9 to R21) -/

section
variable {s t : State}

theorem Signals.lookUp {k : Channel} {ts : List Tag} (h : Signals s t) : Signals s (t.lookUp k ts).1 := by
  unfold State.lookUp
  dsimp only
  split
  · exact h
  · exact .faults (h.same rfl)

theorem Signals.allocateAnew {k : Channel} {ts : List Tag} (h : Signals s t) : Signals s (t.allocateAnew k ts).1 := by
  unfold State.allocateAnew
  repeat' split
  · exact h
  · exact .lookUp (h.same rfl)
  · exact h

theorem Signals.refetch {k : Channel} {tag : Tag} (h : Signals s t) : Signals s (t.refetch k tag) := by
  unfold State.refetch
  exact .fault (h.same rfl)

theorem Signals.readTiles {k : Channel} {walk : Walk} {slot : SlotNo} {x : Slot} {p : WaitingPixel} (h : Signals s t) :
    Signals s (t.readTiles k walk slot x p) := by
  unfold State.readTiles State.samplePixel
  dsimp only
  repeat' split
  · exact h.faults.same rfl
  · exact h
  · exact (h.foldl (f := fun u tag => u.refetch k tag) fun _ _ => .refetch .refl).same rfl

theorem Signals.settlePixel {k : Channel} {walk : Walk} {slot : SlotNo} {x : Slot} {p : WaitingPixel} {todo : List Tag}
    (h : Signals s t) : Signals s (t.settlePixel k walk slot x p todo) := by
  unfold State.settlePixel
  dsimp only
  repeat' split
  · exact h.same rfl
  · exact h.same rfl
  · exact h.readTiles
  · exact h.lookUp.same rfl

theorem Signals.seekPixel {k : Channel} {walk : Walk} {p : WaitingPixel} {look : List Tag → State × List Tag}
    (h : Signals s t) (hlook : ∀ ts, Signals s (look ts).1) : Signals s (t.seekPixel k walk p look) := by
  unfold State.seekPixel
  dsimp only
  repeat' split
  · exact h.same rfl
  · exact h.same rfl
  · exact (hlook _).settlePixel

theorem Signals.resumePixel {k : Channel} (h : Signals s t) : Signals s (t.resumePixel k) := by
  unfold State.resumePixel
  repeat' split
  · exact h
  · exact h
  · exact h.seekPixel fun _ => h.allocateAnew
  · exact h

/-- The first edge pixel of a frame raises SOURCE_EDGE. -/
theorem Signals.placePixel {k : Channel} {walk : Walk} {m : TableRecord} {x : Slot} (h : Signals s t) :
    Signals s (t.placePixel k walk m x) := by
  have hseek : ∀ {u : State} {p : WaitingPixel}, Signals s u → Signals s (u.seekPixel k walk p (u.lookUp k)) :=
    fun hu => hu.seekPixel fun _ => hu.lookUp
  unfold State.placePixel
  dsimp only
  split
  · exact hseek (.raise (h.same rfl))
  · exact hseek h

theorem Signals.newPixel {k : Channel} {walk : Walk} {m : TableRecord} {params : FrameParameters} (h : Signals s t) :
    Signals s (t.newPixel k walk m params) := by
  unfold State.newPixel
  dsimp only
  repeat' split
  · exact h.faults.same rfl
  · exact h.faults.same rfl
  · exact h.faults
  · exact h.faults.placePixel

theorem Signals.warpPixel {k : Channel} {walk : Walk} (h : Signals s t) : Signals s (t.warpPixel k walk) := by
  unfold State.warpPixel
  repeat' split
  · exact h
  · exact h.newPixel
  · exact h
  · exact h

end

end Sys2Proof.Machine
end

section
/-! SUPPORT. The commands of the engine, the loader, the links, the ring and the units: which leave the notice queue, the latches
and the enables alone, and which raise conditions. -/

namespace Sys2Proof.Machine

/-! ### The engine's commands -/

theorem State.serve_signals {s : State} {mine : Cell → Bool} {command : Cell → State → Answer}
    (hc : ∀ c t, Signals t (command c t).state) : Leaves (.next (s.serve mine command)) (Signals s) :=
  State.serve_leaves (P := Signals s) (fun _ _ h => h.same rfl) (fun _ _ h => h.same rfl) (fun c t h => h.trans (hc c t)) .refl

theorem State.identifyCommand_signals_eq (c : Cell) (s : State) : (s.identifyCommand c).state.signals = s.signals := by
  unfold State.identifyCommand
  split <;> rfl

theorem State.statusCommand_signals_eq (c : Cell) (s : State) : (s.statusCommand c).state.signals = s.signals := by
  unfold State.statusCommand
  split <;> rfl

theorem State.getCommand_signals_eq (c : Cell) (s : State) : (s.getCommand c).state.signals = s.signals := by
  unfold State.getCommand
  split <;> rfl

theorem State.faultReadCommand_signals_eq (c : Cell) (s : State) : (s.faultReadCommand c).state.signals = s.signals := by
  unfold State.faultReadCommand
  repeat' split
  all_goals rfl

theorem State.restartCommand_signals (c : Cell) (s : State) : Signals s (s.restartCommand c).state := by
  rcases s.restartCommand_cases c with he | ⟨k, m, he, -⟩
  · rw [he]
    exact .refl
  · rw [he]
    exact .movePort .refl

theorem State.resetFullCommand_signals_eq (c : Cell) (s : State) : (s.resetFullCommand c).state.signals = s.signals := by
  unfold State.resetFullCommand
  split <;> rfl

/-- A PIPELINE reset keeps the latches and the queue, and queues the level conditions that it makes true. -/
theorem State.resetPipelineCommand_signals (c : Cell) (s : State) : Signals s (s.resetPipelineCommand c).state := by
  rcases s.resetPipelineCommand_cases c with he | he
  · rw [he]
    exact .refl
  · rw [he, State.pipelineReset_eq]
    exact .levels (.of_eq rfl)

theorem State.openCommand_signals_eq (c : Cell) (s : State) : (s.openCommand c).state.signals = s.signals := by
  unfold State.openCommand
  dsimp only
  repeat' split
  all_goals rfl

theorem State.writeCommand_signals_eq (c : Cell) (s : State) : (s.writeCommand c).state.signals = s.signals := by
  unfold State.writeCommand
  dsimp only
  repeat' split
  all_goals rfl

theorem State.readCommand_signals (c : Cell) (s : State) : Signals s (s.readCommand c).state := by
  unfold State.readCommand
  dsimp only
  repeat' split
  case h_2.isFalse => exact .faults .refl
  all_goals exact .refl

theorem State.sealCommand_signals_eq (c : Cell) (s : State) : (s.sealCommand c).state.signals = s.signals := by
  unfold State.sealCommand
  repeat' split
  all_goals rfl

theorem State.dropCommand_signals_eq (c : Cell) (s : State) : (s.dropCommand c).state.signals = s.signals := by
  unfold State.dropCommand State.dropStaged State.dropLive
  repeat' split
  all_goals rfl

theorem State.swapCommand_signals_eq (c : Cell) (s : State) : (s.swapCommand c).state.signals = s.signals := by
  unfold State.swapCommand
  dsimp only
  repeat' split
  all_goals rfl

theorem State.listCommand_signals_eq (c : Cell) (s : State) : (s.listCommand c).state.signals = s.signals := by
  unfold State.listCommand
  dsimp only
  repeat' split
  all_goals rfl

theorem State.storeCommand_signals_eq (c : Cell) (s : State) : (s.storeCommand c).state.signals = s.signals := by
  unfold State.storeCommand
  repeat' split
  all_goals rfl

theorem State.loadCommand_signals (c : Cell) (s : State) : Signals s (s.loadCommand c).state := by
  unfold State.loadCommand
  dsimp only
  split
  · exact .refl
  split
  · exact .refl
  split
  · exact .refl
  split
  · exact .fault .refl
  split
  · exact .fault (.of_eq rfl)
  repeat' split
  all_goals exact .of_eq rfl

/-! ### The image loader and the default fill -/

theorem execStartupHeaderReadDone_signals (s : State) : Leaves (execStartupHeaderReadDone s) (Signals s) := by
  unfold execStartupHeaderReadDone
  repeat' split
  all_goals exact leaves_next.2 (.of_eq rfl)

theorem execStartupLoadDone_signals (s : State) : Leaves (execStartupLoadDone s) (Signals s) := by
  unfold execStartupLoadDone
  split
  · obtain ⟨he, -⟩ := s.applyTables_frame
    rw [leaves_next, he]
    exact .of_eq rfl
  · exact leaves_next.2 .refl

theorem execDefaultFillPageDone_signals (s : State) : Leaves (execDefaultFillPageDone s) (Signals s) := by
  unfold execDefaultFillPageDone State.fillPageDone
  repeat' split
  all_goals exact leaves_next.2 (.of_eq rfl)

theorem execCompletionEnqueue_signals (op : OpRecord) (s : State) : Leaves (execCompletionEnqueue op s) (Signals s) := by
  unfold execCompletionEnqueue State.enqueueCompletion
  dsimp only
  repeat' split
  all_goals exact leaves_next.2 (.of_eq rfl)

theorem execStorePhaseDone_signals (us : List Upset) (s : State) : Leaves (execStorePhaseDone us s) (Signals s) := by
  have hspoiled : Signals s (s.upsets us) := .upsets .refl
  unfold execStorePhaseDone
  dsimp only
  repeat' split
  · exact leaves_next.2 (hspoiled.runStore.same rfl)
  · exact leaves_next.2 (hspoiled.runStore.same rfl)
  · exact leaves_next.2 hspoiled

theorem execFlashWriteFailed_signals (done : Nat) (s : State) : Leaves (execFlashWriteFailed done s) (Signals s) := by
  unfold execFlashWriteFailed
  split
  · exact leaves_next.2 (Signals.refl.runStore.fault.same rfl)
  · exact leaves_next.2 .refl

theorem execLoadReadDone_signals (s : State) : Leaves (execLoadReadDone s) (Signals s) := by
  unfold execLoadReadDone
  repeat' split
  · exact leaves_next.2 (.of_eq rfl)
  · exact leaves_next.2 (.fault (.of_eq rfl))
  · exact leaves_next.2 .refl

/-! ### Links and records -/

theorem execInputCarrierDetected_signals (k : Channel) (s : State) : Leaves (execInputCarrierDetected k s) (Signals s) := by
  unfold execInputCarrierDetected
  split <;> exact leaves_next.2 (.of_eq rfl)

theorem execInputTrainingDone_signals (k : Channel) (s : State) : Leaves (execInputTrainingDone k s) (Signals s) := by
  unfold execInputTrainingDone
  split <;> exact leaves_next.2 (.of_eq rfl)

/-- A link lost raises the reject of its frame, and its port is no longer LOCKED. -/
theorem State.loseLink_signals (s : State) (k : Channel) : Signals s (s.loseLink k) := by
  unfold State.loseLink
  exact .levels (Signals.refl.take.same rfl)

theorem execInputLinkLost_signals (k : Channel) (s : State) : Leaves (execInputLinkLost k s) (Signals s) := by
  unfold execInputLinkLost
  split
  · exact leaves_next.2 .refl
  · exact leaves_next.2 (s.loseLink_signals k)
  · exact leaves_next.2 (s.loseLink_signals k)

theorem execFrameOpen_signals (k : Channel) (record : Bytes) (s : State) : Leaves (execFrameOpen k record s) (Signals s) := by
  unfold execFrameOpen
  split
  · exact leaves_next.2 (Signals.refl.take.same rfl)
  · exact leaves_next.2 .refl

theorem execLine_signals (k : Channel) (record : Bytes) (s : State) : Leaves (execLine k record s) (Signals s) := by
  unfold execLine
  split <;> exact leaves_next.2 (.of_eq rfl)

theorem execFrameClose_signals (k : Channel) (record : Bytes) (s : State) : Leaves (execFrameClose k record s) (Signals s) := by
  unfold execFrameClose
  split
  · exact leaves_next.2 (.take .refl)
  · exact leaves_next.2 .refl

/-- A cell that the queue does not take raises CELL_DROP. -/
theorem execCell_signals (k : Channel) (record : Bytes) (s : State) : Leaves (execCell k record s) (Signals s) := by
  unfold execCell State.takeCell
  repeat' split
  · exact leaves_next.2 (.raise .refl)
  · exact leaves_next.2 (.of_eq rfl)
  · exact leaves_next.2 (.raise .refl)
  · exact leaves_next.2 .refl

theorem execReverseSendEnd_signals (k : Channel) (s : State) : Leaves (execReverseSendEnd k s) (Signals s) := by
  unfold execReverseSendEnd
  dsimp only
  split <;> exact leaves_next.2 (.of_eq rfl)

theorem State.portEvent_signals {s t : State} {k : Channel} (h : s.portEvent k t) : Signals s t := by
  rcases h with rfl | ⟨n, m, rfl, -⟩
  · exact .refl
  · exact .movePort (.of_eq rfl)

/-! ### The raster timer and the Sky Ring -/

theorem execLineDeadline_signals (s : State) : Leaves (execLineDeadline s) (Signals s) := by
  unfold execLineDeadline
  split
  · exact leaves_next.2 (s.deadlineOf_signals _)
  · exact leaves_next.2 .refl

theorem execMusterHandle_signals (token : Bytes) (s : State) : Leaves (execMusterHandle token s) (Signals s) := by
  unfold execMusterHandle
  split <;> exact leaves_next.2 (.of_eq rfl)

theorem execMusterReturn_signals (token : Bytes) (s : State) : Leaves (execMusterReturn token s) (Signals s) := by
  unfold execMusterReturn State.musterReturned
  repeat' split
  · exact leaves_next.2 .refl
  · exact leaves_next.2 .refl
  · exact leaves_next.2 (.closeMasterRound (.of_eq rfl))
  · exact leaves_next.2 (.closeMasterRound (.fault .refl))
  · exact leaves_next.2 .refl

theorem execShowHandle_signals (token : Bytes) (s : State) : Leaves (execShowHandle token s) (Signals s) := by
  unfold execShowHandle State.showHandled
  dsimp only
  repeat' split
  all_goals exact leaves_next.2 (.of_eq rfl)

theorem execShowReturn_signals (token : Bytes) (s : State) : Leaves (execShowReturn token s) (Signals s) := by
  unfold execShowReturn State.showReturned
  dsimp only
  repeat' split
  all_goals exact leaves_next.2 (.of_eq rfl)

/-! ### The warp and light units -/

theorem execWarpLineBegin_signals (k : Channel) (s : State) : Leaves (execWarpLineBegin k s) (Signals s) := by
  unfold execWarpLineBegin
  dsimp only
  repeat' split
  all_goals exact leaves_next.2 (.of_eq rfl)

theorem execWarpPixel_signals (k : Channel) (us : List Upset) (s : State) : Leaves (execWarpPixel k us s) (Signals s) := by
  unfold execWarpPixel
  dsimp only
  split
  · exact leaves_next.2 (.upsets .refl)
  · exact leaves_next.2 (.warpPixel (.upsets .refl))

theorem execTileFillComplete_signals (k : Channel) (read : Nat) (us : List Upset) (s : State) :
    Leaves (execTileFillComplete k read us s) (Signals s) := by
  unfold execTileFillComplete
  dsimp only
  split
  · exact leaves_next.2 (.upsets .refl)
  · exact leaves_next.2 (.resumePixel (.upsets (.of_eq rfl)))

theorem execTileFillTimeout_signals (k : Channel) (read : Nat) (us : List Upset) (s : State) :
    Leaves (execTileFillTimeout k read us s) (Signals s) := by
  have hspoiled : Signals s (s.upsets us) := .upsets .refl
  unfold execTileFillTimeout State.fillTimeout
  dsimp only
  split
  · exact leaves_next.2 (.resumePixel (.fault (hspoiled.same rfl)))
  · exact leaves_next.2 hspoiled
  · exact leaves_next.2 hspoiled

theorem execLightPixelWrite_signals (k : Channel) (us : List Upset) (s : State) :
    Leaves (execLightPixelWrite k us s) (Signals s) := by
  have hspoiled : Signals s (s.upsets us) := .upsets .refl
  unfold execLightPixelWrite State.lightPixelWrite
  dsimp only
  split
  · exact leaves_next.2 (.faults (hspoiled.same rfl))
  · exact leaves_next.2 hspoiled

end Sys2Proof.Machine
end


section
/-! PROOF. Every step keeps the notices sound (R181, R183, R185, R186): beside the commands that raise conditions alone, SET and
the image set the enables, CLEAR clears latches, a lane sends a notice, and a reset empties the queue. -/

namespace Sys2Proof.Machine

theorem State.resetEvent_noticesSound {s t : State} (h : s.noticesSound = true) (ht : s.resetEvent t) :
    t.noticesSound = true := by
  rcases ht with rfl | ⟨u, straps, fs, o, rfl⟩
  · exact h
  · exact (State.frameEvent_signals (State.firstFrame_frameEvent _)).sound rfl

theorem execSet_noticesSound {s : State} (h : s.noticesSound = true) : Leaves (execSet s) (·.noticesSound = true) := by
  refine State.serve_leaves (P := (·.noticesSound = true)) (fun _ _ => State.noticesSound_of_signals rfl)
    (fun _ _ => State.noticesSound_of_signals rfl) (fun c t ht => ?_) h
  rcases t.setCommand_cases c with he | ⟨id, k, v, he⟩
  · rwa [he]
  · rw [he]
    exact State.storeSetting_sound ht id k v

theorem execClear_noticesSound {s : State} (h : s.noticesSound = true) : Leaves (execClear s) (·.noticesSound = true) :=
  State.serve_leaves (P := (·.noticesSound = true)) (fun _ _ => State.noticesSound_of_signals rfl)
    (fun _ _ => State.noticesSound_of_signals rfl) (fun c _ => State.clearCommand_sound c) h

theorem execImageCheckReadDone_noticesSound {s : State} (h : s.noticesSound = true) :
    Leaves (execImageCheckReadDone s) (·.noticesSound = true) := by
  unfold execImageCheckReadDone
  repeat' split
  · exact leaves_next.2 (State.applySettings_keeps (P := (·.noticesSound = true))
      (fun _ id k v ht => State.storeSetting_sound ht id k v) (State.noticesSound_of_signals rfl h))
  · exact leaves_next.2 (Signals.sound (.fault (.of_eq rfl)) h)
  · exact leaves_next.2 h

theorem execReverseLaneSend_noticesSound (k : Channel) {s : State} (h : s.noticesSound = true) :
    Leaves (execReverseLaneSend k s) (·.noticesSound = true) := by
  unfold execReverseLaneSend
  split
  · exact leaves_next.2 (State.beginSending_sound h k)
  · exact leaves_next.2 h

/-- Every command keeps the notices sound. -/
theorem exec_noticesSound {s : State} (h : s.noticesSound = true) (i : Instr) : Leaves (exec i s) (·.noticesSound = true) := by
  have of_signals : ∀ {o : Host.Outcome State Fault Refusal}, Leaves o (Signals s) → Leaves o (·.noticesSound = true) :=
    fun ho t ht => (ho t ht).sound h
  have of_serve : ∀ {mine : Cell → Bool} {command : Cell → State → Answer}, (∀ c t, Signals t (command c t).state) →
      Leaves (.next (s.serve mine command)) (·.noticesSound = true) := fun hc => of_signals (State.serve_signals hc)
  have of_quiet : ∀ {mine : Cell → Bool} {command : Cell → State → Answer},
      (∀ c t, (command c t).state.signals = t.signals) → Leaves (.next (s.serve mine command)) (·.noticesSound = true) :=
    fun hc => of_serve fun c t => .of_eq (hc c t)
  have of_port : ∀ {o : Host.Outcome State Fault Refusal} {k : Channel}, Leaves o (s.portEvent k) →
      Leaves o (·.noticesSound = true) := fun ho => of_signals fun t ht => State.portEvent_signals (ho t ht)
  have of_frame : ∀ {o : Host.Outcome State Fault Refusal} {us : List Upset}, Leaves o (s.upsets us).frameEvent →
      Leaves o (·.noticesSound = true) := fun ho =>
    of_signals fun t ht => .trans (.upsets .refl) (State.frameEvent_signals (ho t ht))
  have of_reset : ∀ {o : Host.Outcome State Fault Refusal}, Leaves o s.resetEvent → Leaves o (·.noticesSound = true) :=
    fun ho t ht => State.resetEvent_noticesSound h (ho t ht)
  cases i with
  | set => exact execSet_noticesSound h
  | clear => exact execClear_noticesSound h
  | imageCheckReadDone => exact execImageCheckReadDone_noticesSound h
  | reverseLaneSend k => exact execReverseLaneSend_noticesSound k h
  | pinReset arr role pos done => exact of_reset (execPinReset_resetEvent arr role pos done s)
  | resetFullEffect done => exact of_reset (execResetFullEffect_resetEvent done s)
  | frameStart us => exact of_frame (execFrameStart_frameEvent us s)
  | syncPulse us => exact of_frame (execSyncPulse_frameEvent us s)
  | ownStart us => exact of_frame (execOwnStart_frameEvent us s)
  | identify => exact of_quiet State.identifyCommand_signals_eq
  | status => exact of_quiet State.statusCommand_signals_eq
  | get => exact of_quiet State.getCommand_signals_eq
  | faultRead => exact of_quiet State.faultReadCommand_signals_eq
  | restartOutput => exact of_serve State.restartCommand_signals
  | resetFull => exact of_quiet State.resetFullCommand_signals_eq
  | resetPipeline => exact of_serve State.resetPipelineCommand_signals
  | badCommand => exact of_serve (command := State.badCommand) fun _ _ => .refl
  | tableOpen => exact of_quiet State.openCommand_signals_eq
  | tableWrite => exact of_quiet State.writeCommand_signals_eq
  | tableRead us =>
    exact of_signals fun t ht => .trans (.upsets .refl) (State.serve_signals State.readCommand_signals t ht)
  | tableSeal => exact of_quiet State.sealCommand_signals_eq
  | tableDropStaged => exact of_quiet State.dropCommand_signals_eq
  | tableDropLive => exact of_quiet State.dropCommand_signals_eq
  | tableSwap => exact of_quiet State.swapCommand_signals_eq
  | tableList => exact of_quiet State.listCommand_signals_eq
  | store => exact of_quiet State.storeCommand_signals_eq
  | load => exact of_serve State.loadCommand_signals
  | startupHeaderReadDone => exact of_signals (execStartupHeaderReadDone_signals s)
  | startupLoadDone => exact of_signals (execStartupLoadDone_signals s)
  | defaultFillPageDone => exact of_signals (execDefaultFillPageDone_signals s)
  | completionEnqueue op => exact of_signals (execCompletionEnqueue_signals op s)
  | storePhaseDone us => exact of_signals (execStorePhaseDone_signals us s)
  | flashWriteFailed done => exact of_signals (execFlashWriteFailed_signals done s)
  | loadReadDone => exact of_signals (execLoadReadDone_signals s)
  | inputCarrierDetected k => exact of_signals (execInputCarrierDetected_signals k s)
  | inputTrainingDone k => exact of_signals (execInputTrainingDone_signals k s)
  | inputLinkLost k => exact of_signals (execInputLinkLost_signals k s)
  | frameOpen k record => exact of_signals (execFrameOpen_signals k record s)
  | line k record => exact of_signals (execLine_signals k record s)
  | frameClose k record => exact of_signals (execFrameClose_signals k record s)
  | recordUnknown k record => exact leaves_next.2 h
  | cell k record => exact of_signals (execCell_signals k record s)
  | reverseSendEnd k => exact of_signals (execReverseSendEnd_signals k s)
  | lineDeadline => exact of_signals (execLineDeadline_signals s)
  | musterHandle token => exact of_signals (execMusterHandle_signals token s)
  | musterReturn token => exact of_signals (execMusterReturn_signals token s)
  | showHandle token => exact of_signals (execShowHandle_signals token s)
  | showReturn token => exact of_signals (execShowReturn_signals token s)
  | warpLineBegin k => exact of_signals (execWarpLineBegin_signals k s)
  | warpPixel k us => exact of_signals (execWarpPixel_signals k us s)
  | tileFillComplete k read us => exact of_signals (execTileFillComplete_signals k read us s)
  | tileFillTimeout k read us => exact of_signals (execTileFillTimeout_signals k read us s)
  | lightPixelWrite k us => exact of_signals (execLightPixelWrite_signals k us s)
  | statusReport k locked => exact of_port (execStatusReport_portEvent k locked s)
  | reverseCarrierLost k => exact of_port (execReverseCarrierLost_portEvent k s)
  | reportTimeout k => exact of_port (execReportTimeout_portEvent k s)
  | settleExpiry k => exact of_port (execSettleExpiry_portEvent k s)
  | relockExpiry k => exact of_port (execRelockExpiry_portEvent k s)

/-- Settles O5: a notice waits only while its condition is enabled and, for an event condition, latched; what queues a notice
finds that so, and what takes either away withdraws the notice. -/
theorem noticesStaySound : Obligations.NoticesStaySound := fun _ t h ht =>
  step_leaves (P := (·.noticesSound = true)) (fun _ => State.noticesSound_of_signals rfl)
    (fun _ _ => State.noticesSound_of_signals rfl) (fun _ => exec_noticesSound) h t ht

end Sys2Proof.Machine
end

section
/-! SUPPORT. The flash (R193, R194, R197): the shared operations and the engine's commands leave it alone. -/

namespace Sys2Proof.Machine

/-! ### Shared operations -/

@[simp] theorem State.raise_flash (s : State) (c : Cond) : (s.raise c).flash = s.flash := by
  obtain ⟨ns, h⟩ := s.raise_spec c
  rw [h]

@[simp] theorem State.raiseAll_flash (s : State) (cs : List Cond) : (s.raiseAll cs).flash = s.flash := by
  obtain ⟨l, ns, h⟩ := s.raiseAll_spec cs
  rw [h]

@[simp] theorem State.recordFaults_flash (s : State) (fs : List FaultRecord) : (s.recordFaults fs).flash = s.flash := by
  obtain ⟨gs, o, l, ns, h⟩ := s.recordFaults_spec fs
  rw [h]

@[simp] theorem State.recordFault_flash (s : State) (f : FaultRecord) : (s.recordFault f).flash = s.flash :=
  s.recordFaults_flash [f]

@[simp] theorem State.levelNotices_flash (s before : State) : (s.levelNotices before).flash = s.flash := by
  obtain ⟨ns, h⟩ := s.levelNotices_spec before
  rw [h]

@[simp] theorem State.upsets_flash (s : State) (us : List Upset) : (s.upsets us).flash = s.flash := by
  obtain ⟨dir, w, h⟩ := s.upsets_spec us
  rw [h]

@[simp] theorem State.movePort_flash (s : State) (k : Channel) (m : OutputPort × Bool) : (s.movePort k m).flash = s.flash := by
  obtain ⟨w, l, b, ns, h⟩ := s.movePort_spec k m
  rw [h]

@[simp] theorem State.storeSetting_flash (s : State) (id : SettingId) (k : Channel) (v : Nat) :
    (s.storeSetting id k v).flash = s.flash := by
  obtain ⟨ns, h, -⟩ := s.storeSetting_spec id k v
  rw [h]

@[simp] theorem State.take_flash (s : State) (k : Channel) (r : Received) : (s.take k r).flash = s.flash :=
  State.raiseAll_flash _ _

@[simp] theorem State.loseLink_flash (s : State) (k : Channel) : (s.loseLink k).flash = s.flash := by
  rw [State.loseLink, State.levelNotices_flash]
  exact s.take_flash k _

@[simp] theorem State.closeMasterRound_flash (s : State) (r : Round) (ready : Bool) (v : Vec32) :
    (s.closeMasterRound r ready v).flash = s.flash := by
  obtain ⟨x, h, -⟩ := s.closeMasterRound_spec r ready v
  rw [h]

@[simp] theorem State.deadlineOf_flash (s : State) (v : Nat) : (s.deadlineOf v).flash = s.flash := by
  obtain ⟨p, w, u, b, ns, c, r, m, n, h, -⟩ := s.deadlineOf_eq v
  rw [h]

@[simp] theorem State.pipelineReset_flash (s : State) : s.pipelineReset.flash = s.flash := by
  rw [State.pipelineReset_eq, State.levelNotices_flash]
  rfl

theorem State.pixelWork_flash {s t : State} {k : Channel} {walk : Walk} (h : s.pixelWork t k walk) : t.flash = s.flash := by
  obtain ⟨u, ⟨w, gs, o, l, ns, rfl, -, -⟩, rfl | ⟨p, rfl⟩ | ⟨how, rfl⟩⟩ := h <;> rfl

@[simp] theorem State.warpPixel_flash (s : State) (k : Channel) (walk : Walk) : (s.warpPixel k walk).flash = s.flash := by
  rcases s.warpPixel_cases k walk with he | ⟨-, hw⟩
  · rw [he]
  · exact State.pixelWork_flash hw

@[simp] theorem State.resumePixel_flash (s : State) (k : Channel) : (s.resumePixel k).flash = s.flash := by
  rcases s.resumePixel_cases k with he | ⟨walk, p, -, -, hw⟩
  · rw [he]
  · exact State.pixelWork_flash hw

@[simp] theorem State.frameStart_flash (s : State) (own : Bool) : (s.frameStart own).flash = s.flash := by
  obtain ⟨-, -, -, -, -, -, -, -, -, hflash, -⟩ := s.frameStart_keeps own
  exact hflash

theorem State.frameEvent_flash {s t : State} (h : s.frameEvent t) : t.flash = s.flash := by
  rcases h with rfl | ⟨n, rfl⟩ | ⟨n, own, rfl⟩
  · rfl
  · simp [State.ownerFrame]
  · simp [State.followerFrame]

theorem State.portEvent_flash {s t : State} {k : Channel} (h : s.portEvent k t) : t.flash = s.flash := by
  rcases h with rfl | ⟨n, m, rfl, -⟩
  · rfl
  · simp

/-! ### The engine's commands -/

/-- Serving a cell leaves the flash where the command does. -/
theorem State.serve_flash {s : State} {mine : Cell → Bool} {command : Cell → State → Answer}
    (hc : ∀ c t, (command c t).state.flash = t.flash) : Leaves (.next (s.serve mine command)) (·.flash = s.flash) :=
  State.serve_leaves (P := fun t => t.flash = s.flash) (fun _ _ h => h) (fun _ _ h => h) (fun c t h => (hc c t).trans h) rfl

theorem State.identifyCommand_flash (c : Cell) (s : State) : (s.identifyCommand c).state.flash = s.flash := by
  unfold State.identifyCommand
  split <;> rfl

theorem State.statusCommand_flash (c : Cell) (s : State) : (s.statusCommand c).state.flash = s.flash := by
  unfold State.statusCommand
  split <;> rfl

theorem State.setCommand_flash (c : Cell) (s : State) : (s.setCommand c).state.flash = s.flash := by
  rcases s.setCommand_cases c with he | ⟨id, k, v, he⟩ <;> simp [he]

theorem State.getCommand_flash (c : Cell) (s : State) : (s.getCommand c).state.flash = s.flash := by
  unfold State.getCommand
  split <;> rfl

theorem State.clearCommand_flash (c : Cell) (s : State) : (s.clearCommand c).state.flash = s.flash := by
  unfold State.clearCommand
  split <;> rfl

theorem State.faultReadCommand_flash (c : Cell) (s : State) : (s.faultReadCommand c).state.flash = s.flash := by
  unfold State.faultReadCommand
  repeat' split
  all_goals rfl

theorem State.restartCommand_flash (c : Cell) (s : State) : (s.restartCommand c).state.flash = s.flash := by
  rcases s.restartCommand_cases c with he | ⟨k, m, he, -⟩ <;> simp [he]

theorem State.resetFullCommand_flash (c : Cell) (s : State) : (s.resetFullCommand c).state.flash = s.flash := by
  unfold State.resetFullCommand
  split <;> rfl

theorem State.resetPipelineCommand_flash (c : Cell) (s : State) : (s.resetPipelineCommand c).state.flash = s.flash := by
  rcases s.resetPipelineCommand_cases c with he | he <;> simp [he]

theorem State.openCommand_flash (c : Cell) (s : State) : (s.openCommand c).state.flash = s.flash := by
  unfold State.openCommand
  dsimp only
  repeat' split
  all_goals rfl

theorem State.writeCommand_flash (c : Cell) (s : State) : (s.writeCommand c).state.flash = s.flash := by
  unfold State.writeCommand
  dsimp only
  repeat' split
  all_goals rfl

theorem State.readCommand_flash (c : Cell) (s : State) : (s.readCommand c).state.flash = s.flash := by
  unfold State.readCommand
  dsimp only
  repeat' split
  all_goals simp

theorem State.sealCommand_flash (c : Cell) (s : State) : (s.sealCommand c).state.flash = s.flash := by
  unfold State.sealCommand
  repeat' split
  all_goals rfl

theorem State.dropCommand_flash (c : Cell) (s : State) : (s.dropCommand c).state.flash = s.flash := by
  unfold State.dropCommand State.dropStaged State.dropLive
  repeat' split
  all_goals rfl

theorem State.swapCommand_flash (c : Cell) (s : State) : (s.swapCommand c).state.flash = s.flash := by
  unfold State.swapCommand
  dsimp only
  repeat' split
  all_goals rfl

theorem State.listCommand_flash (c : Cell) (s : State) : (s.listCommand c).state.flash = s.flash := by
  unfold State.listCommand
  dsimp only
  repeat' split
  all_goals rfl

/-- STORE begins its operation; the flash changes as its phases end. -/
theorem State.storeCommand_flash (c : Cell) (s : State) : (s.storeCommand c).state.flash = s.flash := by
  unfold State.storeCommand
  repeat' split
  all_goals rfl

theorem State.loadCommand_flash (c : Cell) (s : State) : (s.loadCommand c).state.flash = s.flash := by
  unfold State.loadCommand
  dsimp only
  repeat' split
  all_goals simp

end Sys2Proof.Machine
end

section
/-! SUPPORT. The commands of the loader, the links, the ring and the units: only the operations of a STORE change the flash
(R197 to R199). -/

namespace Sys2Proof.Machine

/-! ### The image loader and the default fill -/

theorem execStartupHeaderReadDone_flash (s : State) : Leaves (execStartupHeaderReadDone s) (·.flash = s.flash) := by
  unfold execStartupHeaderReadDone State.endStartup
  repeat' split
  all_goals simp

theorem execImageCheckReadDone_flash (s : State) : Leaves (execImageCheckReadDone s) (·.flash = s.flash) := by
  unfold execImageCheckReadDone State.endStartup
  repeat' split
  · exact leaves_next.2 (State.applySettings_keeps (P := (·.flash = s.flash)) (fun t id k v ht => by simp [ht]) rfl)
  · simp
  · simp

theorem execStartupLoadDone_flash (s : State) : Leaves (execStartupLoadDone s) (·.flash = s.flash) := by
  unfold execStartupLoadDone
  split
  · obtain ⟨he, -⟩ := s.applyTables_frame
    rw [leaves_next, he]
    rfl
  · simp

theorem execDefaultFillPageDone_flash (s : State) : Leaves (execDefaultFillPageDone s) (·.flash = s.flash) := by
  unfold execDefaultFillPageDone State.fillPageDone
  repeat' split
  all_goals exact leaves_next.2 rfl

theorem execCompletionEnqueue_flash (op : OpRecord) (s : State) : Leaves (execCompletionEnqueue op s) (·.flash = s.flash) := by
  unfold execCompletionEnqueue State.enqueueCompletion
  dsimp only
  repeat' split
  all_goals exact leaves_next.2 rfl

theorem execLoadReadDone_flash (s : State) : Leaves (execLoadReadDone s) (·.flash = s.flash) := by
  unfold execLoadReadDone
  repeat' split
  all_goals simp

/-! ### Links and records -/

theorem execInputCarrierDetected_flash (k : Channel) (s : State) : Leaves (execInputCarrierDetected k s) (·.flash = s.flash) := by
  unfold execInputCarrierDetected
  split <;> exact leaves_next.2 rfl

theorem execInputTrainingDone_flash (k : Channel) (s : State) : Leaves (execInputTrainingDone k s) (·.flash = s.flash) := by
  unfold execInputTrainingDone
  split <;> exact leaves_next.2 rfl

theorem execInputLinkLost_flash (k : Channel) (s : State) : Leaves (execInputLinkLost k s) (·.flash = s.flash) := by
  unfold execInputLinkLost
  split <;> simp

theorem execFrameOpen_flash (k : Channel) (record : Bytes) (s : State) :
    Leaves (execFrameOpen k record s) (·.flash = s.flash) := by
  unfold execFrameOpen
  split <;> simp

theorem execLine_flash (k : Channel) (record : Bytes) (s : State) : Leaves (execLine k record s) (·.flash = s.flash) := by
  unfold execLine
  split <;> exact leaves_next.2 rfl

theorem execFrameClose_flash (k : Channel) (record : Bytes) (s : State) :
    Leaves (execFrameClose k record s) (·.flash = s.flash) := by
  unfold execFrameClose
  split <;> simp

theorem execCell_flash (k : Channel) (record : Bytes) (s : State) : Leaves (execCell k record s) (·.flash = s.flash) := by
  unfold execCell State.takeCell
  repeat' split
  all_goals simp

theorem execReverseLaneSend_flash (k : Channel) (s : State) : Leaves (execReverseLaneSend k s) (·.flash = s.flash) := by
  unfold execReverseLaneSend State.beginSending
  dsimp only
  repeat' split
  all_goals exact leaves_next.2 rfl

theorem execReverseSendEnd_flash (k : Channel) (s : State) : Leaves (execReverseSendEnd k s) (·.flash = s.flash) := by
  unfold execReverseSendEnd
  dsimp only
  split <;> exact leaves_next.2 rfl

/-! ### The raster timer and the Sky Ring -/

theorem execLineDeadline_flash (s : State) : Leaves (execLineDeadline s) (·.flash = s.flash) := by
  unfold execLineDeadline
  split <;> simp

theorem execMusterHandle_flash (token : Bytes) (s : State) : Leaves (execMusterHandle token s) (·.flash = s.flash) := by
  unfold execMusterHandle
  split <;> exact leaves_next.2 rfl

theorem execMusterReturn_flash (token : Bytes) (s : State) : Leaves (execMusterReturn token s) (·.flash = s.flash) := by
  unfold execMusterReturn State.musterReturned
  repeat' split
  all_goals simp

theorem execShowHandle_flash (token : Bytes) (s : State) : Leaves (execShowHandle token s) (·.flash = s.flash) := by
  unfold execShowHandle State.showHandled
  dsimp only
  repeat' split
  all_goals exact leaves_next.2 rfl

theorem execShowReturn_flash (token : Bytes) (s : State) : Leaves (execShowReturn token s) (·.flash = s.flash) := by
  unfold execShowReturn State.showReturned
  dsimp only
  repeat' split
  all_goals exact leaves_next.2 rfl

/-! ### The warp and light units -/

theorem execWarpLineBegin_flash (k : Channel) (s : State) : Leaves (execWarpLineBegin k s) (·.flash = s.flash) := by
  unfold execWarpLineBegin
  dsimp only
  repeat' split
  all_goals exact leaves_next.2 rfl

theorem execWarpPixel_flash (k : Channel) (us : List Upset) (s : State) : Leaves (execWarpPixel k us s) (·.flash = s.flash) := by
  unfold execWarpPixel
  dsimp only
  split <;> simp

theorem execTileFillComplete_flash (k : Channel) (read : Nat) (us : List Upset) (s : State) :
    Leaves (execTileFillComplete k read us s) (·.flash = s.flash) := by
  unfold execTileFillComplete
  dsimp only
  split <;> simp

theorem execTileFillTimeout_flash (k : Channel) (read : Nat) (us : List Upset) (s : State) :
    Leaves (execTileFillTimeout k read us s) (·.flash = s.flash) := by
  unfold execTileFillTimeout State.fillTimeout
  dsimp only
  split <;> simp

theorem execLightPixelWrite_flash (k : Channel) (us : List Upset) (s : State) :
    Leaves (execLightPixelWrite k us s) (·.flash = s.flash) := by
  unfold execLightPixelWrite State.lightPixelWrite
  dsimp only
  split <;> simp

/-! ### The operations of a STORE (R197 to R199) -/

/-- From `s` to `t` the flash has taken some number of the operations of a list of jobs, and nothing else. -/
def State.flashWorked (s t : State) : Prop := ∃ (jobs : List FlashJob) (n : Nat), t.flash = runJobs jobs n s.flash

theorem State.flashWorked_of_eq {s t : State} (h : t.flash = s.flash) : s.flashWorked t := ⟨[], 0, h⟩

theorem State.flashWorked_wf {s t : State} (h : s.flashWorked t) (hs : Memory.wf s.flash = true) : Memory.wf t.flash = true := by
  obtain ⟨jobs, n, ht⟩ := h
  rw [ht]
  exact runJobs_wf jobs n _ hs

@[simp] theorem State.runStore_flash (s : State) (n : Nat) : (s.runStore n).flash = runJobs s.storeJobs n s.flash := by
  obtain ⟨gs, o, l, ns, h⟩ := s.runStore_spec n
  rw [h]

theorem State.runStore_flashWorked {s t : State} (h : t.flash = s.flash) (n : Nat) : s.flashWorked (t.runStore n) :=
  ⟨t.storeJobs, n, by rw [State.runStore_flash, h]⟩

@[simp] theorem State.firstFrame_flash (s : State) : s.firstFrame.flash = s.flash :=
  State.frameEvent_flash (State.firstFrame_frameEvent s)

@[simp] theorem State.resetValues_flash (s : State) (straps : StrapRecord) (fs : List FaultRecord) (o : Bool) :
    (s.resetValues straps fs o).flash = s.flash := rfl

theorem execStorePhaseDone_flashWorked (us : List Upset) (s : State) : Leaves (execStorePhaseDone us s) s.flashWorked := by
  unfold execStorePhaseDone
  dsimp only
  repeat' split
  · exact leaves_next.2 (State.runStore_flashWorked (s.upsets_flash us) _)
  · exact leaves_next.2 (State.runStore_flashWorked (s.upsets_flash us) _)
  · exact leaves_next.2 (State.flashWorked_of_eq (s.upsets_flash us))

theorem execFlashWriteFailed_flashWorked (done : Nat) (s : State) : Leaves (execFlashWriteFailed done s) s.flashWorked := by
  unfold execFlashWriteFailed
  split
  · exact leaves_next.2 ⟨s.storeJobs, done, by simp⟩
  · exact leaves_next.2 (State.flashWorked_of_eq rfl)

theorem execPinReset_flashWorked (arr role : BitVec 2) (pos : BitVec 3) (done : Nat) (s : State) :
    Leaves (execPinReset arr role pos done s) s.flashWorked :=
  leaves_next.2 ⟨s.storeJobs, done, by simp⟩

theorem execResetFullEffect_flashWorked (done : Nat) (s : State) : Leaves (execResetFullEffect done s) s.flashWorked := by
  unfold execResetFullEffect
  repeat' split
  · exact leaves_next.2 ⟨s.storeJobs, done, by simp⟩
  · exact leaves_next.2 (State.flashWorked_of_eq rfl)
  · exact leaves_next.2 (State.flashWorked_of_eq rfl)

/-- Every command leaves the flash as it was, or as some operations of the STORE in progress leave it. -/
theorem exec_flashWorked (i : Instr) (s : State) : Leaves (exec i s) s.flashWorked := by
  have of_eq : ∀ {o : Host.Outcome State Fault Refusal}, Leaves o (·.flash = s.flash) → Leaves o s.flashWorked :=
    fun ho t ht => State.flashWorked_of_eq (ho t ht)
  have of_serve : ∀ {mine : Cell → Bool} {command : Cell → State → Answer}, (∀ c t, (command c t).state.flash = t.flash) →
      Leaves (.next (s.serve mine command)) s.flashWorked := fun hc => of_eq (State.serve_flash hc)
  have of_port : ∀ {o : Host.Outcome State Fault Refusal} {k : Channel}, Leaves o (s.portEvent k) → Leaves o s.flashWorked :=
    fun ho => of_eq fun t ht => State.portEvent_flash (ho t ht)
  have of_frame : ∀ {o : Host.Outcome State Fault Refusal} {us : List Upset}, Leaves o (s.upsets us).frameEvent →
      Leaves o s.flashWorked := fun ho => of_eq fun t ht => (State.frameEvent_flash (ho t ht)).trans (s.upsets_flash _)
  cases i with
  | storePhaseDone us => exact execStorePhaseDone_flashWorked us s
  | flashWriteFailed done => exact execFlashWriteFailed_flashWorked done s
  | pinReset arr role pos done => exact execPinReset_flashWorked arr role pos done s
  | resetFullEffect done => exact execResetFullEffect_flashWorked done s
  | startupHeaderReadDone => exact of_eq (execStartupHeaderReadDone_flash s)
  | imageCheckReadDone => exact of_eq (execImageCheckReadDone_flash s)
  | startupLoadDone => exact of_eq (execStartupLoadDone_flash s)
  | inputCarrierDetected k => exact of_eq (execInputCarrierDetected_flash k s)
  | inputTrainingDone k => exact of_eq (execInputTrainingDone_flash k s)
  | inputLinkLost k => exact of_eq (execInputLinkLost_flash k s)
  | frameOpen k record => exact of_eq (execFrameOpen_flash k record s)
  | line k record => exact of_eq (execLine_flash k record s)
  | frameClose k record => exact of_eq (execFrameClose_flash k record s)
  | recordUnknown k record => exact of_eq (leaves_next.2 rfl)
  | cell k record => exact of_eq (execCell_flash k record s)
  | identify => exact of_serve State.identifyCommand_flash
  | status => exact of_serve State.statusCommand_flash
  | set => exact of_serve State.setCommand_flash
  | get => exact of_serve State.getCommand_flash
  | clear => exact of_serve State.clearCommand_flash
  | faultRead => exact of_serve State.faultReadCommand_flash
  | restartOutput => exact of_serve State.restartCommand_flash
  | resetFull => exact of_serve State.resetFullCommand_flash
  | resetPipeline => exact of_serve State.resetPipelineCommand_flash
  | badCommand => exact of_serve (command := State.badCommand) fun _ _ => rfl
  | tableOpen => exact of_serve State.openCommand_flash
  | tableWrite => exact of_serve State.writeCommand_flash
  | tableRead us =>
    exact of_eq fun t ht => (State.serve_flash State.readCommand_flash t ht).trans (s.upsets_flash us)
  | tableSeal => exact of_serve State.sealCommand_flash
  | tableDropStaged => exact of_serve State.dropCommand_flash
  | tableDropLive => exact of_serve State.dropCommand_flash
  | tableSwap => exact of_serve State.swapCommand_flash
  | tableList => exact of_serve State.listCommand_flash
  | store => exact of_serve State.storeCommand_flash
  | load => exact of_serve State.loadCommand_flash
  | defaultFillPageDone => exact of_eq (execDefaultFillPageDone_flash s)
  | completionEnqueue op => exact of_eq (execCompletionEnqueue_flash op s)
  | loadReadDone => exact of_eq (execLoadReadDone_flash s)
  | reverseLaneSend k => exact of_eq (execReverseLaneSend_flash k s)
  | reverseSendEnd k => exact of_eq (execReverseSendEnd_flash k s)
  | frameStart us => exact of_frame (execFrameStart_frameEvent us s)
  | syncPulse us => exact of_frame (execSyncPulse_frameEvent us s)
  | ownStart us => exact of_frame (execOwnStart_frameEvent us s)
  | lineDeadline => exact of_eq (execLineDeadline_flash s)
  | musterHandle token => exact of_eq (execMusterHandle_flash token s)
  | musterReturn token => exact of_eq (execMusterReturn_flash token s)
  | showHandle token => exact of_eq (execShowHandle_flash token s)
  | showReturn token => exact of_eq (execShowReturn_flash token s)
  | warpLineBegin k => exact of_eq (execWarpLineBegin_flash k s)
  | warpPixel k us => exact of_eq (execWarpPixel_flash k us s)
  | tileFillComplete k read us => exact of_eq (execTileFillComplete_flash k read us s)
  | tileFillTimeout k read us => exact of_eq (execTileFillTimeout_flash k read us s)
  | lightPixelWrite k us => exact of_eq (execLightPixelWrite_flash k us s)
  | statusReport k locked => exact of_port (execStatusReport_portEvent k locked s)
  | reverseCarrierLost k => exact of_port (execReverseCarrierLost_portEvent k s)
  | reportTimeout k => exact of_port (execReportTimeout_portEvent k s)
  | settleExpiry k => exact of_port (execSettleExpiry_portEvent k s)
  | relockExpiry k => exact of_port (execRelockExpiry_portEvent k s)

/-- Settles O13: only the operations of a STORE change the flash, and each erase and each programming keeps its form. -/
theorem flashStaysCanonical : Obligations.FlashStaysCanonical := fun _ t h ht =>
  step_leaves (P := fun s => Memory.wf s.flash = true) (fun _ h => h) (fun _ _ h => h)
    (fun s h i t ht => State.flashWorked_wf (exec_flashWorked i s t ht) h) h t ht

end Sys2Proof.Machine
end

section
/-! SUPPORT. The first frame start after a pin or FULL reset (R123, R164, R192): on the reset values each block of a frame start
finds nothing to change but the loss selector's counts and the fit of the tables. -/

namespace Sys2Proof.Machine

/-! ### Level conditions with every notice disabled (R160, R183) -/

theorem State.levelNotices_disabled {s : State} (h : s.settings.noticeEnable = 0) (before : State) :
    s.levelNotices before = s := by
  have hoff : ∀ c, s.enabled c = false := fun c => by simp [State.enabled, h]
  unfold State.levelNotices
  induction Cond.levels with
  | nil => rfl
  | cons c rest ih => rw [List.foldl_cons, hoff, Bool.false_and, Bool.false_and, if_neg Bool.false_ne_true, ih]

/-! ### The slots and coherence (R88 to R91, R111, R112) -/

theorem SlotRing.reset_slot (i : SlotNo) : SlotRing.reset.slots.get i = .reset := by
  revert i
  exact forall_slot.2 ⟨rfl, rfl, rfl⟩

/-- REPEAT on a ring at its reset value leaves it there and raises nothing. -/
theorem State.decideChannel_reset {s : State} {k : Channel} (h : s.rings.get k = .reset) :
    s.decideChannel .repeat k = (.reset, []) := by
  have hidle : ∀ p, SlotRing.reset.decideInactive p = SlotRing.reset := fun p => by cases p <;> rfl
  unfold State.decideChannel
  dsimp only
  rw [h, hidle]
  cases s.hasChannel k <;> cases s.active k <;> rfl

/-- The coherence unit of a master or solo part keeps its reset value. -/
theorem State.cohAtFrameStart_reset {s : State} (hc : s.coh = .reset) (h : s.straps.role ≠ .follower) :
    s.cohAtFrameStart = .reset := by
  unfold State.cohAtFrameStart
  rw [hc]
  cases hr : s.straps.role with
  | master => rfl
  | solo => rfl
  | follower => exact absurd hr h

theorem State.ringLostFault_reset {s : State} (hc : s.coh = .reset) : s.ringLostFault = [] := by
  unfold State.ringLostFault
  rw [hc]
  cases s.straps.role <;> rfl

section

variable (s : State) (straps : StrapRecord) (fs : List FaultRecord) (o : Bool)

theorem State.showFrame_resetValues (h : straps.role ≠ .follower) :
    (s.resetValues straps fs o).showFrame = (s.useFree 4).resetValues straps fs o := by
  have hcoh : (s.resetValues straps fs o).cohAtFrameStart = .reset := State.cohAtFrameStart_reset rfl h
  have hring : ∀ k, (s.resetValues straps fs o).decideChannel .repeat k = (.reset, []) :=
    fun k => State.decideChannel_reset (Quad.get_all _ k)
  have hout : (s.resetValues straps fs o).coh.outcome = .repeat := rfl
  have hsame : (s.resetValues straps fs o).setCoh .reset = s.resetValues straps fs o := rfl
  unfold State.showFrame
  dsimp only
  rw [hcoh, hout, hsame, State.ringLostFault_reset rfl, State.recordFaults_nil, State.decisionRaises]
  simp only [hring]
  exact (State.raiseAll_nil _).trans (by simp only [State.decideSlots, hring]; rfl)

/-! ### Modes (R136) -/

theorem State.takeModes_resetValues : (s.resetValues straps fs o).takeModes = s.resetValues straps fs o := by
  have hmodes : ∀ k, (if (s.resetValues straps fs o).hasChannel k then Settings.reset.outputMode.get k
      else (s.resetValues straps fs o).modes.get k) = (Quad.all OutputMode.video).get k := fun k => by
    split <;> rfl
  have hq := Quad.ext_get (p := Quad.of _) (q := Quad.all OutputMode.video) fun k => (Quad.get_of _ k).trans (hmodes k)
  unfold State.takeModes
  exact congrArg (fun q => { s.resetValues straps fs o with modes := q }) hq

/-! ### The loss selector and the fit test (R72, R140, R142, R146) -/

/-- The loss selector at its reset value but that the outputs `framed` have been counted down once. -/
def LossSelector.counted (framed : Channel → Bool) : LossSelector :=
  { LossSelector.reset with count := Quad.of fun k => if framed k then 1 else 0 }

/-- A vector of all ones takes the own bits of confirmed outputs unchanged. -/
theorem State.writeOwnBits_allOnes {s : State} (h : s.loss.confirmed = Quad.all true) :
    s.writeOwnBits (BitVec.allOnes 32) = BitVec.allOnes 32 := by
  have hbit : ∀ j : Channel, (confirmedNibble s.loss.confirmed).testBit j = true := fun j => by
    rw [confirmedNibble_testBit, h, Quad.get_all]
  refine BitVec.eq_of_getLsbD_eq fun n hn => ?_
  rw [s.ownBits_writeOwnBits _ n hn]
  split
  next hr => rw [hbit ⟨n - s.straps.firstBit, by omega⟩, BitVec.getLsbD_allOnes, decide_eq_true hn]
  next => rfl

theorem State.filterOutputs_eq (t : State) (up : Quad Bool) : t.filterOutputs up = { t with loss := { t.loss with
    confirmed := Quad.of fun k => (t.filtered up k).1, count := Quad.of fun k => (t.filtered up k).2 } } := rfl

/-- The part on its reset values with its outputs counted down once. -/
def State.resetCounted : State := { s.resetValues straps fs o with loss := .counted straps.arrangement.hasChannel }

/-- Every output of the arrangement, ABSENT at reset, is counted down once. -/
theorem State.filterOutputs_resetValues :
    (s.resetValues straps fs o).filterOutputs (s.resetValues straps fs o).upOutputs = s.resetCounted straps fs o := by
  have hup : ∀ k, (s.resetValues straps fs o).upOutputs.get k = false := forall_channel.2 ⟨rfl, rfl, rfl, rfl⟩
  have hfiltered : ∀ k, (s.resetValues straps fs o).filtered (s.resetValues straps fs o).upOutputs k =
      (true, if straps.arrangement.hasChannel k then 1 else 0) := fun k => by
    have hconfirmed : (s.resetValues straps fs o).loss.confirmed.get k = true := Quad.get_all true k
    have hcount : (s.resetValues straps fs o).loss.count.get k = 0 := Quad.get_all 0 k
    have hhas : (s.resetValues straps fs o).hasOutput k = straps.arrangement.hasChannel k := rfl
    rw [State.filtered, hup, hhas, hconfirmed, hcount]
    cases straps.arrangement.hasChannel k <;> rfl
  have hof := State.filterOutputs_eq (s.resetValues straps fs o) (s.resetValues straps fs o).upOutputs
  simp only [hfiltered] at hof
  exact hof

theorem State.applyVector_resetCounted : (s.resetCounted straps fs o).applyVector none = s.resetCounted straps fs o := by
  have hsame : (s.resetCounted straps fs o).newVector none = (s.resetCounted straps fs o).loss.applied :=
    State.writeOwnBits_allOnes rfl
  unfold State.applyVector
  dsimp only
  rw [if_pos hsame, hsame]

/-- Without a LOSSMAP every set chosen is set 0, which is never missing. -/
theorem State.selectSets_resetCounted : (s.resetCounted straps fs o).chooseSets.selectSets = s.resetCounted straps fs o := by
  have hchosen : ∀ k, (if (s.resetCounted straps fs o).hasChannel k then
      chooseSet none (s.resetCounted straps fs o).loss.applied k else (s.resetCounted straps fs o).loss.chosen.get k) = 0 :=
    fun k => by
      split
      · rfl
      · exact Quad.get_all 0 k
  have hchoose : (s.resetCounted straps fs o).chooseSets = s.resetCounted straps fs o := by
    have hmap : (s.resetCounted straps fs o).lossmap = none := rfl
    unfold State.chooseSets
    rw [hmap]
    simp only [hchosen]
    rfl
  have hmissing : (s.resetCounted straps fs o).setIsMissing = fun _ => false := funext fun k => by
    have hzero : (s.resetCounted straps fs o).loss.chosen.get k = 0 := Quad.get_all 0 k
    simp [State.setIsMissing, hzero]
  rw [hchoose, State.selectSets, hmissing]
  rfl

theorem State.lossAtFrameStart_resetValues :
    (s.resetValues straps fs o).lossAtFrameStart (s.resetValues straps fs o).upOutputs none = s.resetCounted straps fs o := by
  unfold State.lossAtFrameStart
  rw [State.filterOutputs_resetValues, State.applyVector_resetCounted, State.selectSets_resetCounted]

/-- The part on its reset values when the warp and light units come to the first frame start: every channel of the arrangement
is unfit, since the start-up load runs (R72, R196). -/
def State.resetFramed : State :=
  ((s.useFree 4).resetCounted straps fs o).setTables { TableStore.reset with unfit := Quad.of straps.arrangement.hasChannel }

theorem State.framed_resetValues (h : straps.role ≠ .follower) :
    (s.resetValues straps fs o).framed = s.resetFramed straps fs o := by
  have hbefore : (s.resetValues straps fs o).beforeLoss = (s.useFree 4).resetValues straps fs o := by
    unfold State.beforeLoss
    rw [State.showFrame_resetValues s straps fs o h]
    exact State.takeModes_resetValues _ _ _ _
  have hunfit : ((s.useFree 4).resetCounted straps fs o).channelUnfit = straps.arrangement.hasChannel :=
    funext fun k => Bool.and_true _
  rw [State.framed_eq, hbefore]
  refine (congrArg State.fitTest (State.lossAtFrameStart_resetValues (s.useFree 4) straps fs o)).trans ?_
  rw [State.fitTest, hunfit]
  rfl

end

/-! ### The warp and light units during a start-up load (R4, R33, R196) -/

/-- During a start-up load a frame start takes no table, so it reads no entry that could be bad. -/
theorem State.channelStart_starting {s : State} (h : s.loader.starting = true) (k : Channel) :
    s.channelStart k = { s with warps := s.warps.set k (s.startedWarp k), lights := s.lights.set k (s.startedLight k) } := by
  have htone : (s.takeParams k).tone = none := if_pos h
  unfold State.channelStart State.startedWarp State.startedLight
  split
  · dsimp only
    rw [htone]
    rfl
  · rw [Quad.set_get, Quad.set_get]

theorem State.channelStarts_starting {s : State} (h : s.loader.starting = true) :
    ∃ (w : Quad WarpUnit) (u : Quad LightUnit), channels.foldl State.channelStart s = { s with warps := w, lights := u }
      ∧ ∀ k, w.get k = s.startedWarp k ∧ u.get k = s.startedLight k := by
  rw [foldl_channels, State.channelStart_starting h 0, State.channelStart_starting ?_ 1, State.channelStart_starting ?_ 2,
    State.channelStart_starting ?_ 3]
  · exact ⟨_, _, rfl, forall_channel.2 ⟨⟨rfl, rfl⟩, ⟨rfl, rfl⟩, ⟨rfl, rfl⟩, ⟨rfl, rfl⟩⟩⟩
  all_goals exact h

/-! ### The first frame of the warp and light units (R4, R33, R34) -/

/-- The frame parameters of the reset settings and a store without tables (R33, R160). -/
def FrameParameters.untabled : FrameParameters := ⟨.video, none, none, matrixOf none, true, ⟨512, 512, 512⟩, none⟩

/-- The light unit that has taken these, for a frame without lines. -/
def LightUnit.untabled : LightUnit := ⟨some .untabled, .noLines, [], [], none⟩

section

variable (s : State) (straps : StrapRecord) (fs : List FaultRecord) (o : Bool)

theorem State.resetFramed_port (k : Channel) : (s.resetFramed straps fs o).outputs.get k = .reset (s.outputs.get k).lane :=
  Quad.get_of _ k

/-- No port is ACTIVE, so no frame has lines (R34). -/
theorem State.resetFramed_form (k : Channel) : (s.resetFramed straps fs o).frameForm k = .noLines := by
  unfold State.frameForm
  rw [State.resetFramed_port]
  exact if_pos (Bool.or_true _)

theorem State.resetFramed_startedWarp (k : Channel) :
    (s.resetFramed straps fs o).startedWarp k = .reset (s.warps.get k).nextOrder := by
  have hwarp : (s.resetFramed straps fs o).warps.get k = .reset (s.warps.get k).nextOrder := Quad.get_of _ k
  unfold State.startedWarp
  rw [State.resetFramed_form, hwarp]
  split <;> rfl

theorem State.resetFramed_startedLight (k : Channel) : (s.resetFramed straps fs o).startedLight k =
    if straps.arrangement.hasChannel k then .untabled else .reset := by
  have hlight : (s.resetFramed straps fs o).lights.get k = .reset := Quad.get_all _ k
  have hparams : (s.resetFramed straps fs o).takeParams k = .untabled := by
    revert k
    exact forall_channel.2 ⟨fun _ => rfl, fun _ => rfl, fun _ => rfl, fun _ => rfl⟩
  unfold State.startedLight
  rw [State.resetFramed_form, hlight, hparams]
  rfl

/-! ### The part after a reset (R164, R192) -/

/-- The reset values, on which the channels `framed` have begun a first frame. -/
def State.resetBegun (framed : Channel → Bool) (timer : RasterTimer) (free pulses : Nat) : State :=
  { s.resetValues straps fs o with
    free := free
    timer := timer
    syncPulses := pulses
    loss := .counted framed
    tables := { TableStore.reset with unfit := Quad.of framed }
    lights := Quad.of fun k => if framed k then .untabled else .reset }

/-- A follower waits for the pulse of its master: the reset values stand. -/
theorem State.resetValues_eq_begun :
    s.resetValues straps fs o = s.resetBegun straps fs o (fun _ => false) (.reset s.now) s.free s.syncPulses := rfl

/-- The first frame start of a master or solo part. -/
theorem State.frameStart_resetValues (h : straps.role ≠ .follower) : ∃ pulses : Nat,
    (s.resetValues straps fs o).frameStart false = s.resetBegun straps fs o straps.arrangement.hasChannel
      ((RasterTimer.reset s.now).begin s.now 64 false) (s.free + 4) pulses := by
  obtain ⟨w, u, hunits, hget⟩ := State.channelStarts_starting (s := s.resetFramed straps fs o) rfl
  obtain ⟨p, hbegin, hports⟩ := State.beginFrame_eq { s.resetFramed straps fs o with warps := w, lights := u } false
  have hw : w = Quad.of fun k => .reset (s.warps.get k).nextOrder := Quad.ext_get fun k => by
    rw [(hget k).1, State.resetFramed_startedWarp, Quad.get_of]
  have hu : u = Quad.of fun k => if straps.arrangement.hasChannel k then .untabled else .reset := Quad.ext_get fun k => by
    rw [(hget k).2, State.resetFramed_startedLight, Quad.get_of]
  have hp : p = Quad.of fun k => .reset (s.outputs.get k).lane := Quad.ext_get fun k => by
    rw [hports, State.resetFramed_port, Quad.get_of]
    exact congrArg OutputPort.reset (List.append_nil _)
  rw [State.frameStart_eq, State.framed_resetValues s straps fs o h, hunits, hbegin, hw, hu, hp]
  exact ⟨_, rfl⟩

end

theorem State.resetBegun_blocksAtReset (s : State) {straps : StrapRecord} {framed : Channel → Bool} {timer : RasterTimer}
    (hframed : ∀ k, framed k = true ↔ straps.role ≠ .follower ∧ straps.arrangement.hasChannel k = true)
    (htimer : timer.width = 1920 ∧ timer.height = 1200 ∧ timer.periodUs = 16667 ∧ timer.start = s.now)
    (hphase : if straps.role = .follower then timer.phase = .blanking else timer.phase = .activeLines 0)
    (fs : List FaultRecord) (o : Bool) (free pulses : Nat) :
    (s.resetBegun straps fs o framed timer free pulses).blocksAtReset s.now := by
  refine ⟨rfl, rfl, rfl, rfl, rfl, rfl, rfl, rfl, rfl, rfl, rfl, rfl, fun k => ?_, htimer, hphase⟩
  intro begun
  have hk : begun ↔ framed k = true := (hframed k).symm
  have hring : SlotRing.reset.quiet = 255 ∧ SlotRing.reset.reject = .none := ⟨rfl, rfl⟩
  cases hf : framed k <;>
    simp [hk, hf, hring, State.resetBegun, State.resetValues, State.reset, SlotRing.reset_slot, Slot.reset, LossSelector.counted,
      LossSelector.reset, LightUnit.reset, LightUnit.untabled, FrameParameters.untabled, WarpUnit.reset, OutputPort.reset,
      ReverseLane.reset]

theorem State.firstFrame_follower {s : State} (h : s.straps.role = .follower) : s.firstFrame = s := by
  rw [State.firstFrame, h]

theorem State.firstFrame_owner {s : State} (h : s.straps.role ≠ .follower) : s.firstFrame = s.ownerFrame := by
  unfold State.firstFrame
  split
  next hr => exact absurd hr h
  all_goals rfl

/-- What a pin or FULL reset leaves: the first frame start, on a master or solo part, or none on a follower. -/
theorem State.firstFrame_resetValues (s : State) (straps : StrapRecord) (fs : List FaultRecord) (o : Bool) :
    let t := (s.resetValues straps fs o).firstFrame
    t.blocksAtReset s.now ∧ t.straps = straps ∧ t.faults = fs ∧ t.overflow = o := by
  by_cases h : straps.role = .follower
  · have hframed : ∀ k : Channel, false = true ↔ straps.role ≠ .follower ∧ straps.arrangement.hasChannel k = true :=
      fun _ => by simp [h]
    rw [State.firstFrame_follower h, State.resetValues_eq_begun]
    exact ⟨s.resetBegun_blocksAtReset hframed ⟨rfl, rfl, rfl, rfl⟩ (by rw [if_pos h]; rfl) fs o _ _, rfl, rfl, rfl⟩
  · obtain ⟨pulses, hstart⟩ := s.frameStart_resetValues straps fs o h
    rw [State.firstFrame_owner h, State.ownerFrame, hstart, State.levelNotices_disabled rfl]
    exact ⟨s.resetBegun_blocksAtReset (fun _ => (and_iff_right h).symm) ⟨rfl, rfl, rfl, rfl⟩ (by rw [if_neg h]; rfl) fs o _ _,
      rfl, rfl, rfl⟩

end Sys2Proof.Machine
end

section
/-! PROOF. The pin reset: the straps taken and every block at its reset value (R123, R192). -/

namespace Sys2Proof.Machine

/-! ### Straps (R192) -/

theorem arrangementTaken_eq : ∀ v : BitVec 2,
    arrangementTaken v = (if v = 1 then .b else if v = 2 then .c else .a, decide (v = 3)) := by
  decide

/-- The role and position taken, with the corrections of steps 2 and 3. -/
theorem positionTaken_roleTaken : ∀ (v : BitVec 2) (pos : BitVec 3), positionTaken (roleTaken v).1 pos =
      (if v = 1 then .master else if v = 2 ∧ pos ≠ 0 then .follower else .solo, if v = 1 then 0 else pos,
        decide ((v = 1 ∧ pos ≠ 0) ∨ (v = 2 ∧ pos = 0)))
    ∧ (roleTaken v).2 = decide (v = 3) := by
  decide

theorem takeStraps_eq (arr role : BitVec 2) (pos : BitVec 3) : takeStraps arr role pos =
    { arrSampled := arr, roleSampled := role, posSampled := pos,
      arrangement := if arr = 1 then .b else if arr = 2 then .c else .a,
      role := if role = 1 then .master else if role = 2 ∧ pos ≠ 0 then .follower else .solo,
      position := if role = 1 then 0 else pos,
      fault := decide (arr = 3 ∨ role = 3 ∨ (role = 1 ∧ pos ≠ 0) ∨ (role = 2 ∧ pos = 0)) } := by
  obtain ⟨hposition, hrole⟩ := positionTaken_roleTaken role pos
  unfold takeStraps
  dsimp only
  rw [arrangementTaken_eq, hposition, hrole]
  simp only [Bool.decide_or, Bool.or_assoc]

/-! ### The reset -/

theorem State.runStore_now (s : State) (n : Nat) : (s.runStore n).now = s.now := by
  obtain ⟨gs, o, l, ns, h⟩ := s.runStore_spec n
  rw [h]

/-- Settles O14: on the reset values the first frame start finds nothing to change beyond what R123 names. -/
theorem pinResetLeavesResetValues : Obligations.PinResetLeavesResetValues := by
  intro arr role pos done s
  obtain ⟨hblocks, hstraps, hfaults, hoverflow⟩ := (s.runStore done).firstFrame_resetValues (takeStraps arr role pos) [] false
  refine ⟨_, rfl, hstraps.trans (takeStraps_eq arr role pos), ?_, hfaults, hoverflow, fun hidle => ?_⟩
  · rw [← s.runStore_now done]
    exact hblocks
  · rw [State.firstFrame_flash, State.resetValues_flash, s.runStore_idle done hidle]

end Sys2Proof.Machine
end
